-- ==== Sys2Proof/Word.lean ====
section
/-!
DEFINITION. Widths of the values of Lasol 96, the two header records that instruction words share, and sparse
tables keyed by number.
-/
namespace Sys2Proof

/-- A byte. -/
abbrev Byte := BitVec 8
/-- A 32-bit register value (R18). -/
abbrev Word := BitVec 32
/-- A 64-bit pair, scalar or device register. -/
abbrev DWord := BitVec 64
/-- A 56-bit virtual address (R58). -/
abbrev VAddr := BitVec 56

/-- The fields that every fibre word carries beside its operands (R136): guard predicate and sense, the E bits
(bit 0 is E0), the ignorable hint and the must-understand hint. -/
structure FHdr where
  gp : BitVec 4 := 0
  gs : BitVec 1 := 0
  e  : BitVec 3 := 0
  h  : BitVec 2 := 0
  m  : BitVec 2 := 0
deriving DecidableEq, Repr

/-- The stage guard of a V, M, C or X slot (R143). -/
structure SGuard where
  en : BitVec 1 := 0
  st : BitVec 3 := 0
deriving DecidableEq, Repr

/-- A sparse table: pairs of key and value, keys strictly rising. -/
abbrev FMap (α : Type) := List (Nat × α)

namespace FMap

/-- The value at a key, if listed. -/
def find? {α : Type} : FMap α → Nat → Option α
  | [], _ => none
  | (k, v) :: t, n => if k = n then some v else find? t n

/-- The value at a key, or the value that an unlisted key has. -/
def get {α : Type} (m : FMap α) (n : Nat) (d : α) : α := (m.find? n).getD d

/-- The table with a key set. -/
def set {α : Type} : FMap α → Nat → α → FMap α
  | [], n, v => [(n, v)]
  | (k, w) :: t, n, v =>
    if n < k then (n, v) :: (k, w) :: t
    else if n = k then (n, v) :: t
    else (k, w) :: set t n v

/-- The table without a key. -/
def del {α : Type} : FMap α → Nat → FMap α
  | [], _ => []
  | (k, w) :: t, n => if n = k then t else (k, w) :: del t n

/-- The least number from `n` on that is no key; `fuel` bounds the search. -/
def freshFrom {α : Type} (m : FMap α) : Nat → Nat → Nat
  | 0, n => n
  | fuel + 1, n => if (m.find? n).isSome then freshFrom m fuel (n + 1) else n

/-- The least number that is no key. -/
def fresh {α : Type} (m : FMap α) : Nat := m.freshFrom m.length 0

/-- The values in key order. -/
def vals {α : Type} (m : FMap α) : List α := m.map (·.2)

end FMap

end Sys2Proof
end

