-- ==== Sys2Proof/Machine/Bits.lean ====
section
/-!
DEFINITION. Bit fields, sign extension, saturation and byte order: the helpers of R152 that work on bits.
-/
namespace Sys2Proof.Machine

/-- bits(x, hi, lo) of R152 on a natural number. -/
def bitsN (x hi lo : Nat) : Nat := (x >>> lo) % 2 ^ (hi + 1 - lo)

/-- Bit `i` of a natural number. -/
def bitN (x i : Nat) : Bool := x.testBit i

/-- sext(x, w) of R152: the low `w` bits read as two's complement. -/
def sextN (x w : Nat) : Int :=
  let v := x % 2 ^ w
  if 2 * v < 2 ^ w then (v : Int) else (v : Int) - 2 ^ w

/-- wrap(v, w) of R152, as a natural number. -/
def wrapN (v : Int) (w : Nat) : Nat := (v % (2 ^ w : Int)).toNat

/-- `v` clamped to the range from `lo` to `hi`. -/
def clampZ (v lo hi : Int) : Int := if v < lo then lo else if hi < v then hi else v

/-- sat_signed(v, w) of R152, as a natural number. -/
def satSignedN (v : Int) (w : Nat) : Nat := wrapN (clampZ v (-(2 ^ (w - 1) : Int)) (2 ^ (w - 1) - 1)) w

/-- sat_unsigned(v, w) of R152, as a natural number. -/
def satUnsignedN (v : Int) (w : Nat) : Nat := (clampZ v 0 (2 ^ w - 1)).toNat

/-- wrap(v, 32). -/
def wrap32 (v : Int) : Word := BitVec.ofInt 32 v
/-- wrap(v, 64). -/
def wrap64 (v : Int) : DWord := BitVec.ofInt 64 v
/-- sat_signed(v, 32). -/
def sat32 (v : Int) : Word := BitVec.ofInt 32 (clampZ v (-2147483648) 2147483647)

/-- An exact value written to 32 bits, saturating when the SAT bit is 1 (R156). -/
def fit32 (sat : BitVec 1) (v : Int) : Word := if sat = 1 then sat32 v else wrap32 v

/-- The low and high halves of a 64-bit value. -/
def lo32 (x : DWord) : Word := x.setWidth 32
/-- The high half of a 64-bit value. -/
def hi32 (x : DWord) : Word := (x >>> 32).setWidth 32
/-- A 64-bit value from its halves. -/
def pair64 (lo hi : Word) : DWord := hi ++ lo

/-- Rotate left within 64 bits by 7, as the path signature is (R173). -/
def rotl7 (x : DWord) : DWord := (x <<< 7) ||| (x >>> 57)

/-- The `n` little-endian bytes of a number (R4). -/
def toBytes : Nat → Nat → List Byte
  | 0, _ => []
  | n + 1, x => BitVec.ofNat 8 x :: toBytes n (x / 256)

/-- The number that little-endian bytes hold (R4). -/
def ofBytes : List Byte → Nat
  | [] => 0
  | b :: t => b.toNat + 256 * ofBytes t

/-- Ceiling of a quotient. -/
def ceilDiv (a b : Nat) : Nat := (a + b - 1) / b

/-- Bits of `x` in reverse order over `w` bits. -/
def revN (x : Nat) : Nat → Nat
  | 0 => 0
  | w + 1 => 2 * revN x w + (if x.testBit w then 1 else 0)

/-- The number of 1 bits among the low `w` bits. -/
def popcN (x : Nat) : Nat → Nat
  | 0 => 0
  | w + 1 => popcN x w + (if x.testBit w then 1 else 0)

/-- The number of leading zeros over `w` bits. -/
def clzN (x : Nat) : Nat → Nat
  | 0 => 0
  | w + 1 => if x.testBit w then 0 else clzN x w + 1

/-- The number of trailing zeros, counted from bit `i` on over `fuel` bits. -/
def ctzN (x : Nat) : Nat → Nat → Nat
  | 0, _ => 0
  | fuel + 1, i => if x.testBit i then 0 else ctzN x fuel (i + 1) + 1

/-- The elements of a list from `n` on, at most `k` of them. -/
def slice {α : Type} (l : List α) (n k : Nat) : List α := (l.drop n).take k

/-- The list with the elements from `n` on replaced by `v`, as far as the list goes. -/
def patch {α : Type} (l : List α) (n : Nat) (v : List α) : List α :=
  l.take n ++ v.take (l.length - n) ++ l.drop (n + v.length)

/-- Membership by decidable equality. -/
def hasN (l : List Nat) (n : Nat) : Bool := l.any (· == n)

/-- A list of numbers in ascending order with one number added, kept without repeats. -/
def insN : List Nat → Nat → List Nat
  | [], n => [n]
  | a :: t, n => if n < a then n :: a :: t else if n = a then a :: t else a :: insN t n

end Sys2Proof.Machine
end

