-- ==== Sys2Proof/Machine/Numbers.lean ====
section
/-!
DEFINITION. Element formats (R106 to R117), rounding and overflow (R118, R119), IEEE operations under R111, scales
(R115), and the orders of reductions (R125, R126). Real values are exact: an integer times a power of two.
-/
namespace Sys2Proof.Machine

/-- A value that a code holds: NaN, an infinity, or the finite value of a sign and `m * 2^e`; zero keeps its sign. -/
inductive Val where
  | nan
  | inf (neg : Bool)
  | fin (neg : Bool) (m : Nat) (e : Int)
deriving DecidableEq, Repr

/-- An exact value to be rounded: as `Val`, where `sticky` says that the magnitude lies strictly between `m * 2^e` and
`(m + 1) * 2^e`. -/
inductive RVal where
  | nan
  | inf (neg : Bool)
  | num (neg : Bool) (m : Nat) (e : Int) (sticky : Bool)
deriving DecidableEq, Repr

/-- A value as an exact value to be rounded. -/
def Val.toR : Val → RVal
  | .nan => .nan
  | .inf s => .inf s
  | .fin s m e => .num s m e false

/-- The parameters of a binary floating-point format (R109, R110): fraction bits, bias, exponent bits, and the
greatest finite code. -/
structure FloatFmt where
  width : Nat
  frac : Nat
  bias : Nat
  maxCode : Nat
  hasInf : Bool
  hasNan : Bool
deriving DecidableEq, Repr

/-- Rows of R109 and R110 by format code (R106). -/
def floatFmt (f : Nat) : Option FloatFmt :=
  match f with
  | 0x10 => some ⟨64, 52, 1023, 0x7FEFFFFFFFFFFFFF, true, true⟩
  | 0x11 => some ⟨32, 23, 127, 0x7F7FFFFF, true, true⟩
  | 0x12 => some ⟨16, 10, 15, 0x7BFF, true, true⟩
  | 0x13 => some ⟨16, 7, 127, 0x7F7F, true, true⟩
  | 0x14 => some ⟨8, 3, 7, 0x7E, false, true⟩
  | 0x15 => some ⟨8, 2, 15, 0x7B, true, true⟩
  | 0x16 => some ⟨6, 2, 3, 0x1F, false, false⟩
  | 0x17 => some ⟨6, 3, 1, 0x1F, false, false⟩
  | 0x18 => some ⟨4, 1, 1, 0x7, false, false⟩
  | _ => none

/-- The width of a format's code in bits (R106); 0 for a reserved code. -/
def fmtWidth (f : Nat) : Nat :=
  match f with
  | 0x00 | 0x01 | 0x14 | 0x15 | 0x19 | 0x1E | 0x1F => 8
  | 0x02 | 0x12 | 0x13 => 16
  | 0x03 | 0x11 => 32
  | 0x0F | 0x10 => 64
  | 0x16 | 0x17 => 6
  | 0x18 => 4
  | _ => if 4 ≤ f ∧ f ≤ 0xA then f - 2 else 0

/-- The bytes that an element of a format takes where 6- and 4-bit codes take a byte each (R241, R285). -/
def fmtBytes (f : Nat) : Nat := ceilDiv (fmtWidth f) 8

/-- Whether a format is an integer format of R108. -/
def isIntFmt (f : Nat) : Bool := hasN [0x00, 0x01, 0x02, 0x03, 0x0F] f

/-- The canonical NaN code of a format (R110). -/
def canonNan (f : Nat) : Nat :=
  match f with
  | 0x10 => 0x7FF8000000000000
  | 0x11 => 0x7FC00000
  | 0x12 => 0x7E00
  | 0x13 => 0x7FC0
  | 0x14 => 0x7F
  | 0x15 => 0x7E
  | _ => 0

/-- The sign bit position of a float format. -/
def FloatFmt.signBit (p : FloatFmt) : Nat := 2 ^ (p.width - 1)

/-- The infinity code of a float format that has one: the code after the greatest finite one. -/
def FloatFmt.infCode (p : FloatFmt) : Nat := p.maxCode + 1

/-- value_of for a binary floating-point format (R109). -/
def floatValue (p : FloatFmt) (c : Nat) : Val :=
  let s := c.testBit (p.width - 1)
  let mag := c % p.signBit
  if p.hasInf && mag == p.infCode then .inf s
  else if p.hasNan && decide (p.maxCode < mag) then .nan
  else
    let e := mag / 2 ^ p.frac
    let f := mag % 2 ^ p.frac
    if e = 0 then .fin s f (1 - (p.bias : Int) - p.frac)
    else .fin s (2 ^ p.frac + f) ((e : Int) - p.bias - p.frac)

/-- An integer as a value. -/
def intVal (v : Int) : Val := .fin (decide (v < 0)) v.natAbs 0

/-- An integer times a power of two as a value. -/
def scaledVal (v : Int) (e : Int) : Val := .fin (decide (v < 0)) v.natAbs e

/-- value_of of R152: the value of code `c` in format `f`. -/
def valueOf (c f : Nat) : Val :=
  match f with
  | 0x00 => intVal (sextN c 8)
  | 0x01 => intVal (c % 2 ^ 8 : Nat)
  | 0x02 => intVal (sextN c 16)
  | 0x03 => intVal (sextN c 32)
  | 0x0F => intVal (sextN c 64)
  | 0x19 => scaledVal (sextN c 8) (-6)
  | 0x1E =>
    if c.testBit 7 then .nan
    else if c % 128 = 0 then .fin false 0 0
    else .fin false (8 + c % 8) (((c / 8) % 16 : Nat) - 18)
  | 0x1F => if c % 256 = 0xFF then .nan else .fin false 1 ((c % 256 : Nat) - 127)
  | _ =>
    match floatFmt f with
    | some p => floatValue p (c % 2 ^ p.width)
    | none => if 4 ≤ f ∧ f ≤ 0xA then scaledVal (sextN c (f - 2)) (10 - (f : Int)) else .nan

/-- Whether rounding mode `rm` (R118) moves a magnitude with remainder up: `half` compares the remainder with half a
unit, `rest` says that it is not zero, `odd` that the lower candidate is odd. -/
def roundsUp (rm : Nat) (neg : Bool) (half : Ordering) (rest odd : Bool) : Bool :=
  match rm with
  | 0 => match half with
    | .gt => true
    | .eq => odd
    | .lt => false
  | 1 => false
  | 2 => neg && rest
  | _ => !neg && rest

/-- A magnitude `m * 2^e` (and a sticky remainder) rounded to a multiple of `2^q`: the multiple. -/
def roundMag (rm : Nat) (neg : Bool) (m : Nat) (e : Int) (sticky : Bool) (q : Int) : Nat :=
  if q ≤ e then m * 2 ^ (e - q).toNat
  else
    let sh := (q - e).toNat
    let n := m / 2 ^ sh
    let r := m % 2 ^ sh
    let half := compare (2 * r) (2 ^ sh)
    let half := if half = .eq ∧ sticky then .gt else half
    if roundsUp rm neg half (decide (r ≠ 0) || sticky) (decide (n % 2 = 1)) then n + 1 else n

/-- The code of a float format for an overflow (R119): `f` is the format code. -/
def overflowCode (p : FloatFmt) (f rm : Nat) (neg sat : Bool) : Nat :=
  let sg := if neg then p.signBit else 0
  if sat then sg + p.maxCode
  else if f = 0x14 then 0x7F
  else if !p.hasInf then sg + p.maxCode
  else match rm with
    | 0 => sg + p.infCode
    | 1 => sg + p.maxCode
    | 2 => if neg then sg + p.infCode else p.maxCode
    | _ => if neg then sg + p.maxCode else p.infCode

/-- round_to for a binary floating-point format (R118, R119). An infinite value in E4M3, a scaled one too, follows R119's table: 0x7F
without saturation. R115 speaks of the saturated value for a destination without infinities, "under R119", which is read as
what that table gives (log 90). -/
def roundFloat (p : FloatFmt) (f rm : Nat) (sat : Bool) (v : RVal) : Nat :=
  match v with
  | .nan => canonNan f
  | .inf s =>
    let sg := if s then p.signBit else 0
    if p.hasInf then sg + p.infCode
    else if f = 0x14 ∧ !sat then 0x7F else sg + p.maxCode
  | .num s m e sticky =>
    let sg := if s then p.signBit else 0
    if m = 0 ∧ !sticky then sg
    else
      let top : Int := e + Nat.log2 m
      let emin : Int := 1 - (p.bias : Int)
      let q : Int := (if top < emin then emin else top) - p.frac
      let n := roundMag rm s m e sticky q
      let code := ((q + p.frac + p.bias) - 1).toNat * 2 ^ p.frac + n
      if p.maxCode < code then overflowCode p f rm s sat else sg + code

/-- A value rounded to an integer multiple of `2^u` by the mode, then clamped: the multiple (R119). -/
def roundIntClamp (rm : Nat) (u lo hi : Int) (v : RVal) : Int :=
  match v with
  | .nan => 0
  | .inf s => if s then lo else hi
  | .num s m e sticky =>
    let n := roundMag rm s m e sticky u
    clampZ (if s then -(n : Int) else n) lo hi

/-- round_to(v, f, rm, sat) of R152: the code of `f` for `v`. -/
def roundTo (f rm : Nat) (sat : Bool) (v : RVal) : Nat :=
  match f with
  | 0x00 => wrapN (roundIntClamp rm 0 (-128) 127 v) 8
  | 0x01 => wrapN (roundIntClamp rm 0 0 255 v) 8
  | 0x02 => wrapN (roundIntClamp rm 0 (-32768) 32767 v) 16
  | 0x03 => wrapN (roundIntClamp rm 0 (-2 ^ 31) (2 ^ 31 - 1) v) 32
  | 0x0F => wrapN (roundIntClamp rm 0 (-2 ^ 63) (2 ^ 63 - 1) v) 64
  | 0x19 => wrapN (roundIntClamp rm (-6) (-127) 127 v) 8
  | _ =>
    match floatFmt f with
    | some p => roundFloat p f rm sat v
    | none =>
      if 4 ≤ f ∧ f ≤ 0xA then
        wrapN (roundIntClamp rm (10 - (f : Int)) (-2 ^ (f - 3)) (2 ^ (f - 3) - 1) v) (f - 2)
      else 0

/-- The sign of a value; NaN counts as positive. -/
def Val.neg : Val → Bool
  | .nan => false
  | .inf s => s
  | .fin s _ _ => s

/-- Whether a value is NaN. -/
def Val.isNan : Val → Bool
  | .nan => true
  | _ => false

/-- Whether a value is zero. -/
def Val.isZero : Val → Bool
  | .fin _ m _ => m == 0
  | _ => false

/-- Whether a value is finite. -/
def Val.isFin : Val → Bool
  | .fin _ _ _ => true
  | _ => false

/-- A finite value as an integer multiple of `2^e`, for an `e` no greater than its own exponent. -/
def scaleInt (neg : Bool) (m : Nat) (e' e : Int) : Int :=
  let v : Int := (m * 2 ^ (e' - e).toNat : Nat)
  if neg then -v else v

/-- The exact sum of two values under R111; `rd` says that the mode rounds down. -/
def addVal (rd : Bool) (a b : Val) : RVal :=
  match a, b with
  | .nan, _ => .nan
  | _, .nan => .nan
  | .inf s, .inf t => if s = t then .inf s else .nan
  | .inf s, .fin _ _ _ => .inf s
  | .fin _ _ _, .inf t => .inf t
  | .fin s m e, .fin t n k =>
    let q := if e < k then e else k
    let v := scaleInt s m e q + scaleInt t n k q
    if v = 0 then .num (if m = 0 ∧ n = 0 ∧ s = t then s else rd) 0 0 false
    else .num (decide (v < 0)) v.natAbs q false

/-- The value with its sign inverted. -/
def negVal : Val → Val
  | .nan => .nan
  | .inf s => .inf (!s)
  | .fin s m e => .fin (!s) m e

/-- The exact product of two values under R111. -/
def mulVal (a b : Val) : Val :=
  match a, b with
  | .nan, _ => .nan
  | _, .nan => .nan
  | .inf s, .inf t => .inf (s != t)
  | .inf s, .fin t n _ => if n = 0 then .nan else .inf (s != t)
  | .fin s m _, .inf t => if m = 0 then .nan else .inf (s != t)
  | .fin s m e, .fin t n k => .fin (s != t) (m * n) (e + k)

/-- The exact value of `a * b + c`, for one rounding. -/
def fmaVal (rd : Bool) (a b c : Val) : RVal := addVal rd (mulVal a b) c

/-- The quotient of two values, with `bits` bits more than the operands need for the rounding. -/
def divVal (bits : Nat) (a b : Val) : RVal :=
  match a, b with
  | .nan, _ => .nan
  | _, .nan => .nan
  | .inf _, .inf _ => .nan
  | .inf s, .fin t _ _ => .inf (s != t)
  | .fin s _ _, .inf t => .num (s != t) 0 0 false
  | .fin s m e, .fin t n k =>
    if n = 0 then (if m = 0 then .nan else .inf (s != t))
    else
      let sh := bits + Nat.log2 n
      let x := m * 2 ^ sh
      .num (s != t) (x / n) (e - k - sh) (decide (x % n ≠ 0))

/-- Integer square root by the digit method over `fuel` bit pairs: the root of the bits taken so far and their rest. -/
def isqrtGo (x : Nat) : Nat → Nat → Nat
  | 0, r => r
  | i + 1, r =>
    let c := r + 2 ^ i
    if c * c ≤ x then isqrtGo x i c else isqrtGo x i r

/-- Integer square root, rounded down. -/
def isqrt (x : Nat) : Nat := isqrtGo x (Nat.log2 x / 2 + 1) 0

/-- The square root of a value, with at least `bits` bits (R168, R169). -/
def sqrtVal (bits : Nat) (a : Val) : RVal :=
  match a with
  | .nan => .nan
  | .inf s => if s then .nan else .inf false
  | .fin s m e =>
    if m = 0 then .num s 0 0 false
    else if s then .nan
    else
      let sh := 2 * bits + (if e % 2 = 0 then 0 else 1)
      let x := m * 2 ^ sh
      let r := isqrt x
      .num false r ((e - sh) / 2) (decide (r * r ≠ x))

/-- 1 / √a, with at least `bits` bits (R169). -/
def rsqrtVal (bits : Nat) (a : Val) : RVal :=
  match a with
  | .nan => .nan
  | .inf s => if s then .nan else .num false 0 0 false
  | .fin s m e =>
    if m = 0 then .inf s
    else if s then .nan
    else
      -- with e even, 1 / √(m * 2^e) = √(2^(2k) / m) * 2^(-k - e / 2)
      let m' := if e % 2 = 0 then m else 2 * m
      let e' := if e % 2 = 0 then e else e - 1
      let k := bits + Nat.log2 m'
      let x := 2 ^ (2 * k) / m'
      let r := isqrt x
      .num false r (-(k : Int) - e' / 2) (decide (r * r * m' ≠ 2 ^ (2 * k)))

/-- 1 / a (R169). -/
def recipVal (bits : Nat) (a : Val) : RVal := divVal bits (.fin false 1 0) a

/-- Order of two values that are not NaN; −0 equals +0. -/
def cmpVal (a b : Val) : Ordering :=
  match a, b with
  | .inf s, .inf t => if s = t then .eq else if s then .lt else .gt
  | .inf s, _ => if s then .lt else .gt
  | _, .inf t => if t then .gt else .lt
  | .fin s m e, .fin t n k =>
    let q := if e < k then e else k
    compare (scaleInt s m e q) (scaleInt t n k q)
  | _, _ => .eq

/-- fmax_num and fmin_num of R128 on codes of format `f`. -/
def fminmax (isMax : Bool) (f a b : Nat) : Nat :=
  let x := valueOf a f
  let y := valueOf b f
  if x.isNan then (if y.isNan then canonNan f else b)
  else if y.isNan then a
  else
    match cmpVal x y with
    | .lt => if isMax then b else a
    | .gt => if isMax then a else b
    | .eq => if isMax then (if x.neg then b else a) else (if x.neg then a else b)

/-- The operations that round once by mode `rm`, on codes of float format `f` (R111, R118, R119). -/
def fAdd (f rm a b : Nat) (sat : Bool := false) : Nat := roundTo f rm sat (addVal (rm = 2) (valueOf a f) (valueOf b f))
/-- Subtraction. -/
def fSub (f rm a b : Nat) (sat : Bool := false) : Nat :=
  roundTo f rm sat (addVal (rm = 2) (valueOf a f) (negVal (valueOf b f)))
/-- Multiplication. -/
def fMul (f rm a b : Nat) (sat : Bool := false) : Nat := roundTo f rm sat (mulVal (valueOf a f) (valueOf b f)).toR
/-- Fused multiply-add. -/
def fFma (f rm a b c : Nat) (sat : Bool := false) : Nat :=
  roundTo f rm sat (fmaVal (rm = 2) (valueOf a f) (valueOf b f) (valueOf c f))
/-- Division. -/
def fDiv (f rm a b : Nat) : Nat := roundTo f rm false (divVal (fmtWidth f + 4) (valueOf a f) (valueOf b f))
/-- Square root. -/
def fSqrt (f rm a : Nat) : Nat := roundTo f rm false (sqrtVal (fmtWidth f + 4) (valueOf a f))

/-- FABS, VABS: the sign bit cleared, a NaN giving the canonical NaN (R166, R238). -/
def fAbs (f a : Nat) : Nat := if (valueOf a f).isNan then canonNan f else a % 2 ^ (fmtWidth f - 1)
/-- FNEG, VNEG: the sign bit inverted, a NaN giving the canonical NaN. -/
def fNeg (f a : Nat) : Nat :=
  if (valueOf a f).isNan then canonNan f else a ^^^ 2 ^ (fmtWidth f - 1)

/-- apply_scale of R115: the element value under a scale value. -/
def applyScale (x s : Val) : Val :=
  match s with
  | .nan => .nan
  | .inf _ => .nan
  | .fin _ 0 _ => if x.isFin then .fin x.neg 0 0 else .nan
  | .fin _ m e =>
    match x with
    | .nan => .nan
    | .inf t => .inf t
    | .fin t n k => .fin t (n * m) (k + e)

/-- A conversion of code `c` from format `sf` to format `df`, which scales first where a scale value is given
(R170, R171, R241, R285). -/
def convert (df sf rm : Nat) (sat : Bool) (c : Nat) (scale : Option Val := none) : Nat :=
  let x := valueOf c sf
  let x := match scale with
    | some s => applyScale x s
    | none => x
  roundTo df rm sat x.toR

/-- The half-LSB correction and plane selection of R116, R117: the code of the top `k` planes of a BP8 value. -/
def bpCode (x : Int) (k : Nat) (corr : Bool) : Int :=
  if corr ∧ k < 8 then
    let c := (x + 2 ^ (7 - k)) / 2 ^ (8 - k)
    if 2 ^ (k - 1) - 1 < c then 2 ^ (k - 1) - 1 else c
  else x / 2 ^ (8 - k)

/-- reduce_asc of R125 over a non-empty list. -/
def reduceAsc {α : Type} (op : α → α → α) : List α → Option α
  | [] => none
  | a :: t => some (t.foldl op a)

/-- One level of the tree of R126: neighbours combined. -/
def pairUp {α : Type} (op : α → α → α) : List α → List α
  | a :: b :: t => op a b :: pairUp op t
  | l => l

/-- reduce_pairwise of R126 over `levels` levels. -/
def reduceTree {α : Type} (op : α → α → α) : Nat → List α → List α
  | 0, l => l
  | n + 1, l => reduceTree op n (pairUp op l)

/-- reduce_pairwise of R126: over 2^levels positions, or `d` for an empty list. -/
def reducePairwise {α : Type} (op : α → α → α) (d : α) (levels : Nat) (l : List α) : α :=
  (reduceTree op levels l).headD d

/-- floor(log2 |x|) of a non-zero finite value. -/
def ilogb (m : Nat) (e : Int) : Int := e + Nat.log2 m

/-- The alignment of one block of values (R122): the unit, the mantissas, and whether an infinity or NaN stood there. -/
structure Aligned where
  unit : Int
  mants : List Int
  bad : Bool
deriving DecidableEq, Repr

/-- The largest floor(log2 |x|) over the non-zero finite values of a block. -/
def blockExp : List Val → Option Int
  | [] => none
  | .fin _ m e :: t =>
    if m = 0 then blockExp t
    else
      let a := ilogb m e
      match blockExp t with
      | some b => some (if a < b then b else a)
      | none => some a
  | _ :: t => blockExp t

/-- The aligned mantissa of R122 at unit `u`. -/
def alignOne (u : Int) : Val → Int
  | .fin s m e =>
    let n : Nat := if u ≤ e then m * 2 ^ (e - u).toNat else m / 2 ^ (u - e).toNat
    if s then -(n : Int) else n
  | _ => 0

/-- Alignment of a block to width `w` (R122). -/
def alignBlock (w : Nat) (xs : List Val) : Aligned :=
  let bad := xs.any (fun v => !v.isFin)
  match blockExp xs with
  | none => ⟨0, xs.map (fun _ => 0), bad⟩
  | some e =>
    let u := e - w + 2
    ⟨u, xs.map (alignOne u), bad⟩

/-- The largest normal exponent of an MX element format (R121). -/
def mxEmax (f : Nat) : Int :=
  match f with
  | 0x14 => 8
  | 0x15 => 15
  | 0x16 => 4
  | 0x17 | 0x18 => 2
  | _ => 0

/-- Quantising 32 values into an MX block of an element format (R121): the scale code and the element codes. No instruction of this
part makes such a block: the rule says what a program's conversion into one is. -/
def quantMX (f rm : Nat) (xs : List Val) : Nat × List Nat :=
  if xs.any (fun v => !v.isFin) then (0xFF, xs.map (fun _ => 0))
  else
    match blockExp xs with
    | none => (0, xs.map (fun v => roundTo f rm true v.toR))
    | some a =>
      let x := clampZ (a - mxEmax f) (-127) 127
      ((x + 127).toNat, xs.map (fun v =>
        match v with
        | .fin s m e => roundTo f rm true (.num s m (e - x) false)
        | _ => 0))

end Sys2Proof.Machine
end

