-- ==== Sys2Proof/Config.lean ====
section
/-!
DEFINITION. What the part fixes (capacities, R12 to R17) and the values the manual leaves open. An open value is an
opaque constant: nothing can evaluate it or prove a value of it (notes/assumptions says which rule leaves it open).
-/
namespace Sys2Proof.Config

/-- Cores of a cluster (R13). -/
def coresPerCluster : Nat := 192
/-- Cores of the device (R13). -/
def cores : Nat := 1536
/-- Bytes of one core's scratchpad (R15). -/
def spmBytes : Nat := 524288
/-- Registers of one core's register file (R15, R16). -/
def coreRegs : Nat := 98304
/-- Ordinary fibre contexts of a core (R15). -/
def coreFibres : Nat := 1023
/-- Bytes of one HBM4 stack (R59). -/
def stackBytes : Nat := 48 * 2 ^ 30

/-- Byte `a` of an SPM allocation that nothing has written, for the placement numbered `epoch` (R33 leaves it
unspecified). -/
opaque spmByte : Nat → Nat → BitVec 8

/-- Whether the upper of the two FP32 neighbours is returned by special function `op` for an input code (R169:
fixed for each input code, and no more is said). -/
opaque faithfulUp : Nat → BitVec 32 → Bool

/-- Cycles beyond the least that a promise lies in the future, for the `n`-th promise drawn (R208, R257). -/
opaque promiseSlack : Nat → Nat

/-- Which line a full L2 slice replaces, at the `n`-th replacement (R391 names no policy). -/
opaque victimChoice : Nat → Nat

/-- Which line a full L1 replaces, at the `n`-th replacement (R70 names no policy). -/
opaque l1Victim : Nat → Nat

/-- The byte that a read under one key (second) gets at an address from a block of 16 bytes of which it was written under
another (first), the keys numbered as keyTag numbers them (R381: what decryption under another key gives is not stated). -/
opaque otherKey : Nat → Nat → Nat → List (BitVec 8) → BitVec 8

/-- A random 512-bit key, the `n`-th drawn (R419). -/
opaque randomKey : Nat → BitVec 512

/-- The key that a wrapped blob holds under a session secret, or none where it does not unwrap (R419). -/
opaque unwrapKey : BitVec 256 → List (BitVec 8) → Option (BitVec 512)

/-- Whether an Ed25519 signature verifies under the ROM's Aedrel key (R415). -/
opaque verifyEd25519 : BitVec 384 → List (BitVec 8) → Bool

/-- Whether an ML-DSA-65 signature verifies under the ROM's Aedrel key (R415). -/
opaque verifyMlDsa : BitVec 384 → List (BitVec 8) → Bool

/-- The Ed25519 signature, 64 bytes, of the device identity over a transcript digest (R418). -/
opaque signEd25519 : BitVec 384 → BitVec 512
/-- The ML-DSA-65 signature, 3,309 bytes, of the device identity over a transcript digest (R418). -/
opaque signMlDsa : BitVec 384 → BitVec 26472

/-- The certificate chain of a slot of the device identity: 0 Ed25519, 1 ML-DSA-65 (R418). -/
opaque certChain : Nat → List (BitVec 8)

/-- The wrapped key that an SPDM session holds for an install started through KEYCMD, the `n`-th (R419 names the session and not
how the blob comes to it). -/
opaque wrappedKey : Nat → List (BitVec 8)

/-- The digest of the boot ROM (R415). -/
opaque romDigest : BitVec 384

/-- The suppressed cycles that hub firmware chooses at the update of a number for an island, from LIMIT, the module's power and
the island's temperature (R439 bounds it between FLOOR and 48, to keep power at LIMIT and temperature at 100 °C or below). -/
opaque supChoice : (update island limit power temp : Nat) → Nat

/-- The core that the part chooses among those on which a block fits, at the `n`-th placement (R346). -/
opaque coreChoice : Nat → Nat

/-- The place that the part chooses among those that a new block may have (its slot, its SPM base and its barriers), at the
`n`-th choice (R33). -/
opaque placeChoice : Nat → Nat

/-- Byte `o` of a discarded page of a shadow destination, the `n`-th discarded (R102 says no more than that its contents are
discarded). -/
opaque discardedByte : Nat → Nat → BitVec 8

/-- The firmware address in ra at a handler's entry, outside a handler's region and window (R387, R393): its bits [61:1]. -/
opaque firmwareReturn : BitVec 61

/-- The number by which INFO0 of BOUNDS names an instruction field or descriptor operand that has no code in R362. -/
opaque fieldCode : Nat → BitVec 64

/-- Whether the `n`-th copy command that stopped at a fault has performed iteration `e` (R96, R288: it may or may not). -/
opaque elementDone : Nat → Nat → Bool

/-- The command index in the stop record of an attached operation that failed its checks, the `n`-th drawn (R223 counts
only commands of tile programs and of XCOPY). -/
opaque attIndex : Nat → BitVec 32

/-- The flits that a peer link had to send again as it left STATE 2, at the `n`-th draw (R444 counts them and does not say how many
were not acknowledged). -/
opaque retransmitted : Nat → Nat

/-- The correctable errors that an island's storage corrected in a flash period (R440, R441: when they come is open). -/
opaque correctedErrors : Nat → Nat → Nat

/-- The bits that a read of tile storage gives where it meets an uncorrectable error, by the cycle and the address (R99, R440: it is
POISON). -/
opaque poisonBits : Nat → Nat → Nat

/-- Whether the fibres of a core at a PC are being re-formed into a gang in a cycle, their earlier forming having been wrong
(R14, R422: the manual does not say when). -/
opaque regroup : Nat → Nat → Nat → Bool

/-- One less than the cycles within which every event of open time happens at the latest (R87: a bounded time). -/
opaque delayBound : Nat

/-- Whether the `n`-th of a cycle's events whose time the manual leaves open waits for a later cycle (R11, R73, R87, R364:
a latency that no labelled statement gives is not bound). -/
opaque delayed : Nat → Nat → Bool

end Sys2Proof.Config
end

