-- ==== Sys2Proof/Syntax.lean ====
section
/-!
DEFINITION. The operations and events of Lasol 96: one constructor for each row of the opcode table. A constructor
carries the fields of its encoding that its description uses (R136, R137, R143, R147); the events of the part carry
what names the unit they happen at, and those of the surroundings also what arrives from outside.
-/
namespace Sys2Proof

/-- An operation or event of the part. -/
inductive Instr where
  -- Instruction words of the fibre set, stream words, X-slot operations and the issue of a bundle
  /-- NOP (R213). -/
  | nop (f : FHdr)
  /-- TRAP (R214). -/
  | trap (f : FHdr) (imm : BitVec 24)
  /-- BKPT (R215). -/
  | bkpt (f : FHdr) (imm : BitVec 24)
  /-- ERET (R360). -/
  | eret (f : FHdr)
  /-- RDSR (R211). -/
  | rdsr (f : FHdr) (d : BitVec 8) (num : BitVec 16)
  /-- WRSR (R211). -/
  | wrsr (f : FHdr) (sa : BitVec 8) (num : BitVec 16)
  /-- RDCYC (R212). -/
  | rdcyc (f : FHdr) (d : BitVec 8)
  /-- FEND (R185). -/
  | fend (f : FHdr)
  /-- SLEEP (R186). -/
  | sleep (f : FHdr) (sa : BitVec 8)
  /-- ADD (R156). -/
  | add (f : FHdr) (d sa sb : BitVec 8) (sat : BitVec 1)
  /-- SUB (R156). -/
  | sub (f : FHdr) (d sa sb : BitVec 8) (sat : BitVec 1)
  /-- MUL (R156). -/
  | mul (f : FHdr) (d sa sb : BitVec 8)
  /-- MULHI (R156). -/
  | mulhi (f : FHdr) (d sa sb : BitVec 8)
  /-- MULHIU (R156). -/
  | mulhiu (f : FHdr) (d sa sb : BitVec 8)
  /-- MAD (R156). -/
  | mad (f : FHdr) (d sa sb sc : BitVec 8) (sat : BitVec 1)
  /-- DIV (R157). -/
  | div (f : FHdr) (d sa sb : BitVec 8)
  /-- DIVU (R157). -/
  | divu (f : FHdr) (d sa sb : BitVec 8)
  /-- REM (R157). -/
  | rem (f : FHdr) (d sa sb : BitVec 8)
  /-- REMU (R157). -/
  | remu (f : FHdr) (d sa sb : BitVec 8)
  /-- MIN (R156). -/
  | min (f : FHdr) (d sa sb : BitVec 8)
  /-- MAX (R156). -/
  | max (f : FHdr) (d sa sb : BitVec 8)
  /-- MINU (R156). -/
  | minu (f : FHdr) (d sa sb : BitVec 8)
  /-- MAXU (R156). -/
  | maxu (f : FHdr) (d sa sb : BitVec 8)
  /-- ABS (R156). -/
  | abs (f : FHdr) (d sa : BitVec 8) (sat : BitVec 1)
  /-- NEG (R156). -/
  | neg (f : FHdr) (d sa : BitVec 8) (sat : BitVec 1)
  /-- ADDI (R158). -/
  | addi (f : FHdr) (d sa : BitVec 8) (imm : BitVec 16)
  /-- MULI (R158). -/
  | muli (f : FHdr) (d sa : BitVec 8) (imm : BitVec 16)
  /-- MINI (R158). -/
  | mini (f : FHdr) (d sa : BitVec 8) (imm : BitVec 16)
  /-- MAXI (R158). -/
  | maxi (f : FHdr) (d sa : BitVec 8) (imm : BitVec 16)
  /-- AND (R159). -/
  | and (f : FHdr) (d sa sb : BitVec 8)
  /-- OR (R159). -/
  | or (f : FHdr) (d sa sb : BitVec 8)
  /-- XOR (R159). -/
  | xor (f : FHdr) (d sa sb : BitVec 8)
  /-- ANDN (R159). -/
  | andn (f : FHdr) (d sa sb : BitVec 8)
  /-- NOT (R159). -/
  | not (f : FHdr) (d sa : BitVec 8)
  /-- SHL (R159). -/
  | shl (f : FHdr) (d sa sb : BitVec 8)
  /-- SHR (R159). -/
  | shr (f : FHdr) (d sa sb : BitVec 8)
  /-- SAR (R159). -/
  | sar (f : FHdr) (d sa sb : BitVec 8)
  /-- ROTL (R159). -/
  | rotl (f : FHdr) (d sa sb : BitVec 8)
  /-- ROTR (R159). -/
  | rotr (f : FHdr) (d sa sb : BitVec 8)
  /-- POPC (R159). -/
  | popc (f : FHdr) (d sa : BitVec 8)
  /-- CLZ (R159). -/
  | clz (f : FHdr) (d sa : BitVec 8)
  /-- CTZ (R159). -/
  | ctz (f : FHdr) (d sa : BitVec 8)
  /-- BREV (R159). -/
  | brev (f : FHdr) (d sa : BitVec 8)
  /-- BFE (R160). -/
  | bfe (f : FHdr) (d sa sb : BitVec 8) (sgn : BitVec 1)
  /-- BFI (R160). -/
  | bfi (f : FHdr) (d sa sb sc : BitVec 8)
  /-- BPICK (R160). -/
  | bpick (f : FHdr) (d sa sb sc : BitVec 8)
  /-- BLUT3 (R160). -/
  | blut3 (f : FHdr) (d sa sb sc lut : BitVec 8)
  /-- ANDI (R159). -/
  | andi (f : FHdr) (d sa : BitVec 8) (imm : BitVec 16)
  /-- ORI (R159). -/
  | ori (f : FHdr) (d sa : BitVec 8) (imm : BitVec 16)
  /-- XORI (R159). -/
  | xori (f : FHdr) (d sa : BitVec 8) (imm : BitVec 16)
  /-- SHLI (R159). -/
  | shli (f : FHdr) (d sa : BitVec 8) (imm : BitVec 5)
  /-- SHRI (R159). -/
  | shri (f : FHdr) (d sa : BitVec 8) (imm : BitVec 5)
  /-- SARI (R159). -/
  | sari (f : FHdr) (d sa : BitVec 8) (imm : BitVec 5)
  /-- ADD64 (R161). -/
  | add64 (f : FHdr) (d sa sb : BitVec 8)
  /-- SUB64 (R161). -/
  | sub64 (f : FHdr) (d sa sb : BitVec 8)
  /-- MUL64 (R161). -/
  | mul64 (f : FHdr) (d sa sb : BitVec 8)
  /-- MULW (R161). -/
  | mulw (f : FHdr) (d sa sb : BitVec 8)
  /-- MULWU (R161). -/
  | mulwu (f : FHdr) (d sa sb : BitVec 8)
  /-- SHL64 (R161). -/
  | shl64 (f : FHdr) (d sa sb : BitVec 8)
  /-- SHR64 (R161). -/
  | shr64 (f : FHdr) (d sa sb : BitVec 8)
  /-- SAR64 (R161). -/
  | sar64 (f : FHdr) (d sa sb : BitVec 8)
  /-- MIN64 (R161). -/
  | min64 (f : FHdr) (d sa sb : BitVec 8)
  /-- MAX64 (R161). -/
  | max64 (f : FHdr) (d sa sb : BitVec 8)
  /-- ADDI64 (R161). -/
  | addi64 (f : FHdr) (d sa : BitVec 8) (imm : BitVec 16)
  /-- LEA (R162). -/
  | lea (f : FHdr) (d sa sb : BitVec 8) (shift : BitVec 3) (u : BitVec 1)
  /-- MOV (R163). -/
  | mov (f : FHdr) (d sa : BitVec 8) (b64 : BitVec 1)
  /-- MOVI (R163). -/
  | movi (f : FHdr) (d : BitVec 8) (imm : BitVec 32)
  /-- SETP (R164). -/
  | setp (f : FHdr) (pd sa sb : BitVec 8) (cc ty : BitVec 3)
  /-- SEL (R163). -/
  | sel (f : FHdr) (d sa sb pc : BitVec 8) (b64 : BitVec 1)
  /-- SETPI (R164). -/
  | setpi (f : FHdr) (pd sa : BitVec 8) (cc : BitVec 3) (u : BitVec 1) (imm : BitVec 16)
  /-- PLUT3 (R165). -/
  | plut3 (f : FHdr) (pd pa pb pc lut : BitVec 8)
  /-- P2G (R165). -/
  | p2g (f : FHdr) (d : BitVec 8)
  /-- G2P (R165). -/
  | g2p (f : FHdr) (sa sb : BitVec 8)
  /-- FADD (R166). -/
  | fadd (f : FHdr) (d sa sb : BitVec 8) (rm : BitVec 2)
  /-- FSUB (R166). -/
  | fsub (f : FHdr) (d sa sb : BitVec 8) (rm : BitVec 2)
  /-- FMUL (R166). -/
  | fmul (f : FHdr) (d sa sb : BitVec 8) (rm : BitVec 2)
  /-- FFMA (R166). -/
  | ffma (f : FHdr) (d sa sb sc : BitVec 8) (rm : BitVec 2)
  /-- FMIN (R166). -/
  | fmin (f : FHdr) (d sa sb : BitVec 8)
  /-- FMAX (R166). -/
  | fmax (f : FHdr) (d sa sb : BitVec 8)
  /-- FABS (R166). -/
  | fabs (f : FHdr) (d sa : BitVec 8)
  /-- FNEG (R166). -/
  | fneg (f : FHdr) (d sa : BitVec 8)
  /-- FDIV (R166). -/
  | fdiv (f : FHdr) (d sa sb : BitVec 8) (rm : BitVec 2)
  /-- HADD2 (R167). -/
  | hadd2 (f : FHdr) (d sa sb : BitVec 8) (bf : BitVec 1) (rm : BitVec 2)
  /-- HSUB2 (R167). -/
  | hsub2 (f : FHdr) (d sa sb : BitVec 8) (bf : BitVec 1) (rm : BitVec 2)
  /-- HMUL2 (R167). -/
  | hmul2 (f : FHdr) (d sa sb : BitVec 8) (bf : BitVec 1) (rm : BitVec 2)
  /-- HFMA2 (R167). -/
  | hfma2 (f : FHdr) (d sa sb sc : BitVec 8) (bf : BitVec 1) (rm : BitVec 2)
  /-- HMIN2 (R167). -/
  | hmin2 (f : FHdr) (d sa sb : BitVec 8) (bf : BitVec 1)
  /-- HMAX2 (R167). -/
  | hmax2 (f : FHdr) (d sa sb : BitVec 8) (bf : BitVec 1)
  /-- DADD (R168). -/
  | dadd (f : FHdr) (d sa sb : BitVec 8) (rm : BitVec 2)
  /-- DSUB (R168). -/
  | dsub (f : FHdr) (d sa sb : BitVec 8) (rm : BitVec 2)
  /-- DMUL (R168). -/
  | dmul (f : FHdr) (d sa sb : BitVec 8) (rm : BitVec 2)
  /-- DFMA (R168). -/
  | dfma (f : FHdr) (d sa sb sc : BitVec 8) (rm : BitVec 2)
  /-- DMIN (R168). -/
  | dmin (f : FHdr) (d sa sb : BitVec 8)
  /-- DMAX (R168). -/
  | dmax (f : FHdr) (d sa sb : BitVec 8)
  /-- DDIV (R168). -/
  | ddiv (f : FHdr) (d sa sb : BitVec 8) (rm : BitVec 2)
  /-- DSQRT (R168). -/
  | dsqrt (f : FHdr) (d sa : BitVec 8) (rm : BitVec 2)
  /-- RCP (R169). -/
  | rcp (f : FHdr) (d sa : BitVec 8)
  /-- RSQ (R169). -/
  | rsq (f : FHdr) (d sa : BitVec 8)
  /-- SQRT (R169). -/
  | sqrt (f : FHdr) (d sa : BitVec 8)
  /-- EXP2 (R169). -/
  | exp2 (f : FHdr) (d sa : BitVec 8)
  /-- LOG2 (R169). -/
  | log2 (f : FHdr) (d sa : BitVec 8)
  /-- SIN (R169). -/
  | sin (f : FHdr) (d sa : BitVec 8)
  /-- COS (R169). -/
  | cos (f : FHdr) (d sa : BitVec 8)
  /-- TANH (R169). -/
  | tanh (f : FHdr) (d sa : BitVec 8)
  /-- CVT (R170). -/
  | cvt (f : FHdr) (d sa : BitVec 8) (df sf : BitVec 5) (sat : BitVec 1) (rm : BitVec 2)
  /-- CVTS (R171). -/
  | cvts (f : FHdr) (d sa sb : BitVec 8) (e8 : BitVec 1) (df sf : BitVec 5) (sat : BitVec 1) (rm : BitVec 2)
  /-- CVTPK (R172). -/
  | cvtpk (f : FHdr) (d sa sb sc : BitVec 8) (df : BitVec 5) (sat : BitVec 1) (rm : BitVec 2)
  /-- CVTUPK (R172). -/
  | cvtupk (f : FHdr) (d sa : BitVec 8) (sf : BitVec 5) (idx : BitVec 2)
  /-- BRA (R173). -/
  | bra (f : FHdr) (off : BitVec 32)
  /-- BRX (R173). -/
  | brx (f : FHdr) (sa : BitVec 8)
  /-- CALL (R173). -/
  | call (f : FHdr) (d : BitVec 8) (off : BitVec 32)
  /-- CALLX (R173). -/
  | callx (f : FHdr) (d sa : BitVec 8)
  /-- RET (R173). -/
  | ret (f : FHdr) (sa : BitVec 8)
  /-- ENROL (R36). -/
  | enrol (f : FHdr) (j : BitVec 8)
  /-- STRIKE (R36). -/
  | strike (f : FHdr) (j : BitVec 8)
  /-- PARK (R36). -/
  | park (f : FHdr) (j : BitVec 8)
  /-- XREAD (R177). -/
  | xread (f : FHdr) (d sa sb j : BitVec 8) (b64 : BitVec 1)
  /-- XVOTE (R178). -/
  | xvote (f : FHdr) (d pa j : BitVec 8) (op : BitVec 2)
  /-- XRED (R179). -/
  | xred (f : FHdr) (d sa j : BitVec 8) (op : BitVec 2) (ty : BitVec 3)
  /-- MATCH (R180). -/
  | matchw (f : FHdr) (d sa j : BitVec 8) (b64 : BitVec 1)
  /-- MATCHF (R180). -/
  | matchf (f : FHdr) (d sa j : BitVec 8)
  /-- ELECT (R181). -/
  | elect (f : FHdr) (pd j : BitVec 8)
  /-- SPAWN (R24). -/
  | spawn (f : FHdr) (sa sb sc : BitVec 8) (count : BitVec 3)
  /-- WAITJ (R183). -/
  | waitj (f : FHdr) (sa : BitVec 8)
  /-- LAUNCH (R184). -/
  | launch (f : FHdr) (d sa : BitVec 8) (queue : BitVec 7)
  /-- LD_G_I8 (R189). -/
  | ldGI8 (f : FHdr) (d sa : BitVec 8) (kind scope : BitVec 3) (off : BitVec 16)
  /-- LD_G_UI8 (R189). -/
  | ldGUi8 (f : FHdr) (d sa : BitVec 8) (kind scope : BitVec 3) (off : BitVec 16)
  /-- LD_G_I16 (R189). -/
  | ldGI16 (f : FHdr) (d sa : BitVec 8) (kind scope : BitVec 3) (off : BitVec 16)
  /-- LD_G_UI16 (R189). -/
  | ldGUi16 (f : FHdr) (d sa : BitVec 8) (kind scope : BitVec 3) (off : BitVec 16)
  /-- LD_G_B32 (R189). -/
  | ldGB32 (f : FHdr) (d sa : BitVec 8) (kind scope : BitVec 3) (off : BitVec 16)
  /-- LD_G_B64 (R189). -/
  | ldGB64 (f : FHdr) (d sa : BitVec 8) (kind scope : BitVec 3) (off : BitVec 16)
  /-- LD_G_B128 (R189). -/
  | ldGB128 (f : FHdr) (d sa : BitVec 8) (kind scope : BitVec 3) (off : BitVec 16)
  /-- ST_G_B8 (R189). -/
  | stGB8 (f : FHdr) (d sa : BitVec 8) (kind scope : BitVec 3) (off : BitVec 16)
  /-- ST_G_B16 (R189). -/
  | stGB16 (f : FHdr) (d sa : BitVec 8) (kind scope : BitVec 3) (off : BitVec 16)
  /-- ST_G_B32 (R189). -/
  | stGB32 (f : FHdr) (d sa : BitVec 8) (kind scope : BitVec 3) (off : BitVec 16)
  /-- ST_G_B64 (R189). -/
  | stGB64 (f : FHdr) (d sa : BitVec 8) (kind scope : BitVec 3) (off : BitVec 16)
  /-- ST_G_B128 (R189). -/
  | stGB128 (f : FHdr) (d sa : BitVec 8) (kind scope : BitVec 3) (off : BitVec 16)
  /-- LD_S_I8 (R190). -/
  | ldSI8 (f : FHdr) (d sa : BitVec 8) (hd : BitVec 4) (kind scope : BitVec 3) (off : BitVec 14)
  /-- LD_S_UI8 (R190). -/
  | ldSUi8 (f : FHdr) (d sa : BitVec 8) (hd : BitVec 4) (kind scope : BitVec 3) (off : BitVec 14)
  /-- LD_S_I16 (R190). -/
  | ldSI16 (f : FHdr) (d sa : BitVec 8) (hd : BitVec 4) (kind scope : BitVec 3) (off : BitVec 14)
  /-- LD_S_UI16 (R190). -/
  | ldSUi16 (f : FHdr) (d sa : BitVec 8) (hd : BitVec 4) (kind scope : BitVec 3) (off : BitVec 14)
  /-- LD_S_B32 (R190). -/
  | ldSB32 (f : FHdr) (d sa : BitVec 8) (hd : BitVec 4) (kind scope : BitVec 3) (off : BitVec 14)
  /-- LD_S_B64 (R190). -/
  | ldSB64 (f : FHdr) (d sa : BitVec 8) (hd : BitVec 4) (kind scope : BitVec 3) (off : BitVec 14)
  /-- LD_S_B128 (R190). -/
  | ldSB128 (f : FHdr) (d sa : BitVec 8) (hd : BitVec 4) (kind scope : BitVec 3) (off : BitVec 14)
  /-- ST_S_B8 (R190). -/
  | stSB8 (f : FHdr) (d sa : BitVec 8) (hd : BitVec 4) (kind scope : BitVec 3) (off : BitVec 14)
  /-- ST_S_B16 (R190). -/
  | stSB16 (f : FHdr) (d sa : BitVec 8) (hd : BitVec 4) (kind scope : BitVec 3) (off : BitVec 14)
  /-- ST_S_B32 (R190). -/
  | stSB32 (f : FHdr) (d sa : BitVec 8) (hd : BitVec 4) (kind scope : BitVec 3) (off : BitVec 14)
  /-- ST_S_B64 (R190). -/
  | stSB64 (f : FHdr) (d sa : BitVec 8) (hd : BitVec 4) (kind scope : BitVec 3) (off : BitVec 14)
  /-- ST_S_B128 (R190). -/
  | stSB128 (f : FHdr) (d sa : BitVec 8) (hd : BitVec 4) (kind scope : BitVec 3) (off : BitVec 14)
  /-- ATOM_ADD_I32 (R192). -/
  | atomAddI32 (f : FHdr) (d sa sb : BitVec 8) (kind scope : BitVec 3)
  /-- ATOMS_ADD_I32 (R193). -/
  | atomsAddI32 (f : FHdr) (d sa sb : BitVec 8) (hd : BitVec 4) (kind scope : BitVec 2)
  /-- ATOM_ADD_I64 (R192). -/
  | atomAddI64 (f : FHdr) (d sa sb : BitVec 8) (kind scope : BitVec 3)
  /-- ATOMS_ADD_I64 (R193). -/
  | atomsAddI64 (f : FHdr) (d sa sb : BitVec 8) (hd : BitVec 4) (kind scope : BitVec 2)
  /-- ATOM_AND_B32 (R192). -/
  | atomAndB32 (f : FHdr) (d sa sb : BitVec 8) (kind scope : BitVec 3)
  /-- ATOMS_AND_B32 (R193). -/
  | atomsAndB32 (f : FHdr) (d sa sb : BitVec 8) (hd : BitVec 4) (kind scope : BitVec 2)
  /-- ATOM_OR_B32 (R192). -/
  | atomOrB32 (f : FHdr) (d sa sb : BitVec 8) (kind scope : BitVec 3)
  /-- ATOMS_OR_B32 (R193). -/
  | atomsOrB32 (f : FHdr) (d sa sb : BitVec 8) (hd : BitVec 4) (kind scope : BitVec 2)
  /-- ATOM_XOR_B32 (R192). -/
  | atomXorB32 (f : FHdr) (d sa sb : BitVec 8) (kind scope : BitVec 3)
  /-- ATOMS_XOR_B32 (R193). -/
  | atomsXorB32 (f : FHdr) (d sa sb : BitVec 8) (hd : BitVec 4) (kind scope : BitVec 2)
  /-- ATOM_MIN_I32 (R192). -/
  | atomMinI32 (f : FHdr) (d sa sb : BitVec 8) (kind scope : BitVec 3)
  /-- ATOMS_MIN_I32 (R193). -/
  | atomsMinI32 (f : FHdr) (d sa sb : BitVec 8) (hd : BitVec 4) (kind scope : BitVec 2)
  /-- ATOM_MAX_I32 (R192). -/
  | atomMaxI32 (f : FHdr) (d sa sb : BitVec 8) (kind scope : BitVec 3)
  /-- ATOMS_MAX_I32 (R193). -/
  | atomsMaxI32 (f : FHdr) (d sa sb : BitVec 8) (hd : BitVec 4) (kind scope : BitVec 2)
  /-- ATOM_MIN_UI32 (R192). -/
  | atomMinUi32 (f : FHdr) (d sa sb : BitVec 8) (kind scope : BitVec 3)
  /-- ATOMS_MIN_UI32 (R193). -/
  | atomsMinUi32 (f : FHdr) (d sa sb : BitVec 8) (hd : BitVec 4) (kind scope : BitVec 2)
  /-- ATOM_MAX_UI32 (R192). -/
  | atomMaxUi32 (f : FHdr) (d sa sb : BitVec 8) (kind scope : BitVec 3)
  /-- ATOMS_MAX_UI32 (R193). -/
  | atomsMaxUi32 (f : FHdr) (d sa sb : BitVec 8) (hd : BitVec 4) (kind scope : BitVec 2)
  /-- ATOM_EXCH_B32 (R192). -/
  | atomExchB32 (f : FHdr) (d sa sb : BitVec 8) (kind scope : BitVec 3)
  /-- ATOMS_EXCH_B32 (R193). -/
  | atomsExchB32 (f : FHdr) (d sa sb : BitVec 8) (hd : BitVec 4) (kind scope : BitVec 2)
  /-- ATOM_EXCH_B64 (R192). -/
  | atomExchB64 (f : FHdr) (d sa sb : BitVec 8) (kind scope : BitVec 3)
  /-- ATOMS_EXCH_B64 (R193). -/
  | atomsExchB64 (f : FHdr) (d sa sb : BitVec 8) (hd : BitVec 4) (kind scope : BitVec 2)
  /-- ATOM_CAS_B32 (R192). -/
  | atomCasB32 (f : FHdr) (d sa sb sc : BitVec 8) (kind scope : BitVec 3)
  /-- ATOMS_CAS_B32 (R193). -/
  | atomsCasB32 (f : FHdr) (d sa sb sc : BitVec 8) (hd : BitVec 4) (kind scope : BitVec 2)
  /-- ATOM_CAS_B64 (R192). -/
  | atomCasB64 (f : FHdr) (d sa sb sc : BitVec 8) (kind scope : BitVec 3)
  /-- ATOMS_CAS_B64 (R193). -/
  | atomsCasB64 (f : FHdr) (d sa sb sc : BitVec 8) (hd : BitVec 4) (kind scope : BitVec 2)
  /-- ATOM_ADD_F32 (R192). -/
  | atomAddF32 (f : FHdr) (d sa sb : BitVec 8) (kind scope : BitVec 3)
  /-- ATOMS_ADD_F32 (R193). -/
  | atomsAddF32 (f : FHdr) (d sa sb : BitVec 8) (hd : BitVec 4) (kind scope : BitVec 2)
  /-- ATOM_MIN_F32 (R192). -/
  | atomMinF32 (f : FHdr) (d sa sb : BitVec 8) (kind scope : BitVec 3)
  /-- ATOMS_MIN_F32 (R193). -/
  | atomsMinF32 (f : FHdr) (d sa sb : BitVec 8) (hd : BitVec 4) (kind scope : BitVec 2)
  /-- ATOM_MAX_F32 (R192). -/
  | atomMaxF32 (f : FHdr) (d sa sb : BitVec 8) (kind scope : BitVec 3)
  /-- ATOMS_MAX_F32 (R193). -/
  | atomsMaxF32 (f : FHdr) (d sa sb : BitVec 8) (hd : BitVec 4) (kind scope : BitVec 2)
  /-- FENCE (R194). -/
  | fence (f : FHdr) (order : BitVec 2) (scope : BitVec 3)
  /-- PREF (R195). -/
  | pref (f : FHdr) (sa : BitVec 8)
  /-- LDROP (R196). -/
  | ldrop (f : FHdr) (sa : BitVec 8)
  /-- QPOP (R197). -/
  | qpop (f : FHdr) (d q pe : BitVec 8)
  /-- LMSG (R198). -/
  | lmsg (f : FHdr) (d sa sb : BitVec 8) (len : BitVec 3) (sel : BitVec 4)
  /-- HGIVE (R62). -/
  | hgive (f : FHdr) (hd sb : BitVec 8) (tag : BitVec 16)
  /-- HTAKE (R62). -/
  | htake (f : FHdr) (hd : BitVec 8) (tag : BitVec 16)
  /-- BARV (R200). -/
  | barv (f : FHdr) (d b : BitVec 8)
  /-- BWAIT (R201). -/
  | bwait (f : FHdr) (b sa : BitVec 8)
  /-- BSYNC (R200). -/
  | bsync (f : FHdr) (b : BitVec 8)
  /-- BSIGN (R43). -/
  | bsign (f : FHdr) (d b : BitVec 8)
  /-- BEXP (R200). -/
  | bexp (f : FHdr) (b sa : BitVec 8)
  /-- BATT (R203). -/
  | batt (f : FHdr) (b sa : BitVec 8) (j : BitVec 4)
  /-- GATE (R204). -/
  | gate (f : FHdr) (idx : BitVec 24)
  /-- XCOPY (R207). -/
  | xcopy (f : FHdr) (d sa bar : BitVec 8) (pm pt arr : BitVec 1)
  /-- PUBLISH (R210). -/
  | publish (f : FHdr) (sa sb : BitVec 8)
  /-- FMNX (R141). -/
  | fmnx (f : FHdr) (d sa sb : BitVec 8)
  /-- CVTF8 (R141). -/
  | cvtf8 (f : FHdr) (d sa : BitVec 8)
  /-- RDCYCL (R141). -/
  | rdcycl (f : FHdr) (d : BitVec 8)
  /-- PNOP (R283). -/
  | pnop
  /-- PLI (R283). -/
  | pli (md : BitVec 4) (imm : BitVec 22)
  /-- PADD (R283). -/
  | padd (md ma mb : BitVec 4)
  /-- PSUB (R283). -/
  | psub (md ma mb : BitVec 4)
  /-- PAND (R283). -/
  | pand (md ma mb : BitVec 4)
  /-- POR (R283). -/
  | por (md ma mb : BitVec 4)
  /-- PSHL (R283). -/
  | pshl (md ma mb : BitVec 4)
  /-- PSHR (R283). -/
  | pshr (md ma mb : BitVec 4)
  /-- PADDI (R283). -/
  | paddi (md ma : BitVec 4) (imm : BitVec 14)
  /-- PJMP (R283). -/
  | pjmp (off : BitVec 22)
  /-- PBNZ (R283). -/
  | pbnz (ma : BitVec 4) (off : BitVec 14)
  /-- PBEQ (R283). -/
  | pbeq (ma mb : BitVec 4) (off : BitVec 14)
  /-- PCHUNK (R284). -/
  | pchunk (md : BitVec 4)
  /-- PBITS (R284). -/
  | pbits (md : BitVec 4) (n : BitVec 6)
  /-- PTAB (R284). -/
  | ptab (n : BitVec 4)
  /-- PSYM (R284). -/
  | psym (md : BitVec 4) (n : BitVec 4)
  /-- PLIT (R284). -/
  | plit (ma : BitVec 4) (n : BitVec 14)
  /-- PBREF (R284). -/
  | pbref (ma mb : BitVec 4)
  /-- PALIGN (R284). -/
  | palign
  /-- PPLANE (R285). -/
  | pplane (k : BitVec 4) (corr : BitVec 1)
  /-- PCVT (R285). -/
  | pcvt (ma : BitVec 4) (sf df : BitVec 5) (rm : BitVec 2) (sat : BitVec 1)
  /-- PSCALE (R285). -/
  | pscale (ma mb : BitVec 4) (sf df : BitVec 5) (rm : BitVec 2) (sat : BitVec 1) (e8 : BitVec 1)
  /-- PPUSH (R285). -/
  | ppush (q : BitVec 3)
  /-- PEOS (R285). -/
  | peos (mask : BitVec 8)
  /-- PMODE (R286). -/
  | pmode (sc : BitVec 1) (v : BitVec 6)
  /-- PSCOUT (R286). -/
  | pscout (md : BitVec 4)
  /-- PEND (R285). -/
  | pend
  /-- XNOP (R267). -/
  | xnop (g : SGuard)
  /-- XPOSE (R268). -/
  | xpose (g : SGuard) (c a : BitVec 8)
  /-- CHAIN (R269). -/
  | chain (g : SGuard) (ka kb : BitVec 5) (n : BitVec 4)
  /-- CHORD (R270). -/
  | chord (g : SGuard) (ka : BitVec 5) (hd : BitVec 4) (cnt : BitVec 6)
  /-- CHSTEP (R271). -/
  | chstep (g : SGuard) (cnt : BitVec 6) (b : BitVec 4) (bae : BitVec 1)
  /-- CHEND (R273). -/
  | chend (g : SGuard) (kd : BitVec 5)
  /-- BUNDLE_ISSUE (R220). -/
  | bundleIssue (w : BitVec 256)
  /-- LOOP_NEST_BUNDLE (R245). -/
  | loopNestBundle (w : BitVec 256)
  /-- REPEAT_PREFIX (R253). -/
  | repeatPrefix (w : BitVec 256)
  -- The other slots of a bundle, and the events of the part and its surroundings
  /-- COLD_RESET (R8). -/
  | coldReset
  /-- BOOT_STAGE_VERIFY (R415). -/
  | bootStageVerify (image sig1 sig2 : List Byte)
  /-- REGISTER_WRITE (R8). -/
  | registerWrite (off : Nat) (v : BitVec 64)
  /-- LOAD_OBJECT (R316). -/
  | loadObject (ctx base : Nat) (file : List Byte)
  /-- SEAL_IMAGE (R318). -/
  | sealImage
  /-- SEAL_REQUEST (R334). -/
  | sealRequest
  /-- QTAIL_WRITE (R337). -/
  | qtailWrite (q : Nat) (v : BitVec 32)
  /-- QCTL_WRITE (R336). -/
  | qctlWrite (q : Nat) (v : BitVec 64)
  /-- LAUNCH_INBOX_ARRIVAL (R338). -/
  | launchInboxArrival
  /-- DISPATCH_TAKE_RECORD (R341). -/
  | dispatchTakeRecord
  /-- LAUNCH_COMPLETION (R342). -/
  | launchCompletion (id : Nat)
  /-- SUCCESSOR_INBOX_COPY (R342). -/
  | successorInboxCopy
  /-- BLOCK_PLACEMENT (R346). -/
  | blockPlacement (cluster core : Nat)
  /-- PLACEMENT_HEAD_AGING (R346). -/
  | placementHeadAging (cluster : Nat)
  /-- STAGGER_EXPIRY (R347). -/
  | staggerExpiry (id cluster : Nat)
  /-- MOORING_TIMER_EXPIRY (R30). -/
  | mooringTimerExpiry (core key : Nat)
  /-- JOIN_DECREMENT (R21). -/
  | joinDecrement (core id : Nat)
  /-- FIBRE_CONTEXT_FREE (R21). -/
  | fibreContextFree (core slot fib : Nat)
  /-- BLOCK_END (R35). -/
  | blockEnd (core slot : Nat)
  /-- LAMP_GRANT (R45). -/
  | lampGrant (core : Nat)
  /-- L1_LEASE_EXPIRY (R70). -/
  | l1LeaseExpiry (core line : Nat)
  /-- L2_REQUEST (R73). -/
  | l2Request (core id : Nat)
  /-- L2_FILL_ARRIVAL (R73). -/
  | l2FillArrival (slice line : Nat)
  /-- MERGE_WINDOW_CLOSE (R73). -/
  | mergeWindowClose (slice line : Nat)
  /-- FWCTL_WRITE (R76). -/
  | fwctlWrite (stack win : Nat) (v : BitVec 64)
  /-- WRITE_PERFORMED (R87). -/
  | writePerformed (core id : Nat)
  /-- LOAD_DATA_RETURN (R364). -/
  | loadDataReturn (core id : Nat)
  /-- PUBLISH_POINT (R101). -/
  | publishPoint (core : Nat)
  /-- LATENCY_WRITE_LANDING (R221). -/
  | latencyWriteLanding (core : Nat)
  /-- TRAP_ENTRY (R354). -/
  | trapEntry (core slot fib : Nat)
  /-- PENDING_TRAP_DELIVERY (R356). -/
  | pendingTrapDelivery (core slot fib : Nat)
  /-- LOOP_NEST_ITERATION (R245). -/
  | loopNestIteration (core : Nat)
  /-- REPEAT_ISSUE (R253). -/
  | repeatIssue (core : Nat)
  /-- ATTACHED_OP_START (R252). -/
  | attachedOpStart (core : Nat)
  /-- BLOADQ_ROW_POP (R247). -/
  | bloadqRowPop (core : Nat)
  /-- CPE_COMMAND_COMPLETE (R257). -/
  | cpeCommandComplete (core : Nat)
  /-- CPE_COMMAND_FAULT (R257). -/
  | cpeCommandFault (core : Nat)
  /-- PROMISE_EXPIRY (R209). -/
  | promiseExpiry (core id : Nat)
  /-- CHSTEP_STEP (R272). -/
  | chstepStep (core : Nat)
  /-- NETSLOT_BEAT (R301). -/
  | netslotBeat (core id : Nat)
  /-- NETSLOT_REPLY (R301). -/
  | netslotReply (core id : Nat)
  /-- STREAM_START (R275). -/
  | streamStart (core : Nat)
  /-- SCOUT_HEADER_READ (R286). -/
  | scoutHeaderRead (core : Nat)
  /-- FIU_ISSUE (R349). -/
  | fiuIssue (core : Nat)
  /-- FIBRE_URGENT (R349). -/
  | fibreUrgent (core slot fib : Nat)
  /-- CXPRE_NODE_SAVE (R370). -/
  | cxpreNodeSave (ctx : Nat) (v : BitVec 64)
  /-- NODE_BOUNDARY_SAVE (R371). -/
  | nodeBoundarySave (core : Nat)
  /-- CXPRE_FORCED_SAVE (R373). -/
  | cxpreForcedSave (ctx : Nat) (v : BitVec 64)
  /-- FORCED_SAVE_COMPLETE (R373). -/
  | forcedSaveComplete (core : Nat)
  /-- CXPRE_RESTORE (R374). -/
  | cxpreRestore (ctx : Nat) (v : BitVec 64)
  /-- PAGE_WALK (R385). -/
  | pageWalk (ctx page : Nat)
  /-- TICTL_INVALIDATE (R384). -/
  | tictlInvalidate (v : BitVec 64)
  /-- TLB_INVALIDATE_COMPLETE (R384). -/
  | tlbInvalidateComplete
  /-- LMSG_ARRIVAL (R392). -/
  | lmsgArrival (core id : Nat)
  /-- LANTERN_DISPATCH (R393). -/
  | lanternDispatch (slice : Nat)
  /-- LANTERN_RETURN (R395). -/
  | lanternReturn (slice : Nat)
  /-- LANTERN_BUDGET_ABORT (R396). -/
  | lanternBudgetAbort (slice : Nat)
  /-- LANTERN_WINDOW_ACCESS (R398). -/
  | lanternWindowAccess (slice : Nat)
  /-- LPREF_WRITE (R399). -/
  | lprefWrite (slice : Nat) (pa : BitVec 64)
  /-- LANTERN_PREFETCH_COMPLETE (R399). -/
  | lanternPrefetchComplete (slice line : Nat)
  /-- LSEND_WRITE (R400). -/
  | lsendWrite (slice : Nat) (addr : BitVec 64)
  /-- LANTERN_SEND_DELIVERY (R400). -/
  | lanternSendDelivery (slice : Nat)
  /-- LSTAT_READ (R388). -/
  | lstatRead (slice : Nat) (rd : BitVec 5)
  /-- LHCTL_WRITE (R389). -/
  | lhctlWrite (slice set : Nat) (v : BitVec 64)
  /-- LHSTAT_REARM (R397). -/
  | lhstatRearm (slice set : Nat)
  /-- BREAKPOINT_NOTICE (R410). -/
  | breakpointNotice (cluster : Nat)
  /-- DBGRSM_WRITE (R405). -/
  | dbgrsmWrite (cluster : Nat) (v : BitVec 64)
  /-- DEBUG_READ (R408). -/
  | debugRead (cluster : Nat)
  /-- DEBUG_WRITE (R408). -/
  | debugWrite (cluster : Nat)
  /-- DEBUG_RESUME (R408). -/
  | debugResume (cluster : Nat)
  /-- DEBUG_BPSET (R408). -/
  | debugBpset (cluster : Nat)
  /-- KEY_GENERATE (R419). -/
  | keyGenerate (ctx : Nat)
  /-- KEY_INSTALL (R419). -/
  | keyInstall (ctx sess : Nat) (wrapped : List Byte)
  /-- KEY_ERASE (R419). -/
  | keyErase (ctx : Nat)
  /-- KEYCMD_COMPLETE (R419). -/
  | keycmdComplete
  /-- MEASUREMENT_EXTEND (R417). -/
  | measurementExtend (slot : Nat) (digest : BitVec 384)
  /-- SPDM_MEASUREMENTS (R418). -/
  | spdmMeasurements (nonce : BitVec 256)
  /-- TDI_ERROR (R414). -/
  | tdiError (ctx : Nat)
  /-- FLASH_TICK (R426). -/
  | flashTick
  /-- FLASH_SYNC_EXCHANGE (R432). -/
  | flashSyncExchange (link : Nat) (master : BitVec 64)
  /-- THROTTLE_UPDATE (R439). -/
  | throttleUpdate (temps : List (BitVec 8)) (power : BitVec 12)
  /-- CONTEXT_KILL (R443). -/
  | contextKill (ctx : Nat)
  /-- CONTEXT_KILL_COMPLETE (R443). -/
  | contextKillComplete
  /-- PEER_LINK_STATE_CHANGE (R444). -/
  | peerLinkStateChange (link : Nat) (st : BitVec 2) (lanes : BitVec 8)
  /-- PEER_ACCESS_ARRIVAL (R104). -/
  | peerAccessArrival (link : Option Nat) (ctx : Nat) (write : Bool) (pa : Nat) (data : List Byte)
  /-- PEER_TRAFFIC_RELEASE (R379). -/
  | peerTrafficRelease
  /-- GANG_SLICE_ARM (R445). -/
  | gangSliceArm (ctx : Nat)
  /-- GANG_SLICE_START (R378). -/
  | gangSliceStart
  /-- GANG_SLICE_END (R445). -/
  | gangSliceEnd
  /-- SNOP (R143). -/
  | snop
  /-- ADDK (R227). -/
  | addk (kd ka : BitVec 5) (i : BitVec 1) (kb : BitVec 5) (imm : BitVec 32)
  /-- SUBK (R227). -/
  | subk (kd ka : BitVec 5) (i : BitVec 1) (kb : BitVec 5) (imm : BitVec 32)
  /-- MULK (R227). -/
  | mulk (kd ka : BitVec 5) (i : BitVec 1) (kb : BitVec 5) (imm : BitVec 32)
  /-- ANDK (R227). -/
  | andk (kd ka : BitVec 5) (i : BitVec 1) (kb : BitVec 5) (imm : BitVec 32)
  /-- ORK (R227). -/
  | ork (kd ka : BitVec 5) (i : BitVec 1) (kb : BitVec 5) (imm : BitVec 32)
  /-- XORK (R227). -/
  | xork (kd ka : BitVec 5) (i : BitVec 1) (kb : BitVec 5) (imm : BitVec 32)
  /-- SHLK (R227). -/
  | shlk (kd ka : BitVec 5) (i : BitVec 1) (kb : BitVec 5) (imm : BitVec 32)
  /-- SHRK (R227). -/
  | shrk (kd ka : BitVec 5) (i : BitVec 1) (kb : BitVec 5) (imm : BitVec 32)
  /-- SARK (R227). -/
  | sark (kd ka : BitVec 5) (i : BitVec 1) (kb : BitVec 5) (imm : BitVec 32)
  /-- MINK (R227). -/
  | mink (kd ka : BitVec 5) (i : BitVec 1) (kb : BitVec 5) (imm : BitVec 32)
  /-- MAXK (R227). -/
  | maxk (kd ka : BitVec 5) (i : BitVec 1) (kb : BitVec 5) (imm : BitVec 32)
  /-- SLTK (R227). -/
  | sltk (kd ka : BitVec 5) (i : BitVec 1) (kb : BitVec 5) (imm : BitVec 32)
  /-- SLTKU (R227). -/
  | sltku (kd ka : BitVec 5) (i : BitVec 1) (kb : BitVec 5) (imm : BitVec 32)
  /-- SEQK (R227). -/
  | seqk (kd ka : BitVec 5) (i : BitVec 1) (kb : BitVec 5) (imm : BitVec 32)
  /-- MOVK (R228). -/
  | movk (kd : BitVec 5) (i : BitVec 1) (ka : BitVec 5) (imm : BitVec 32)
  /-- MOVHK (R228). -/
  | movhk (kd : BitVec 5) (imm : BitVec 32)
  /-- ADDIK (R228). -/
  | addik (kd ka : BitVec 5) (imm : BitVec 32)
  /-- LDK (R229). -/
  | ldk (kd ka : BitVec 5) (size : BitVec 2) (sx : BitVec 1) (hd : BitVec 4) (imm : BitVec 32)
  /-- STK (R229). -/
  | stk (ka kb : BitVec 5) (size : BitVec 2) (hd : BitVec 4) (imm : BitVec 32)
  /-- BRK (R230). -/
  | brk (off : BitVec 32)
  /-- BNZK (R230). -/
  | bnzk (ka : BitVec 5) (off : BitVec 32)
  /-- LOOP (R231). -/
  | loop (n : BitVec 2) (i : BitVec 1) (ka : BitVec 5) (len count : BitVec 16)
  /-- LEND (R231). -/
  | lend (n : BitVec 2) (len : BitVec 16)
  /-- SETST (R232). -/
  | setst (i : BitVec 1) (ka : BitVec 5) (mask : BitVec 8) (fc : BitVec 24)
  /-- SETBD (R233). -/
  | setbd (n : BitVec 4) (i : BitVec 1) (ka : BitVec 5) (imm : BitVec 32)
  /-- SETAD (R233). -/
  | setad (n : BitVec 4) (ka : BitVec 5) (step : BitVec 16)
  /-- SETD (R233). -/
  | setd (n ka : BitVec 5) (hd : BitVec 4) (imm : BitVec 32)
  /-- RDSRK (R233). -/
  | rdsrk (kd : BitVec 5) (num : BitVec 8)
  /-- WRSRK (R233). -/
  | wrsrk (ka : BitVec 5) (num : BitVec 8)
  /-- ARRK (R234). -/
  | arrk (kd : BitVec 5) (b : BitVec 4)
  /-- WAITK (R234). -/
  | waitk (b : BitVec 4) (ka : BitVec 5)
  /-- SLEEPK (R234). -/
  | sleepk (ka : BitVec 5)
  /-- GRET (R236). -/
  | gret
  /-- VNOP (R143). -/
  | vnop (g : SGuard)
  /-- VADD (R238). -/
  | vadd (g : SGuard) (vd va vb : BitVec 7) (t : BitVec 5) (rm : BitVec 2) (sat : BitVec 1)
  /-- VSUB (R238). -/
  | vsub (g : SGuard) (vd va vb : BitVec 7) (t : BitVec 5) (rm : BitVec 2) (sat : BitVec 1)
  /-- VMUL (R238). -/
  | vmul (g : SGuard) (vd va vb : BitVec 7) (t : BitVec 5) (rm : BitVec 2) (sat : BitVec 1)
  /-- VFMA (R238). -/
  | vfma (g : SGuard) (vd va vb vc : BitVec 7) (t : BitVec 5) (rm : BitVec 2) (sat : BitVec 1)
  /-- VMIN (R238). -/
  | vmin (g : SGuard) (vd va vb : BitVec 7) (t : BitVec 5)
  /-- VMAX (R238). -/
  | vmax (g : SGuard) (vd va vb : BitVec 7) (t : BitVec 5)
  /-- VABS (R238). -/
  | vabs (g : SGuard) (vd va : BitVec 7) (t : BitVec 5) (sat : BitVec 1)
  /-- VNEG (R238). -/
  | vneg (g : SGuard) (vd va : BitVec 7) (t : BitVec 5) (sat : BitVec 1)
  /-- VAND (R238). -/
  | vand (g : SGuard) (vd va vb : BitVec 7)
  /-- VOR (R238). -/
  | vor (g : SGuard) (vd va vb : BitVec 7)
  /-- VXOR (R238). -/
  | vxor (g : SGuard) (vd va vb : BitVec 7)
  /-- VSHL (R238). -/
  | vshl (g : SGuard) (vd va vb : BitVec 7) (t : BitVec 5)
  /-- VSHR (R238). -/
  | vshr (g : SGuard) (vd va vb : BitVec 7) (t : BitVec 5)
  /-- VSAR (R238). -/
  | vsar (g : SGuard) (vd va vb : BitVec 7) (t : BitVec 5)
  /-- VCMP (R239). -/
  | vcmp (g : SGuard) (vd va vb : BitVec 7) (t : BitVec 5) (cc : BitVec 3)
  /-- VSEL (R239). -/
  | vsel (g : SGuard) (vd va vb vc : BitVec 7) (t : BitVec 5)
  /-- VRCP (R240). -/
  | vrcp (g : SGuard) (vd va : BitVec 7) (t : BitVec 5) (rm : BitVec 2) (sat : BitVec 1)
  /-- VRSQ (R240). -/
  | vrsq (g : SGuard) (vd va : BitVec 7) (t : BitVec 5) (rm : BitVec 2) (sat : BitVec 1)
  /-- VEXP2 (R240). -/
  | vexp2 (g : SGuard) (vd va : BitVec 7) (t : BitVec 5) (rm : BitVec 2) (sat : BitVec 1)
  /-- VLOG2 (R240). -/
  | vlog2 (g : SGuard) (vd va : BitVec 7) (t : BitVec 5) (rm : BitVec 2) (sat : BitVec 1)
  /-- VCVT (R241). -/
  | vcvt (g : SGuard) (vd va : BitVec 7) (sf df : BitVec 5) (part : BitVec 2) (rm : BitVec 2) (sat : BitVec 1)
  /-- VSCALE (R241). -/
  | vscale (g : SGuard) (vd va vb : BitVec 7) (sf df : BitVec 5) (part : BitVec 2) (e8 : BitVec 1) (lg : BitVec 3) (rm : BitVec 2) (sat : BitVec 1)
  /-- VREDL (R242). -/
  | vredl (g : SGuard) (vd va : BitVec 7) (t : BitVec 5) (op : BitVec 2) (rm : BitVec 2) (sat : BitVec 1)
  /-- VREDR (R242). -/
  | vredr (g : SGuard) (vd va : BitVec 7) (t : BitVec 5) (op : BitVec 2) (cnt : BitVec 5) (rm : BitVec 2) (sat : BitVec 1)
  /-- VLD (R243). -/
  | vld (g : SGuard) (vd : BitVec 7) (hd ad : BitVec 4) (use : BitVec 1) (off : BitVec 9)
  /-- VST (R243). -/
  | vst (g : SGuard) (va : BitVec 7) (hd ad : BitVec 4) (use : BitVec 1) (off : BitVec 9)
  /-- VBCAST (R243). -/
  | vbcast (g : SGuard) (vd va : BitVec 7) (t : BitVec 5) (usek : BitVec 1) (lane : BitVec 8)
  /-- VMOV (R243). -/
  | vmov (g : SGuard) (vd va : BitVec 7)
  /-- VQPOP (R244). -/
  | vqpop (g : SGuard) (vd : BitVec 7) (q : BitVec 3)
  /-- MNOP (R143). -/
  | mnop (g : SGuard)
  /-- MMA (R249). -/
  | mma (g : SGuard) (c a : BitVec 8) (unit : BitVec 7) (rows : BitVec 4) (af : BitVec 5) (corr sat : BitVec 1) (cpk : BitVec 5)
  /-- MMAQ (R249). -/
  | mmaq (g : SGuard) (c : BitVec 8) (q : BitVec 3) (unit : BitVec 7) (rows : BitVec 4) (af : BitVec 5) (corr sat : BitVec 1) (cpk : BitVec 5)
  /-- BLOAD (R247). -/
  | bload (g : SGuard) (unit : BitVec 7) (src : BitVec 8) (bf : BitVec 5) (corr mx : BitVec 1)
  /-- BLOADQ (R247). -/
  | bloadq (g : SGuard) (unit : BitVec 7) (q : BitVec 3) (bf : BitVec 5) (corr mx : BitVec 1)
  /-- MCLR (R251). -/
  | mclr (g : SGuard) (c : BitVec 8) (cnt : BitVec 6) (w : BitVec 1)
  /-- CNOP (R143). -/
  | cnop (g : SGuard)
  /-- COPY (R257). -/
  | copy (g : SGuard) (ds dd : BitVec 5) (ada : BitVec 4) (sae : BitVec 1) (adb : BitVec 4) (dae : BitVec 1) (bar : BitVec 4) (bae : BitVec 1) (kp : BitVec 5) (pt : BitVec 1)
  /-- COPYP (R257). -/
  | copyp (g : SGuard) (ds dd : BitVec 5) (ada : BitVec 4) (sae : BitVec 1) (adb : BitVec 4) (dae : BitVec 1) (bar : BitVec 4) (bae : BitVec 1) (kp : BitVec 5) (pt : BitVec 1)
  /-- CPACK (R258). -/
  | cpack (g : SGuard) (ds dd : BitVec 5) (ada : BitVec 4) (sae : BitVec 1) (adb : BitVec 4) (dae : BitVec 1) (bar : BitVec 4) (bae : BitVec 1) (kp : BitVec 5) (pt : BitVec 1) (fac : BitVec 8)
  /-- CUNPK (R258). -/
  | cunpk (g : SGuard) (ds dd : BitVec 5) (ada : BitVec 4) (sae : BitVec 1) (adb : BitVec 4) (dae : BitVec 1) (bar : BitVec 4) (bae : BitVec 1) (kp : BitVec 5) (pt : BitVec 1) (fac : BitVec 8)
  /-- PUB (R259). -/
  | pub (g : SGuard) (ka kb : BitVec 5) (bar : BitVec 4) (bae : BitVec 1) (kp : BitVec 5) (pt : BitVec 1)
  /-- LANTERN_HANDLER_INSTRUCTION (R386). -/
  | lanternHandlerInstruction (w : BitVec 32)
  /-- IMAGE_UNLOAD (R313). -/
  | imageUnload (ctx image : Nat)
  /-- TDISP_REQUEST (R414). -/
  | tdispRequest (ctx : Nat) (msg : BitVec 8)
  /-- SPDM_SESSION (R419). -/
  | spdmSession (sess : Nat) (secret : BitVec 256)
deriving DecidableEq, Repr

end Sys2Proof
end

