-- ==== Sys2Proof/Machine/State.lean ====
section
/-!
DEFINITION. The state of Lasol 96 as plain data: the package, its hub, clusters, cores, slices and stacks, and the
fibres and blocks that live on the cores, with State.reset, the faults and the refusals. INVENTORY.md lists each field
with the rule that names it.
-/
namespace Sys2Proof.Machine

/-- Why a step stops with a fault. -/
inductive Fault where
  /-- The agenda names no agent that can run the instruction: raised by a meaning whose agent (a fibre, the tile
  program of a lamp holder, a running stream program, a running handler) is not there. The part never issues such an
  instruction. Safe: it stops. -/
  | noAgent
deriving DecidableEq, Repr

/-- Why a step has no meaning for what it met. -/
inductive Refusal where
  /-- An instruction whose meaning is not written, by its mnemonic: raised by arms of exec only. Safe: it stops. -/
  | notModelled (mnemonic : String)
  /-- A fetched word that no encoding of this part has (R149): the sealer never seals such a word. Raised by step.
  Safe: it stops. -/
  | unassigned
  /-- A fetched word with a reserved field, code or bit set (R149): the sealer never seals it. Raised by step, and by a
  bundle with such a slot. Safe: it stops. -/
  | reservedEncoding
deriving DecidableEq, Repr

/-- Who issues an instruction (R81). -/
inductive Agent where
  | none
  | fibre (core slot fib : Nat)
  | tile (core : Nat)
  | producer (core : Nat)
  | lantern (slice : Nat)
  | hub
  | host
deriving DecidableEq, Repr

/-- A turn of the agenda: an agent fetches and issues its next instruction, an event from outside the part happens, or one of
the part's own events may happen in the cycle. -/
inductive Turn where
  | issue (a : Agent)
  | event (a : Agent) (i : Instr)
  | landing (core : Nat)
  | chain (core : Nat)
  | repeated (core : Nat)
  | nest (core : Nat)
  | rowPop (core : Nat)
  | attached (core : Nat)
  | request (core id : Nat)
  | perform (core id : Nat)
  | answer (core id : Nat)
  | beat (core id : Nat)
  | reply (core id : Nat)
  | message (core id : Nat)
  | join (core id : Nat)
  | submit
  | lease (core line : Nat)
  | fill (slice line : Nat)
  | window (slice line : Nat)
  | walk (ctx page : Nat)
  | copyDone (core : Nat)
  | copyFault (core : Nat)
  | publish (core : Nat)
  | promise (core id : Nat)
  | enter (core slot fib : Nat)
  | pending (core slot fib : Nat)
  | flash
  | fiu (core : Nat)
  | scout (core : Nat)
  | streamStart (core : Nat)
  | lantern (slice : Nat)
  | prefetched (slice line : Nat)
  | send (slice : Nat)
  | urgent (core slot fib : Nat)
  | ctxFree (core slot fib : Nat)
  | blockEnd (core slot : Nat)
  | lamp (core : Nat)
  | take
  | finish (id : Nat)
  | successor
  | aging (cluster : Nat)
  | stagger (id cluster : Nat)
  | place (cluster : Nat)
  | nodeSave (core : Nat)
  | restore (core : Nat)
  | forcedSave (core : Nat)
  | invalidated
  | killed
  | keyed
  | sliceStart
  | sliceEnd
  | peers
  | notice (cluster : Nat)
  | monitor (cluster : Nat)
  | sealImage
  | mooring (core key : Nat)
  | throttle
deriving DecidableEq, Repr

/-- A register of a fibre window with its full bit, poison mark and load tag (R18, R99, R364). -/
structure Reg where
  val : Word := 0
  full : Bool := true
  poison : Bool := false
  tag : BitVec 16 := 0
deriving DecidableEq, Repr

/-- The buffer that a handle names (R60): home core (device index), base, length and context, with the home block's
slot and whether the block that homes it still lives (R64). -/
structure Buf where
  home : Nat := 0
  base : Nat := 0
  len : Nat := 0
  ctx : Nat := 0
  owner : Nat := 0
  valid : Bool := true
deriving DecidableEq, Repr

/-- An engine's or the sequencer's stop record (R366, R367, R288). -/
structure StopRec where
  engine : BitVec 8 := 0
  trap : BitVec 8 := 0
  reason : BitVec 8 := 0
  access : BitVec 8 := 0
  cmdidx : BitVec 32 := 0
  addr : BitVec 64 := 0
  status : BitVec 64 := 0
  spc : BitVec 64 := 0
  progress : BitVec 32 := 0
deriving DecidableEq, Repr

/-- A gate frame (R368). -/
structure GateFrame where
  core : Nat := 0
  slot : Nat := 0
  record : Nat := 0
  gatepc : VAddr := 0
  gtab : VAddr := 0
deriving DecidableEq, Repr

/-- A trap on its way into a frame (R362, R363); `since` is its place among the traps that have become pending (R356). -/
structure Trap where
  code : BitVec 8
  pc : BitVec 64 := 0
  word : BitVec 64 := 0
  addr : BitVec 64 := 0
  info0 : BitVec 64 := 0
  info1 : BitVec 64 := 0
  tile : Bool := false
  async : Bool := false
  gate : Option GateFrame := none
  stop : Option StopRec := none
  since : Nat := 0
deriving DecidableEq, Repr

/-- The waits of R54, R188, R349 and R354, with what each names: a barrier wait the number of the completion that ends it, and
`order` is that of an ERET for the fibre's earlier accesses (R85, R360). -/
inductive Wait where
  | emptyReg (regs : List Nat)
  | rejoin (j : Nat)
  | barrier (bar nth : Nat)
  | gate
  | lamp
  | join
  | moored
  | qempty (q : Nat)
  | sleep (until_ : Nat)
  | handle
  | engbusy
  | xlate (acc va : Nat)
  | order
deriving DecidableEq, Repr

/-- What a fibre is doing: ready, waiting at its next instruction, waiting for a frame slot to enter a trap (R354),
stopped by a failed entry (R355), stopped for the debug monitor (R361) or ended (R21). -/
inductive FStatus where
  | ready
  | waiting (w : Wait)
  | trapping (t : Trap)
  | dead (kind : BitVec 8)
  | debug
  | ended
deriving DecidableEq, Repr

/-- A fibre (R18). `hold` gives the first cycle in which a register, or the predicate 256 + n, may be read (R155). -/
structure Fibre where
  pc : VAddr := 0
  preds : BitVec 16 := 1
  regs : FMap Reg := []
  join : VAddr := 0
  sig : BitVec 64 := 0
  depth : Nat := 0
  frame : VAddr := 0
  frames : List Nat := []
  pending : List Trap := []
  tagCtr : BitVec 16 := 0
  hold : FMap Nat := []
  status : FStatus := .ready
  xcopies : Nat := 0
  readyAt : Nat := 0
  urgentAt : Option Nat := none
  acqTime : Nat := 0
  bsynced : FMap (Nat × Nat) := []
deriving DecidableEq, Repr

/-- What a rendezvous instruction asks of its round (R176). -/
inductive RvOp where
  | park
  | xread (d : Nat) (b64 : Bool)
  | xvote (d op : Nat)
  | xred (d op ty : Nat)
  | matchKey (d : Nat) (b64 : Bool)
  | matchF (d : Nat)
  | elect (pd : Nat)
deriving DecidableEq, Repr

/-- One fibre's arrival in a round: its address, whether it is active, and its values (R37, R38). -/
structure Arrival where
  fib : Nat
  pc : VAddr
  active : Bool
  val : BitVec 64
  idx : Nat
  pred : Bool
  op : RvOp
deriving DecidableEq, Repr

/-- A rejoin mask (R36). -/
structure Mask where
  enrolled : List Nat := []
  arrived : List Arrival := []
deriving DecidableEq, Repr

/-- A barrier (R40), with the fibres that attached its operation and signed last (R203). `done` counts its completed phases, so
that a wait and an arrival name the completion that they mean (R41, R201). -/
structure Bar where
  expected : Nat := 1
  arrived : Nat := 0
  phase : Bool := false
  att : Option (BitVec 48) := none
  signers : List Nat := []
  attBy : Nat := 0
  signBy : Option Nat := none
  slot : Nat := 0
  done : Nat := 0
deriving DecidableEq, Repr

/-- A task record (R23), with the class and priority that its spawning block passes down (R346), and its slot in the cluster's
mooring queue where it stands there (R348). -/
structure Task where
  entry : VAddr := 0
  args : List Word := []
  join : VAddr := 0
  cls : Nat := 0
  prio : Nat := 0
  slot : Option Nat := none
deriving DecidableEq, Repr

/-- A resident block (R32, R33). `gbuf` is the buffer of its gather area, `pending` its engine faults from after a GRET
(R446), `owed` the one of these that a fibre's handler has and has not returned from. -/
structure Block where
  ctx : Nat := 0
  blk : Word := 0
  stage : Nat := 0
  nfibre : Nat := 0
  win : Nat := 0
  bars : List Nat := []
  spmBase : Nat := 0
  spmLen : Nat := 0
  epoch : Nat := 0
  entry : VAddr := 0
  record : VAddr := 0
  launch : Option Nat := none
  fibres : FMap Fibre := []
  handles : FMap Buf := []
  masks : FMap Mask := []
  gate : Option GateFrame := none
  gbuf : Option Buf := none
  requested : Bool := false
  sigSum : BitVec 64 := 0
  pending : List Trap := []
  owed : Option (Nat × Trap) := none
  cls : Nat := 0
  prio : Nat := 0
  trace : Option (Nat × Nat) := none
  sigRing : Option (Nat × Nat) := none
  weights : Bool := false
  fuse : Bool := false
deriving DecidableEq, Repr

/-- A node of a loaded image (R27, R310). -/
structure Node where
  entry : VAddr := 0
  count : Nat := 1
  timer : Nat := 64
  win : Nat := 8
  spm : Nat := 0
  nbar : Nat := 0
  stage : Nat := 0
  weights : Bool := false
deriving DecidableEq, Repr

/-- A mooring (R28): its node, its records in arrival order, the expiry of its timer, and whether its records stand in
the cluster's mooring queue. -/
structure Mooring where
  ctx : Nat := 0
  node : Node := {}
  recs : List Task := []
  expiry : Option Nat := none
  spilled : Bool := false
deriving DecidableEq, Repr

/-- An entry of a core's handle inbox (R62). -/
structure InboxEntry where
  buf : Buf
  tag : BitVec 16
  ctx : Nat
deriving DecidableEq, Repr

/-- Kinds of outstanding access, and the two marks of program order: a FENCE with its order (R194), and the arrival of a
fibre on a barrier of its core, with the number of the completion to which it counts (R41). -/
inductive AOp where
  | load (signed : Bool) (ext : Nat)
  | store
  | rmw (op : Nat)
  | joinDec
  | lmsg (sel : Nat)
  | launch (queue : Nat)
  | pref (alloc : Bool)
  | fence (order : Nat)
  | arrive (bar nth : Nat)
deriving DecidableEq, Repr

/-- Where an outstanding access stands. -/
inductive APhase where
  | issued
  | queued
  | performed
  | returned
deriving DecidableEq, Repr

/-- An access, fence or message of a fibre that has issued and is not over (R85, R87). `stamp` is the logical timestamp of a
strong access that has been performed (R92), and `blk` the %block of the sender of a message (R198). -/
structure Access where
  id : Nat
  slot : Nat
  fib : Nat
  ctx : Nat := 0
  op : AOp
  spm : Option Buf := none
  va : Nat := 0
  pa : Nat := 0
  size : Nat := 0
  kind : Nat := 0
  scope : Nat := 0
  data : List Byte := []
  cmp : List Byte := []
  dst : Nat := 0
  nregs : Nat := 0
  tag : BitVec 16 := 0
  depth : Nat := 0
  phase : APhase := .issued
  val : List Byte := []
  poison : Bool := false
  beat : Option Nat := none
  key : Nat := 0
  hint : BitVec 2 := 0
  cycle : Nat := 0
  stamp : Nat := 0
  blk : Word := 0
deriving DecidableEq, Repr

/-- An L1 line: when its lease was taken and when it ends (R70, R87), and the copy that it holds. -/
structure L1Line where
  leased : Nat := 0
  ends : Nat := 0
  bytes : List Byte := []
deriving DecidableEq, Repr

/-- A tile record of the weight array (R246): stored width, B format, flags of BLOAD, context, the stored codes of
element (k, n) as unsigned patterns of the width, the unit and special flag of each column and 32-index block, and whether its
storage holds an uncorrectable error (R440). -/
structure TileRec where
  width : Nat := 8
  fmt : BitVec 5 := 0
  ctx : Nat := 0
  valid : Bool := true
  eB : List Int := []
  special : List Bool := []
  bad : Bool := false
deriving DecidableEq, Repr

/-- Where a tile result lands (R221); `prog` is the contraction-order program (R270). -/
inductive Dest where
  | k (n : Nat)
  | ad (n : Nat)
  | bd (n : Nat)
  | d (n : Nat)
  | st
  | fc
  | sreg (n : Nat)
  | row (n : Nat)
  | rowPart (n lo hi : Nat)
  | spm (off len : Nat)
  | prog (count : Nat)
deriving DecidableEq, Repr

/-- A fixed-latency write in flight: due sequencer cycle, issue order, slot order, destination and value, and whether it is POISON
(R440, log 105). -/
structure Landing where
  due : Nat
  seq : Nat
  slot : Nat
  dst : Dest
  val : Nat
  bad : Bool := false
deriving DecidableEq, Repr

/-- A loop counter with its loop (R231). -/
structure LoopReg where
  count : Nat := 0
  start : VAddr := 0
  end_ : VAddr := 0
  open_ : Bool := false
deriving DecidableEq, Repr

/-- A repeat prefix that waits for the next bundle, or a repeat that runs (R253): the prefix's address, the issues less
one, the advancing address registers, the issues started, the cycle of the next, the sequencer values of the first issue,
the operation's word, and whose it is. -/
structure Repeat where
  at_ : VAddr := 0
  cnt : Nat := 0
  incm : BitVec 16 := 0
  done : Nat := 0
  next : Nat := 0
  ads : FMap (BitVec 48) := []
  vrot : Nat := 0
  vbase : Nat := 0
  k : FMap (BitVec 64) := []
  planes : Nat := 8
  acctype : Nat := 0x11
  m : BitVec 48 := 0
  seq : Nat := 0
  slot : Nat := 0
  ctx : Nat := 0
  grant : Nat := 0
  idx : Nat := 0
deriving DecidableEq, Repr

/-- A loop-nest bundle under way (R245): its word, iterations in all and done, the cycle of the next, whether the V slot is
active and the bundle rotates, the sequencer values of its issue, whose it is, and the bundle's PC. -/
structure Nest where
  word : BitVec 256 := 0
  total : Nat := 1
  done : Nat := 0
  next : Nat := 0
  active : Bool := true
  rot : Bool := false
  vrot : Nat := 0
  vbase : Nat := 0
  acctype : Nat := 0x11
  k : FMap (BitVec 64) := []
  seq : Nat := 0
  slot : Nat := 0
  grant : Nat := 0
  pc : VAddr := 0
deriving DecidableEq, Repr

/-- The tile sequencer (R218, R221, R223). `bad` says that a k, ad, bd or descriptor register holds an uncorrectable error (R440),
`clear` says that the writes of earlier holders have been performed (R236), `gather` that the gather of a grant is still to run
(R206),
`jumped` that the PC was not reached by the sequential path (R296), and `body` is the loop body that the loop buffer holds,
from its first bundle to its last, with the bundles of it fetched so far (R299). -/
structure Tsq where
  active : Bool := false
  grant : Nat := 0
  stopped : Option Trap := none
  bad : Bool := false
  pc : VAddr := 0
  k : FMap (BitVec 64) := []
  ad : FMap (BitVec 48) := []
  lc : FMap LoopReg := []
  st : BitVec 8 := 0
  fc : Nat := 0
  d : FMap (BitVec 512) := []
  bd : FMap Nat := []
  vbase : Nat := 0
  vrot : Nat := 0
  acctype : Nat := 0x11
  planes : Nat := 8
  bundles : Nat := 0
  prefix_ : Option Repeat := none
  repeat_ : Option Repeat := none
  nest : Option Nest := none
  cmds : FMap Nat := []
  wait : Option Wait := none
  passed : Option Nat := none
  holdTill : Nat := 0
  clear : Bool := true
  gather : Bool := false
  held : List Trap := []
  jumped : Bool := false
  body : Option (VAddr × VAddr) := none
  bodyWords : FMap (BitVec 256) := []
deriving DecidableEq, Repr

/-- An SPM read of a tile slot on its way (R229, R243): the cycle in which it reaches the SPM, the bytes, the sign
extension, and where and when its result lands. -/
structure SpmRead where
  due : Nat
  seq : Nat
  slot : Nat
  base : Nat
  len : Nat
  sx : Bool
  dst : Dest
  land : Nat
deriving DecidableEq, Repr

/-- An MXE command under way (R247 to R250): its opcode and fields, its start cycle, the rows it names, the sequencer
values and the tile record it captured, the rows it has read, its place in issue order and whose command it is. -/
structure MxeJob where
  op : Nat := 0
  start : Nat := 0
  fmt : Nat := 0
  corr : Bool := false
  sat : Bool := false
  mx : Bool := false
  unit : Nat := 0
  rows : Nat := 0
  planes : Nat := 8
  acctype : Nat := 0x11
  cRows : List Nat := []
  aRows : List Nat := []
  cpk : Option (BitVec 64) := none
  ctx : Nat := 0
  data : List (BitVec 2048) := []
  ents : List (BitVec 2048) := []
  queue : Nat := 0
  fin : Option Nat := none
  slot : Nat := 0
  idx : Nat := 0
  grant : Nat := 0
  seq : Nat := 0
  att : Option Nat := none
  tile : Option TileRec := none
deriving DecidableEq, Repr

/-- An attached operation queued at the MXE (R43, R203): its word, its block, the fibre that a failure names, and the
sequencer values that its fields read as it was queued. -/
structure AttOp where
  m : BitVec 48 := 0
  slot : Nat := 0
  fib : Nat := 0
  vbase : Nat := 0
  vrot : Nat := 0
  ad : FMap (BitVec 48) := []
  k : FMap (BitVec 64) := []
deriving DecidableEq, Repr

/-- The matrix engine (R250, R252): the cycle to which it broadcasts, the commands whose reads or results are still to
come, the attached operations queued, and the cycles from which rows and weight units are readable. -/
structure Mxe where
  busyTill : Nat := 0
  jobs : List MxeJob := []
  queue : List AttOp := []
  rowsFrom : List (Nat × Nat) := []
deriving DecidableEq, Repr

/-- Who issued a copy-engine command (R223, R446). -/
inductive CmdOwner where
  | tile (slot idx grant : Nat)
  | fibre (slot fib idx : Nat)
deriving DecidableEq, Repr

/-- A copy-engine command (R208, R257, R259, R210). `op` is the OP code of R288. `walked` are the pages whose walks it has asked for (R385), `asked` says that
its lines have been asked of their slices, `waits` are the lines still to come, and `lines` the data of those that came through a fill (R73). `toSrc` and `toDst` are
the beats still to be sent for the two sides, and `answer` the fabric cycle in which its latest answer arrives (R301). -/
structure CpeCmd where
  id : Nat := 0
  owner : CmdOwner := .tile 0 0 0
  op : Nat := 1
  pm : Bool := false
  ctx : Nat := 0
  src : BitVec 512 := 0
  dst : BitVec 512 := 0
  srcOff : Nat := 0
  dstOff : Nat := 0
  srcBuf : Option Buf := none
  dstBuf : Option Buf := none
  factor : Nat := 0
  bar : Option Nat := none
  promise : Nat := 0
  pt : Bool := false
  missed : Bool := false
  pub : Option (Nat × Nat) := none
  stop : Option StopRec := none
  stamp : Nat := 0
  fence : Nat := 0
  walked : List Nat := []
  asked : Bool := false
  waits : List Nat := []
  lines : FMap (Option (List Byte)) := []
  toSrc : Nat := 0
  toDst : Nat := 0
  answer : Nat := 0
deriving DecidableEq, Repr

/-- A CHSTEP under way (R272): the records still to start, the bond registers and buffers it captured, the region, the
boundary that the running step leaves, the cycle in which its writes are performed, its barrier, whose it is, its command index and
the index of its first step in the program (R367). -/
structure ChRun where
  steps : List (BitVec 64) := []
  bufs : List Buf := []
  bds : FMap Nat := []
  b0 : Nat := 0
  half : Nat := 0
  h : Nat := 0
  x : Nat := 0
  p : Nat := 0
  r : Nat := 0
  ends : Nat := 0
  done : Nat := 0
  bar : Option Nat := none
  slot : Nat := 0
  seq : Nat := 0
  ctx : Nat := 0
  idx : Nat := 0
  grant : Nat := 0
  first : Nat := 0
deriving DecidableEq, Repr

/-- The contraction unit (R263, R267). -/
structure Xcu where
  open_ : Bool := false
  b0 : Nat := 0
  half : Nat := 0
  h : Nat := 0
  x : Nat := 0
  p : Nat := 0
  r : Nat := 0
  prog : List (BitVec 64) := []
  ptr : Nat := 0
  busyTill : Nat := 0
  run : Option ChRun := none
deriving DecidableEq, Repr

/-- A stream queue entry's kind (R49). -/
inductive QKind where
  | data
  | eos
  | poison
deriving DecidableEq, Repr

/-- A stream queue (R49, R281): its DATA entries, oldest first, and its terminal entry with the payload of R281. -/
structure Queue where
  data : List (List Byte) := []
  term : Option (QKind × List Byte) := none
deriving DecidableEq, Repr

/-- The producer slot's program (R274, R286). `opening` says that a PCHUNK waits to open the next chunk, `scouted` counts the
headers that the scout has read, and `scoutAt` is the address of its next. `walkAt` is the latest cycle in which
the program waited for a walk or for data, and `walkFor` and `scoutFor` the pages whose walks it and its scout asked for (R385). `at_` is the address of the latest
word. -/
structure Producer where
  ctx : Nat := 0
  launch : Option Nat := none
  pc : VAddr := 0
  ms : FMap Word := []
  feed : BitVec 8 := 0
  eos : BitVec 8 := 0
  chunk : Word := 0xFFFFFFFF
  open_ : Bool := false
  last : Bool := false
  header : Nat := 0
  payload : Nat := 0
  clen : Nat := 0
  cursor : Nat := 0
  ct : FMap (List Nat) := []
  hist : FMap Byte := []
  w : Nat := 0
  o : Nat := 0
  entry : List Byte := []
  f : Nat := 0
  scout : Bool := false
  value : Nat := 1
  opening : Bool := false
  scoutAt : Nat := 0
  scouted : Nat := 0
  scoutStop : Bool := false
  walkAt : Option Nat := none
  walkFor : Option Nat := none
  scoutFor : Option Nat := none
  at_ : VAddr := 0
  holdTill : Nat := 0
deriving DecidableEq, Repr

/-- A core's cycle account since its latest flash record (R420 to R430): the cycle at which its interval began and its fleet
cycle (R429), the cycle before which every slot-cycle has been charged, slot-cycles by cause, the bins in the order of their first charge
(slot kind, PC, cause, count), the slot-cycles in no bin, its record number, and whether a record is deferred. -/
structure Acct where
  start : Nat := 0
  fleet : Nat := 0
  upto : Nat := 0
  counts : FMap Nat := []
  bins : List (Nat × Nat × Nat × Nat) := []
  ovf : Nat := 0
  seq : Nat := 0
  deferred : Bool := false
deriving DecidableEq, Repr

/-- What a core had to issue in its latest cycle, for the charges of R423 to R425: the cycle, the gangs that issued (their PC and
fibres by block slot and number), the stream word's PC, the PCs whose gangs are being re-formed, whether the island suppressed the
cycle and whether a forced save was under way, the cause of a slot without a candidate, the fibres that a FIXLAT hold of their
instruction kept back, and the fibres that stood in a wait that others end. -/
structure LastIssue where
  cycle : Nat := 0
  gangs : List (Nat × List (Nat × Nat)) := []
  word : Option Nat := none
  reform : List Nat := []
  off : Bool := false
  pre : Bool := false
  spare : Nat := 1
  held : List (Nat × Nat) := []
  waited : List ((Nat × Nat) × Fibre) := []
deriving DecidableEq, Repr

/-- A core (R13 to R16) with its units. `preempt` gives the kind of what is under way here for each context: 1 a node-boundary
save, 2 a forced save, 3 a restore (R370), and `preemptAt` the cycle in which its request came (R291). `spmBad` and `acmBad` are the 8-byte units that hold an uncorrectable error (R440); `spmNow` gives, for the
cycle of the latest SPM write, the writes of each byte in it, each with its agent and the value before it (R94, R95), and `acmNow`, for the cycle of the
latest copy into the ACM, the earlier rows (R272). `idleBeat` is the fabric
cycle in which this core last accepted a beat of an idle entry or of another table, and `sentBeat` the one in which it last
sent a beat (R301). `tileIssued` is the latest cycle in which a bundle or an iteration of a loop nest issued, with its PC (R422). -/
structure Core where
  ctx : Nat := 0
  lastCtx : Option Nat := none
  blocks : FMap Block := []
  bars : FMap Bar := []
  spm : FMap Byte := []
  spmBad : List Nat := []
  spmNow : Nat × FMap (List (Nat × Byte)) := (0, [])
  acmBad : List Nat := []
  acmNow : Nat × FMap (BitVec 2048) := (0, [])
  acm : FMap (BitVec 2048) := []
  tiles : FMap TileRec := []
  units : FMap Nat := []
  planes : FMap (BitVec 32768) := []
  l1 : FMap L1Line := []
  lamp : Option Nat := none
  lampQ : List (Nat × Nat) := []
  grants : Nat := 0
  seqCyc : Nat := 0
  landings : List Landing := []
  reads : List SpmRead := []
  issueNo : Nat := 0
  tsq : Tsq := {}
  mxe : Mxe := {}
  cpe : List CpeCmd := []
  cpeId : Nat := 0
  xcu : Xcu := {}
  prs : Option Producer := none
  queues : FMap Queue := []
  qOwner : Option Nat := none
  moorings : FMap Mooring := []
  relNum : FMap Nat := []
  inbox : List InboxEntry := []
  slotsUsed : List (Nat × Nat) := []
  slotTable : List Nat := []
  slotFunc : VAddr := 0
  pend : List Access := []
  idleBeat : Option Nat := none
  sentBeat : Option Nat := none
  pendId : Nat := 0
  preempt : FMap Nat := []
  preemptAt : FMap Nat := []
  lastRec : VAddr := 0
  tileIssued : Option (Nat × Nat) := none
  acct : Acct := {}
  last : LastIssue := {}
deriving DecidableEq, Repr

/-- What a save of a context holds for one core (R371 to R377) beside the bytes in its save area: the core as it stood, the
kind, and the mooring records that it moved to the cluster's queue. -/
structure SavedCore where
  k : Core := {}
  forced : Bool := false
  moved : Nat := 0
deriving DecidableEq, Repr

/-- A stop notice (R410): frame address, device core, block slot and %fibre. -/
structure Notice where
  frame : Nat
  core : Nat
  slot : Nat
  fib : Nat
deriving DecidableEq, Repr

/-- An enabled entry of the monitor's breakpoint table (R409); 0xFFFF stands for any. -/
structure Bpt where
  imm : Nat
  core : Nat
  slot : Nat
  fib : Nat
deriving DecidableEq, Repr

/-- A cluster: fusion mode (R71), the slots of its mooring queue in use (R28, R348), stop notices still to be written,
oldest first, and the monitor's breakpoint table (R410). -/
structure Cluster where
  fused : Bool := false
  mqUsed : Nat := 0
  notices : List Notice := []
  bpts : FMap Bpt := []
deriving DecidableEq, Repr

/-- A line that an L2 slice holds (R72): dirty, and the key it was filled under. -/
structure L2Line where
  dirty : Bool := false
  key : Nat := 0
deriving DecidableEq, Repr

/-- A merge entry or a fill under way (R73): when it opened, its window, whether the fill has arrived, whether it waits
for a FILL handler (R395), and the registrants (a core with an access of it, or with 2^60 and a copy command of it); then the
data of the fill and the cycle in which it was taken, and the fibres that have written the line since. A fill outside any
merge entry has a multiple of 2^60 added to its line number. -/
structure Merge where
  opened : Nat := 0
  window : Nat := 0
  arrived : Bool := false
  held : Bool := false
  key : Nat := 0
  regs : List (Nat × Nat) := []
  data : Option (List Byte) := none
  taken : Nat := 0
  writers : List (Nat × Nat × Nat) := []
deriving DecidableEq, Repr

/-- An event for a Lantern (R391): kind, line or address, context, and the event record's words (R393). -/
structure LEvent where
  kind : Nat := 0
  addr : Nat := 0
  ctx : Nat := 0
  words : List (BitVec 64) := []
deriving DecidableEq, Repr

/-- A Lantern's running invocation (R386 to R396): its set, event and context, its region and range,
PC and registers, budget and Lantern cycles
used, LCOOKIE, the reservation of LR, the send that its latest LSTAT awaits, LSTAT, and its number. -/
structure LRun where
  set_ : Nat := 0
  ctx : Nat := 0
  ev : LEvent := {}
  base : Nat := 0
  size : Nat := 0
  lo : Nat := 0
  hi : Nat := 0
  pc : BitVec 64 := 0
  x : FMap (BitVec 64) := []
  budget : Nat := 0
  used : Nat := 0
  cookie : BitVec 32 := 0
  resv : Option (Nat × Nat) := none
  sent : Option Nat := none
  stat : Nat := 0
  no : Nat := 0
deriving DecidableEq, Repr

/-- A Lantern prefetch under way (R399): its line, the context, cookie and invocation that asked for it. -/
structure LPref where
  line : Nat
  ctx : Nat
  cookie : BitVec 32
  run : Nat
deriving DecidableEq, Repr

/-- A Lantern send under way (R400). -/
structure LSend where
  no : Nat
  ctx : Nat
  lantern : Bool
  len : Nat
  sel : Nat
  dest : Nat
  pa : Nat
  payload : List Word
deriving DecidableEq, Repr

/-- An L2 slice with its Lantern (R72, R73, R386): lines, merge entries, handler SRAM with its 8-byte units
that hold an uncorrectable error (R440), each set's latched vector, the event queue, the running invocation, prefetches and sends, the counts of its flash record by 4 × set + counter, and the number of
its next invocation or send, and the number of fills outside merge entries. -/
structure Slice where
  lines : FMap L2Line := []
  merges : FMap Merge := []
  sram : FMap Byte := []
  sramBad : List Nat := []
  vectors : FMap (List (BitVec 64)) := []
  events : List LEvent := []
  run : Option LRun := none
  prefetches : List LPref := []
  sends : List LSend := []
  next : Nat := 0
  fillNo : Nat := 0
  counts : FMap Nat := []
  since : Nat := 0
  fleet : Nat := 0
  recNum : Nat := 0
  deferred : Bool := false
deriving DecidableEq, Repr

/-- The fields of a launch record that take effect (R339). -/
structure LRec where
  entry : VAddr := 0
  nblock : Nat := 1
  nfibre : Nat := 1
  win : Nat := 8
  nbar : Nat := 0
  spm : Nat := 0
  stage : Nat := 0
  fuse : Bool := false
  kind : Nat := 0
  qid : Nat := 0
  stagger : Nat := 0
  args : List Word := []
  done : BitVec 64 := 0
  succ : BitVec 64 := 0
  nsucc : Nat := 0
  place : BitVec 8 := 0
  core : Nat := 0
deriving DecidableEq, Repr

/-- A launch under way (R342, R345 to R347): blocks that have not ended, the cycle of the latest placement in each cluster,
successors handled so far, and a stream program's start record. -/
structure Launch where
  info : LRec := {}
  addr : VAddr := 0
  ctx : Nat := 0
  queue : Nat := 0
  index : Nat := 0
  left : Nat := 0
  lastAt : FMap Nat := []
  succAt : Nat := 0
  start : List Byte := []
deriving DecidableEq, Repr

/-- Blocks that wait in the placement order (R346): `many` blocks of one launch from %block `blk` on, which entered it
together, or one released block. -/
structure Waiting where
  launch : Option Nat := none
  ctx : Nat := 0
  blk : Word := 0
  nfibre : Nat := 1
  win : Nat := 8
  nbar : Nat := 0
  spm : Nat := 0
  stage : Nat := 0
  entry : VAddr := 0
  args : List Word := []
  tasks : List Task := []
  clusters : BitVec 8 := 0xFF
  cls : Nat := 0
  prio : Nat := 0
  entered : Nat := 0
  home : Option Nat := none
  fuse : Bool := false
  number : Nat := 0
  many : Nat := 1
  record : VAddr := 0
  weights : Bool := false
deriving DecidableEq, Repr

/-- A record in a queue's device inbox (R338): its bytes, and the queue of the launch that started it if it is a
successor; `ctx` is then that launch's context (R343). -/
structure InRec where
  bytes : List Byte := []
  addr : VAddr := 0
  launcher : Option (Nat × Nat) := none
  succOf : Option (Nat × Nat) := none
  ctx : Nat := 0
deriving DecidableEq, Repr

/-- A cached translation (R380 to R385). `level` is the level of its leaf. -/
structure Tlb where
  ctx : Nat
  page : Nat
  frame : Nat
  alt : Option Nat := none
  pair : Option Nat := none
  rd : Bool
  wr : Bool
  ex : Bool
  sealed_ : Bool
  key : Nat
  level : Nat := 3
deriving DecidableEq, Repr

/-- Seal metadata of a frame (R383): its context, the byte offsets of trap-on-execute marks (R151), and the identity of the overlay
whose page it holds (R313). -/
structure SealMeta where
  ctx : Nat
  marks : List Nat := []
  overlay : Option (BitVec 384) := none
deriving DecidableEq, Repr

/-- A function of a loaded image (R309): kind 0 fibre, 1 tile, 2 stream, and its slot table, an all-idle one being empty
(R300). -/
structure Func where
  start : VAddr
  size : Nat
  kind : Nat
  win : Nat
  slots : List Nat := []
deriving DecidableEq, Repr

/-- What the loader allocates for a portable image (R323): its `.dudon` section, the call table, the stub pages, the
translation state, its pool, the first free page there, and the pool's end. -/
structure Portable where
  section_ : List Byte := []
  ct : Nat := 0
  stub : Nat := 0
  ts : Nat := 0
  pool : Nat := 0
  next : Nat := 0
  poolEnd : Nat := 0
deriving DecidableEq, Repr

/-- A loaded image (R305 to R313): its functions, nodes, gate records (entry, first map entry, count) and map entries
(first register, count, descriptor), its gate table, and the pages that are freed when it is unloaded. -/
structure Image where
  ctx : Nat
  id : Nat := 0
  funcs : List Func := []
  nodes : List Node := []
  gates : List (VAddr × Nat × Nat) := []
  maps : List (Nat × Nat × Nat) := []
  gtab : VAddr := 0
  pages : List Nat := []
  portable_ : Option Portable := none
deriving DecidableEq, Repr

/-- A resident overlay (R313): its context, its identity, and the frames that hold its sealed pages in order. -/
structure Overlay where
  ctx : Nat
  identity : BitVec 384
  frames : List Nat
deriving DecidableEq, Repr

/-- The outcome of one image of an object (R321). `unplaced` says that the driver mapped no pages for it. -/
inductive LoadOutcome where
  | sealed_ (image : Nat)
  | badObject
  | relocRange (symbol : List Byte) (section_ off : Nat)
  | nodeSize
  | window
  | netslotTable
  | versionStrict
  | seal (code func off : Nat)
  | unplaced
deriving DecidableEq, Repr

/-- The load report of one image (R321): warnings by code and address. -/
structure ImageReport where
  index : Nat
  version : Nat
  outcome : LoadOutcome
  warnings : List (Nat × Nat) := []
deriving DecidableEq, Repr

/-- How a load ended (R305, R316). -/
inductive LoadResult where
  | loaded
  | badObject
  | noImage
deriving DecidableEq, Repr

/-- A load report (R321), with the address of a portable image's call table (R323). -/
structure LoadReport where
  ctx : Nat
  result : LoadResult
  images : List ImageReport := []
  callTable : Option Nat := none
deriving DecidableEq, Repr

/-- A candidate as the loader has placed it and hands it to the sealing engine (R318): its code by address and length in
bytes with the overlay identity where it is one and whether its pages are resident, the image that it becomes, and the
leaves as they were before resident pages were mapped, by page. -/
structure Placed where
  index : Nat
  version : Nat
  code : List (Nat × Nat × Option (BitVec 384) × Bool) := []
  image : Image
  swaps : List (Nat × Nat) := []
deriving DecidableEq, Repr

/-- A load under way (R316): the object, the address at which its pages are mapped, the candidates still to be tried, the one
that is with the sealing engine, and the report so far. -/
structure LoadJob where
  ctx : Nat
  base : Nat
  file : List Byte := []
  todo : List Nat := []
  placed : Option Placed := none
  report : List ImageReport := []
deriving DecidableEq, Repr

/-- An access of a peer module that has come over a link, or of the host, and waits at its port (R379, R444). -/
structure PeerHold where
  link : Option Nat
  ctx : Nat
  write : Bool
  pa : Nat
  data : List Byte
deriving DecidableEq, Repr

/-- An element of the opaque data of a response (R418). -/
structure Element where
  id : Nat
  len : Nat
  data : List Byte
deriving DecidableEq, Repr

/-- A MEASUREMENTS response (R418): the requester's nonce, MS0 to MS31 as measurement blocks 1 to 32, the Ed25519 signature in the
signature field, and the ML-DSA-65 signature over the same transcript as an element of the opaque data. -/
structure Report where
  nonce : BitVec 256
  slots : List (BitVec 384)
  ed25519 : List Byte
  opaque_ : Element
deriving DecidableEq, Repr

/-- What the part has sent to its surroundings: data read by the host or a peer module (R104), the value of a register that the
host has read (R412), a MEASUREMENTS response or a certificate chain (R418), or the answer to a TDISP message with the state of the
interface after it (R411). -/
inductive Message where
  | readData (link : Option Nat) (pa : Nat) (data : Option (List Byte))
  | register (off : Nat) (v : BitVec 64)
  | measurements (r : Report)
  | certificate (slot : Nat) (chain : List Byte)
  | tdisp (ctx code state : Nat)
deriving DecidableEq, Repr

/-- The machine: what the part and its memory hold. -/
structure State where
  /-- The turns still to be taken in this cycle, in order (log 1). -/
  agenda : List Turn := []
  /-- Whose turn it is. -/
  cur : Agent := .none
  /-- How many free values have been drawn (log 4). -/
  free : Nat := 0
  /-- %cycle (R14, R134). -/
  cycle : Nat := 0
  /-- Physical memory, in the canonical form of Memory.wf (R59, log 2). -/
  mem : List Host.Cell := []
  /-- The key under which each byte of physical memory was last written, by address, as keyTag numbers it (R381). -/
  tags : FMap Nat := []
  /-- The 8-byte units that hold an uncorrectable error (R440). -/
  bad : List Nat := []
  /-- The device registers by BAR0 offset that differ from their reset values (R8, R412). -/
  dev : FMap (BitVec 64) := []
  /-- The cores by device index (R13, R15). -/
  cores : FMap Core := []
  /-- The clusters (R13, R71). -/
  clusters : FMap Cluster := []
  /-- The L2 slices and their Lanterns by device index (R72, R386). -/
  slices : FMap Slice := []
  /-- The measurement slots (R417). -/
  measures : FMap (BitVec 384) := []
  /-- The memory keys by key number (R419). -/
  keys : FMap (BitVec 512) := []
  /-- The key numbers that are erased (R419). -/
  erased : List Nat := []
  /-- The enabled MSI-X vectors as function and vector (R411, R413). -/
  vfVec : List (Nat × Nat) := []
  /-- The TDISP state of each VF: 0 unlocked, 1 locked, 2 run, 3 error (R414). -/
  tdi : FMap Nat := []
  /-- The SPDM session secrets (R418, R419). -/
  sessions : FMap (BitVec 256) := []
  /-- What the part has sent to its surroundings (R104, R418). -/
  messages : List Message := []
  /-- The interrupts raised, as function and vector (R413). -/
  irqs : List (Nat × Nat) := []
  /-- Seal metadata by physical frame (R383). -/
  seals : FMap SealMeta := []
  /-- The loaded images (R305 to R313). -/
  images : List Image := []
  /-- The resident overlays (R313). -/
  overlays : List Overlay := []
  /-- The loads under way (R316, R318). -/
  loads : List LoadJob := []
  /-- The load reports (R321). -/
  reports : List LoadReport := []
  /-- The cached translations (R384). -/
  tlb : List Tlb := []
  /-- The pages that publish-mode commands have written since their last publish, as core of the command, context and page
  (R100 to R102). -/
  shadow : List (Nat × Nat × Nat) := []
  /-- The pages, by context, whose shadow contents were discarded since their last publish or publish-mode write (R102, R290). -/
  spoiled : List (Nat × Nat) := []
  /-- The page walks asked for, in arrival order, as compute die, context and page (R385). -/
  walks : List (Nat × Nat × Nat) := []
  /-- The number of the next trap that becomes pending (R356). -/
  pendNo : Nat := 0
  /-- The logical timestamp of the latest strong access or .sc fence (R92). -/
  stamp : Nat := 0
  /-- The device inboxes of the launch queues (R338). -/
  inboxes : FMap (List InRec) := []
  /-- Whether a queue's next record comes from its inbox (R338). -/
  fromBox : FMap Bool := []
  /-- The queue from which the dispatcher took its latest record (R345). -/
  lastQ : Nat := 0
  /-- The launches under way (R342). -/
  launches : FMap Launch := []
  /-- The successor records on their way to inboxes (R342). -/
  succs : List (Nat × InRec × Nat) := []
  /-- The placement orders of all clusters in one list (R346). -/
  order : List Waiting := []
  /-- The number of the next entry of the placement order. -/
  orderNum : Nat := 0
  /-- The number of blocks placed so far. -/
  placeNum : Nat := 0
  /-- The aged head of a cluster's order (R346). -/
  aging : FMap Nat := []
  /-- The streams held for a core (R275, R341), by core. -/
  held : FMap Nat := []
  /-- The next entry of each context's fault log (R369). -/
  logIdx : FMap Nat := []
  /-- The lost entries of the error ring (R441). -/
  errLost : Nat := 0
  /-- The saves of contexts by core (R371 to R377). -/
  saves : FMap SavedCore := []
  /-- The contexts being killed (R443). -/
  killing : List Nat := []
  /-- The accesses of peers and of the host that are still to be performed: held back by a gang slice (R379), or on their way to a
  slice (R72). -/
  peers : List PeerHold := []
  /-- The context of the running gang slice (R378). -/
  slice : Option Nat := none
  /-- The TLB invalidation under way: what it covers and the accesses it waits for (R384). -/
  tivaBusy : Option (Nat × Nat × Bool × List (Nat × Nat)) := none
  /-- The flash period in force, as a power of two (R425). -/
  flashK : Nat := 20
  /-- The fleet offset that the next tick takes over (R426). -/
  nextOfs : Option (BitVec 64) := none
deriving DecidableEq, Repr

/-- The machine right after cold reset: every register at its reset value (device registers that differ from zero have
it in regReset, an unlisted register reading as its reset value), nothing resident, nothing waiting. -/
def State.reset : State := {}

end Sys2Proof.Machine
end

