-- ==== Sys2Proof/Machine/Memory.lean ====
section
/-!
DEFINITION. Bytes of physical memory in canonical form, the device registers by BAR0 offset with their reset values,
and reads and writes at physical addresses: backed HBM, format-window views, poison, discarded writes.
-/
namespace Sys2Proof.Machine

/-- The byte at an address; an unlisted address reads 0x00 (DESIGN CHOICE, log 2). -/
def memGet : List Host.Cell → Nat → Byte
  | [], _ => 0
  | (k, v) :: t, a => if k = a then v else if a < k then 0 else memGet t a

/-- The memory with one byte set, kept canonical: addresses strictly rising and no listed 0x00. -/
def memSet : List Host.Cell → Nat → Byte → List Host.Cell
  | [], a, v => if v = 0 then [] else [(a, v)]
  | (k, w) :: t, a, v =>
    if k < a then (k, w) :: memSet t a v
    else if k = a then (if v = 0 then t else (k, v) :: t)
    else (if v = 0 then (k, w) :: t else (a, v) :: (k, w) :: t)

/-- Addresses strictly rising from above `lo`, and no listed 0x00. -/
def memWfFrom : Option Nat → List Host.Cell → Bool
  | _, [] => true
  | none, (k, v) :: t => v != 0 && memWfFrom (some k) t
  | some lo, (k, v) :: t => decide (lo < k) && (v != 0 && memWfFrom (some k) t)

/-- The canonical form of memory. -/
def Memory.wf (m : List Host.Cell) : Bool := memWfFrom none m

/-- `n` bytes from an address on. -/
def memBytes (m : List Host.Cell) (a : Nat) : Nat → List Byte
  | 0 => []
  | n + 1 => memGet m a :: memBytes m (a + 1) n

/-- The memory with bytes written from an address on. -/
def memPut (m : List Host.Cell) (a : Nat) : List Byte → List Host.Cell
  | [] => m
  | b :: t => memPut (memSet m a b) (a + 1) t

-- Device registers (R412)

/-- Register offset of launch queue `q` (R336). -/
def offQ (q r : Nat) : Nat := 0x20000 + 0x40 * q + r
/-- Register offset of a cluster's mooring queue (R348). -/
def offMQ (c r : Nat) : Nat := 0x30000 + 0x20 * c + r
/-- Register offset of context `n` (R353, R401, R433). -/
def offCX (n r : Nat) : Nat := 0x40000 + 0x80 * n + r
/-- Register offset of a cluster's debug registers (R405). -/
def offDbg (c r : Nat) : Nat := 0x60000 + 0x20 * c + r
/-- Register offset in the block of slice `s` (R412). -/
def offSlice (s r : Nat) : Nat := 0x1000000 + 0x40000 * s + r
/-- Register offset of handler set `k` of slice `s` (R389). -/
def offLH (s k r : Nat) : Nat := offSlice s (0x200 + 0x40 * k + r)
/-- Register offset in the block of stack `s` (R412). -/
def offStack (s r : Nat) : Nat := 0x5000000 + 0x10000 * s + r
/-- Register offset of format window `w` of stack `s` (R76). -/
def offFW (s w r : Nat) : Nat := offStack s (0x100 + 0x20 * w + r)

/-- The reset value of the device register at an offset (R8 and the register tables). -/
def regReset (off : Nat) : BitVec 64 :=
  if off = 0x8000 then 0x80028
  else if off = 0x9800 then 3000
  else if off = 0x9A00 then 4
  else if 0x20000 ≤ off ∧ off < 0x22000 then (if off % 0x40 = 8 then 0x4000 else 0)
  else if 0x40000 ≤ off ∧ off < 0x42000 then
    (if off % 0x80 = 0x20 then 4 else if off % 0x80 = 0x48 ∨ off % 0x80 = 0x50 then 0x10 else 0)
  else if 0x1000000 ≤ off ∧ off < 0x5000000 then
    (if off % 0x40000 = 0 then 0x240
     else if 0x200 ≤ off % 0x40000 ∧ off % 0x40000 < 0x400 ∧ off % 0x40 = 0 then 0x800000 else 0)
  else if 0x5000000 ≤ off ∧ off < 0x50C0000 then
    (if 0x100 ≤ off % 0x10000 ∧ off % 0x10000 < 0x300 ∧ off % 0x20 = 8 then 0x80 else 0)
  else 0

/-- A device register's value. -/
def devGet (s : State) (off : Nat) : BitVec 64 := s.dev.get off (regReset off)
/-- The state with a device register set. -/
def devSet (s : State) (off : Nat) (v : BitVec 64) : State := { s with dev := s.dev.set off v }
/-- A field [hi:lo] of a device register. -/
def devBits (s : State) (off hi lo : Nat) : Nat := bitsN (devGet s off).toNat hi lo
/-- The state with a field [hi:lo] of a device register set. -/
def devPut (s : State) (off hi lo v : Nat) : State :=
  let old := (devGet s off).toNat
  let w := 2 ^ (hi + 1 - lo)
  devSet s off (BitVec.ofNat 64 (old - ((old >>> lo) % w) * 2 ^ lo + (v % w) * 2 ^ lo))

/-- Whether the TDI of a context's VF is in CONFIG_LOCKED or RUN, when the PF's writes to what is the context's are ignored
(R414). -/
def tdiLocked (s : State) (ctx : Nat) : Bool := s.tdi.get ctx 0 = 1 || s.tdi.get ctx 0 = 2

/-- The fleet cycle: %cycle plus the offset of R426. -/
def fleetCycle (s : State) : Nat := (s.cycle + (devGet s 0x8020).toNat) % 2 ^ 64

-- Physical memory

/-- The start of the alias regions (R59, R79). -/
def aliasBase : Nat := 0x8000000000000

/-- Whether HBM backs a physical address (R59). -/
def backed (pa : Nat) : Bool := decide (pa / 2 ^ 36 < 12) && decide (pa % 2 ^ 36 < Config.stackBytes)

/-- Whether an uncorrectable error lies in the bytes (R440). -/
def anyBad (s : State) (pa n : Nat) : Bool := s.bad.any (fun u => decide (8 * u < pa + n) && decide (pa < 8 * u + 8))

/-- A key's number among all that have ever been in force: a key identifier under which no key has been programmed, or
128 and the programmed key (R381, R419). -/
def keyTag (s : State) (key : Nat) : Nat :=
  match s.keys.find? key with
  | some v => 128 + v.toNat
  | none => key

/-- A byte of memory as it reads under a key (R381): its own under the key that wrote it, or where nothing has written it;
the hub's key 64 writes in clear. -/
def plainByte (s : State) (key a : Nat) : Byte :=
  match s.tags.find? a with
  | none => memGet s.mem a
  | some t => if t = keyTag s key then memGet s.mem a else Config.otherKey t (keyTag s key) a (memBytes s.mem (a / 16 * 16) 16)

/-- `n` bytes of memory as they read under a key. -/
def plainBytes (s : State) (key a : Nat) : Nat → List Byte
  | 0 => []
  | n + 1 => plainByte s key a :: plainBytes s key (a + 1) n

/-- The record of keys after `n` bytes are written from an address on under a key. -/
def tagPut (m : FMap Nat) (tag : Option Nat) (a : Nat) : Nat → FMap Nat
  | 0 => m
  | n + 1 => tagPut (match tag with
    | some t => m.set a t
    | none => m.del a) tag (a + 1) n

/-- The tag that a write under a key leaves: none under the hub's. -/
def writeTag (s : State) (key : Nat) : Option Nat := if key < 64 then some (keyTag s key) else none

/-- The top `k` planes' code of element `i` of group `g` of a window (R77, R78). -/
def viewCode (s : State) (key base spl g i k : Nat) (corr : Bool) : Nat :=
  let bit (p : Nat) : Nat :=
    if ((plainByte s key (base + g * spl * 128 + (7 - p) * 128 + i / 8)).toNat).testBit (i % 8) then 1 else 0
  let full := (List.range spl).foldl (fun acc j => acc + bit (7 - j) * 2 ^ (7 - j)) 0
  wrapN (bpCode (sextN full 8) k corr) k

/-- Byte `b` of view `k` (R78). -/
def viewByte (s : State) (key base spl k b : Nat) (corr : Bool) : Byte :=
  let g := b / (k * 128)
  let r := b % (k * 128)
  BitVec.ofNat 8 ((List.range 8).foldl (fun acc j =>
    let e := 8 * r + j
    acc + (if (viewCode s key base spl g (e / k) k corr).testBit (e % k) then 2 ^ j else 0)) 0)

/-- The HBM storage of a view under `n` bytes of an alias region, as address and length (R77, R78). -/
def viewSpan (s : State) (pa n : Nat) : Nat × Nat :=
  let x := pa - aliasBase
  let off := x % 2 ^ 36
  let k := off / 2 ^ 33 + 1
  let ctl := offFW (x / 2 ^ 40) (x % 2 ^ 40 / 2 ^ 36)
  let group := devBits s (ctl 8) 7 4 * 128
  (devBits s (ctl 0) 51 12 * 4096 + (off % 2 ^ 33) / (k * 128) * group, ((n + k * 128 - 1) / (k * 128) + 1) * group)

/-- Bytes of an alias region, or POISON (R79). -/
def aliasRead (s : State) (key pa n : Nat) : Option (List Byte) :=
  let x := pa - aliasBase
  let st := x / 2 ^ 40
  let w := x % 2 ^ 40 / 2 ^ 36
  let off := x % 2 ^ 36
  let k := off / 2 ^ 33 + 1
  let spl := devBits s (offFW st w 8) 7 4
  let ngrp := devBits s (offFW st w 8) 55 32
  let base := devBits s (offFW st w 0) 51 12 * 4096
  if 12 ≤ st ∨ devBits s (offFW st w 8) 0 0 = 0 ∨ k < 2 ∨ spl < k then none
  else if ngrp * k * 128 < off % 2 ^ 33 + n then none
  else if anyBad s (viewSpan s pa n).1 (viewSpan s pa n).2 then none
  else some ((List.range n).map fun j => viewByte s key base spl k (off % 2 ^ 33 + j) (devBits s (offFW st w 8) 1 1 = 1))

/-- Whether the key of a page has been erased and not programmed again (R419). -/
def keyGone (s : State) (key : Nat) : Bool := hasN s.erased key

/-- `n` bytes at a physical address under a key, or POISON (R59, R79, R99, R381, R419, R440). -/
def physRead (s : State) (key pa n : Nat) : Option (List Byte) :=
  if aliasBase ≤ pa then (if keyGone s key then none else aliasRead s key pa n)
  else if !backed pa || !backed (pa + n - 1) || keyGone s key || anyBad s pa n then none
  else some (plainBytes s key pa n)

/-- A 64-bit word at a physical address, or POISON. -/
def physWord (s : State) (key pa : Nat) : Option Nat := (physRead s key pa 8).map ofBytes

/-- The slice of a physical line on a compute die (R72), as a device slice index. -/
def sliceOf (die pa : Nat) : Nat := die * 64 + (bitsN pa 12 7 ^^^ bitsN pa 18 13 ^^^ bitsN pa 24 19)

/-- Every cached view line of window `w` of stack `st` whose offset lies in group `g`, or in any group, leaves the L2
(R80). -/
def dropViews (s : State) (st w : Nat) (g : Option Nat) : State :=
  let lo := (aliasBase + st * 2 ^ 40 + w * 2 ^ 36)
  let hit (line : Nat) : Bool :=
    let a := line * 128
    decide (lo ≤ a) && decide (a < lo + 2 ^ 36) &&
      (match g with
       | none => true
       | some g => decide ((a - lo) % 2 ^ 33 / ((((a - lo) / 2 ^ 33) + 1) * 128) = g))
  { s with slices := s.slices.map fun (k, sl) => (k, { sl with lines := sl.lines.filter fun (l, _) => !hit l }) }

/-- The groups of format windows whose storage holds some of `n` bytes at a physical address (R80). -/
def viewsOf (s : State) (pa n : Nat) : List (Nat × Nat × Nat) :=
  let st := pa / 2 ^ 36
  (List.range 16).flatMap fun w =>
    let base := devBits s (offFW st w 0) 51 12 * 4096
    let size := devBits s (offFW st w 8) 7 4 * 128
    let last := base + devBits s (offFW st w 8) 55 32 * size
    if devBits s (offFW st w 8) 0 0 = 1 ∧ pa < last ∧ base < pa + n then
      let first := (max pa base - base) / size
      (List.range ((min (pa + n) last - 1 - base) / size + 1 - first)).map fun i => (st, w, first + i)
    else []

/-- A write to a line takes away the reservations that Lanterns hold on it. -/
def dropReservations (m : FMap Slice) (pa n : Nat) : FMap Slice :=
  m.map fun (k, x) => (k, { x with run := x.run.map fun r =>
    if (r.resv.any fun v => decide (v.1 / 128 ≤ (pa + n - 1) / 128) && decide (pa / 128 ≤ v.1 / 128)) then { r with resv := none } else r })

/-- Bytes stored in backed memory under a key, and what a store takes away: view lines of their groups (R80), reservations, the seal of
their frames (R383) and the errors of units that they fill (R440). -/
def storeBytes (s : State) (key pa : Nat) (bytes : List Byte) : State :=
  let s := (viewsOf s pa bytes.length).foldl (fun s (st, w, g) => dropViews s st w (some g)) s
  { s with
    mem := memPut s.mem pa bytes
    tags := tagPut s.tags (writeTag s key) pa bytes.length
    slices := dropReservations s.slices pa bytes.length
    seals := s.seals.filter fun p => !(decide (pa / 4096 ≤ p.1) && decide (p.1 ≤ (pa + bytes.length - 1) / 4096))
    bad := s.bad.filter fun u => !(decide (pa ≤ 8 * u) && decide (8 * u + 8 ≤ pa + bytes.length)) }

/-- An error-ring entry (R441), or one more lost entry while the ring is full. -/
def errorEntry (s : State) (kind ctx unit count pa : Nat) : State :=
  let logn := devBits s 0x9A00 3 0
  let head := (devGet s 0x9A08).toNat
  let tail := (devGet s 0x9A10).toNat
  if 2 ^ logn ≤ head - tail then { s with errLost := s.errLost + 1 }
  else
    let bytes := toBytes 1 kind ++ toBytes 1 ctx ++ toBytes 2 unit ++ toBytes 4 count ++ toBytes 8 pa ++
      toBytes 8 (fleetCycle s) ++ toBytes 4 s.errLost ++ toBytes 4 0
    let a := devBits s 0x9A00 51 12 * 4096 + 32 * (head % 2 ^ logn)
    let s := if backed a then storeBytes s 64 a bytes else s
    devSet { s with errLost := 0 } 0x9A08 (BitVec.ofNat 64 (head + 1))

/-- Whether a read of memory or of a view meets an uncorrectable error (R440). -/
def badAt (s : State) (pa n : Nat) : Bool :=
  if aliasBase ≤ pa then decide ((pa - aliasBase) / 2 ^ 40 < 12) && anyBad s (viewSpan s pa n).1 (viewSpan s pa n).2
  else backed pa && anyBad s pa n

/-- The error-ring entry of a read that meets an uncorrectable error of HBM: it names the stack's island (R436, R441). -/
def badRead (s : State) (ctx pa n : Nat) : State :=
  if badAt s pa n then
    errorEntry s 2 ctx (224 + 2 * (if aliasBase ≤ pa then (pa - aliasBase) / 2 ^ 40 else pa / 2 ^ 36)) 1 pa
  else s

/-- A write of bytes at a physical address is performed, or discarded and recorded (R59, R79, R419). -/
def physWrite (s : State) (ctx key pa : Nat) (bytes : List Byte) : State :=
  if aliasBase ≤ pa ∧ (pa - aliasBase) / 2 ^ 40 < 12 then errorEntry s 3 ctx (225 + 2 * ((pa - aliasBase) / 2 ^ 40)) 1 pa
  else if aliasBase ≤ pa then errorEntry s 3 ctx 255 1 pa
  else if !backed pa || !backed (pa + bytes.length - 1) then errorEntry s 3 ctx 255 1 pa
  else if keyGone s key then s
  else storeBytes s key pa bytes

end Sys2Proof.Machine
end

