-- ==== Sys2Proof/Machine/Ops.lean ====
section
/-!
DEFINITION. The named operations over the state that the meanings share: cores, blocks and fibres, registers and
predicates, translation, the fault log, taking a trap and returning from one.
-/
namespace Sys2Proof.Machine

/-- Outcome of a step. -/
abbrev Out := Host.Outcome State Fault Refusal

-- Cores, blocks and fibres

/-- Core `c`. -/
def State.core (s : State) (c : Nat) : Core := s.cores.get c {}
/-- The state with core `c` replaced. -/
def State.setCore (s : State) (c : Nat) (k : Core) : State := { s with cores := s.cores.set c k }
/-- The state with core `c` changed. -/
def State.modCore (s : State) (c : Nat) (f : Core → Core) : State := s.setCore c (f (s.core c))
/-- Cluster `c`. -/
def State.cluster (s : State) (c : Nat) : Cluster := s.clusters.get c {}
/-- The state with cluster `c` changed. -/
def State.modCluster (s : State) (c : Nat) (f : Cluster → Cluster) : State :=
  { s with clusters := s.clusters.set c (f (s.cluster c)) }
/-- Slice `n`. -/
def State.slice' (s : State) (n : Nat) : Slice := s.slices.get n {}
/-- The state with slice `n` changed. -/
def State.modSlice (s : State) (n : Nat) (f : Slice → Slice) : State :=
  { s with slices := s.slices.set n (f (s.slice' n)) }
/-- The block in a slot of a core. -/
def State.block (s : State) (c b : Nat) : Option Block := (s.core c).blocks.find? b
/-- The state with a block replaced. -/
def State.setBlock (s : State) (c b : Nat) (x : Block) : State :=
  s.modCore c fun k => { k with blocks := k.blocks.set b x }
/-- The state with a block changed, if it is there. -/
def State.modBlock (s : State) (c b : Nat) (f : Block → Block) : State :=
  match s.block c b with
  | some x => s.setBlock c b (f x)
  | none => s
/-- A fibre of a block. -/
def State.fibre (s : State) (c b f : Nat) : Option Fibre := (s.block c b).bind fun x => x.fibres.find? f
/-- The state with a fibre replaced. -/
def State.setFibre (s : State) (c b f : Nat) (x : Fibre) : State :=
  s.modBlock c b fun k => { k with fibres := k.fibres.set f x }
/-- The state with a fibre changed, if it is there. -/
def State.modFibre (s : State) (c b f : Nat) (g : Fibre → Fibre) : State :=
  match s.fibre c b f with
  | some x => s.setFibre c b f (g x)
  | none => s
/-- The cluster that holds a device core (R13). -/
def clusterOf (c : Nat) : Nat := c / Config.coresPerCluster
/-- The number of a core within its cluster (R13). -/
def coreInCluster (c : Nat) : Nat := c % Config.coresPerCluster

/-- The island of a core (R436). -/
def islandOf (c : Nat) : Nat := 24 * clusterOf c + coreInCluster c / 8

/-- The island of a device slice (R436). -/
def sliceIsland (sl : Nat) : Nat := 192 + sl / 8

/-- The island of the dispatcher (R436). -/
def hubIsland : Nat := 248
/-- The island of the host link (R436). -/
def hostIsland : Nat := 249
/-- The island of the security block (R436). -/
def keyIsland : Nat := 250
/-- The island of a peer link (R436). -/
def linkIsland (link : Nat) : Nat := 251 + link / 6

/-- Whether an island suppresses a cycle (R437). Which SUP cycles of 64 are suppressed changes timing only. -/
def suppressed (s : State) (island cycle : Nat) : Bool := decide (cycle % 64 < devBits s (0x9000 + 8 * island) 6 0)

/-- Whether the slice of a line on a die accepts no new request in this cycle (R437). -/
def sliceShut (s : State) (die pa : Nat) : Bool := suppressed s (sliceIsland (sliceOf die pa)) s.cycle

/-- The islands of the stack that a request for memory goes to: its memory controllers, and its home agent with the format windows
and the encryption engine (R436). -/
def stackIslands (pa : Nat) : List Nat :=
  let st := if aliasBase ≤ pa then (pa - aliasBase) / 2 ^ 40 else pa / 2 ^ 36
  if st < 12 then [224 + 2 * st, 225 + 2 * st] else []

/-- The error-ring entry of an uncorrectable error in the storage of a core or of a slice, which has no physical address (R441,
log 105). -/
def badUnit (s : State) (ctx island : Nat) : State := errorEntry s 2 ctx island 1 0
/-- The compute die of a device core (R13). -/
def dieOf (c : Nat) : Nat := clusterOf c / 2
/-- Whether a forced save of the core's context is in progress (R373, R422 code 18). -/
def Core.preempting (k : Core) : Bool := k.preempt.get k.ctx 0 = 2
/-- The state with one free value drawn. -/
def State.draw (s : State) : State := { s with free := s.free + 1 }
/-- The state with a turn put at the end of the agenda. -/
def State.later (s : State) (t : Turn) : State := { s with agenda := s.agenda ++ [t] }

-- Registers and predicates

/-- A window register; g0 and registers outside the window read zero and full (R18, R139). -/
def Fibre.reg (x : Fibre) (win n : Nat) : Reg := if n = 0 ∨ win ≤ n then {} else x.regs.get n {}
/-- The value of a register (R153). -/
def Fibre.g (x : Fibre) (win n : Nat) : Word := (x.reg win n).val
/-- The value of a pair; a pair of field 0 reads zero (R153). -/
def Fibre.gg (x : Fibre) (win n : Nat) : DWord := if n = 0 then 0 else pair64 (x.g win n) (x.g win (n + 1))
/-- reg_write of R152: full, unpoisoned, discarded for g0 and outside the window. -/
def Fibre.setReg (x : Fibre) (win n : Nat) (v : Word) : Fibre :=
  if n = 0 ∨ win ≤ n then x else { x with regs := x.regs.set n { val := v } }
/-- pair_write of R152. -/
def Fibre.setPair (x : Fibre) (win n : Nat) (v : DWord) : Fibre :=
  if n = 0 then x else (x.setReg win n (lo32 v)).setReg win (n + 1) (hi32 v)
/-- `n` registers from `d` on written in order. -/
def Fibre.setRegs (x : Fibre) (win d : Nat) : List Word → Fibre
  | [] => x
  | v :: t => (x.setReg win d v).setRegs win (d + 1) t
/-- mark_empty of R152 with the load's tag (R364). -/
def Fibre.markEmpty (x : Fibre) (win d : Nat) (tag : BitVec 16) : Nat → Fibre
  | 0 => x
  | k + 1 =>
    if d = 0 then x else
    let y := if win ≤ d then x else
      { x with regs := x.regs.set d { (x.regs.get d {}) with full := false, poison := false, tag := tag } }
    y.markEmpty win (d + 1) tag k
/-- pred(i) of R152; p0 is true. -/
def Fibre.pred (x : Fibre) (n : Nat) : Bool := n = 0 || x.preds.getLsbD n
/-- pred_write of R152; writes to p0 are discarded. -/
def Fibre.setPred (x : Fibre) (n : Nat) (v : Bool) : Fibre :=
  if n = 0 ∨ 16 ≤ n then x
  else { x with preds := (x.preds &&& ~~~(1#16 <<< n)) ||| (if v then 1#16 <<< n else 0) }
/-- The fibre with the key `n` (a register, or 256 and a predicate) held back until cycle `t` (R155); g0 and p0, whose writes
are discarded, are never held. -/
def Fibre.holdKey (x : Fibre) (n t : Nat) : Fibre :=
  if n = 0 ∨ n = 256 then x else { x with hold := x.hold.set n (max t (x.hold.get n 0)) }

-- Translation (R380 to R385)

/-- Why a translation fails: reason (R380), access code and level. -/
structure PFault where
  reason : Nat
  level : Nat := 0
deriving DecidableEq, Repr

/-- The 16 entries of a CONTIG group have one set of flags and map one run (R380). -/
def contigOk (s : State) (ctx table idx : Nat) : Bool :=
  let first := idx / 16 * 16
  match physWord s ctx (table + 8 * first) with
  | none => false
  | some e0 => (List.range 16).all fun j =>
      match physWord s ctx (table + 8 * (first + j)) with
      | none => false
      | some e => decide (e = e0 + j * 4096)

/-- The leaf at a level, or why the walk stops there (R380, R382). -/
def leafOf (s : State) (ctx va table idx e level : Nat) : Except PFault Tlb :=
  let pageBits := if level = 1 then 34 else if level = 2 then 23 else 12
  let shadow := e.testBit 6
  if e % 2 ^ 52 / 2 ^ 12 % 2 ^ (pageBits - 12) ≠ 0 then .error ⟨7, level⟩
  else if level ≠ 3 ∧ (shadow ∨ e.testBit 7) then .error ⟨7, level⟩
  else if e.testBit 7 ∧ !contigOk s ctx table idx then .error ⟨7, level⟩
  else
    let mk (frame : Nat) (alt pair : Option Nat) : Tlb :=
      { ctx := ctx, page := va / 4096, frame := frame, alt := alt, pair := pair, rd := e.testBit 2, wr := e.testBit 3,
        ex := e.testBit 4, sealed_ := e.testBit 5, key := e / 2 ^ 58, level := level }
    if shadow then
      let pa := e % 2 ^ 52 / 4096 * 4096 + 16 * bitsN va 19 12
      match physWord s ctx pa, physWord s ctx (pa + 8) with
      | some w0, some w1 =>
        if w0 / 2 ^ 52 ≠ 0 ∨ bitsN w0 11 1 ≠ 0 ∨ w1 / 2 ^ 52 ≠ 0 ∨ bitsN w1 11 0 ≠ 0 then .error ⟨7, level⟩
        else
          let a := bitsN w0 51 12
          let b := bitsN w1 51 12
          .ok (if w0.testBit 0 then mk b (some a) (some pa) else mk a (some b) (some pa))
      | _, _ => .error ⟨7, level⟩
    else .ok (mk (e % 2 ^ 52 / 4096 + va % 2 ^ pageBits / 4096) none none)

/-- The walk from a level on (R380); `fuel` counts the levels left. -/
def walkFrom (s : State) (ctx va : Nat) : Nat → Nat → Nat → Except PFault Tlb
  | 0, _, level => .error ⟨7, level⟩
  | fuel + 1, table, level =>
    let idx := va / 2 ^ (45 - 11 * level) % 2048
    match physWord s ctx (table + 8 * idx) with
    | none => .error ⟨7, level⟩
    | some e =>
      if !e.testBit 0 then .error ⟨1, level⟩
      else if bitsN e 11 8 ≠ 0 ∨ bitsN e 57 52 ≠ 0 then .error ⟨7, level⟩
      else if e.testBit 1 then (if level = 0 then .error ⟨7, level⟩ else leafOf s ctx va table idx e level)
      else if level = 3 ∨ bitsN e 13 12 ≠ 0 ∨ e.testBit 6 ∨ e.testBit 7 then .error ⟨7, level⟩
      else walkFrom s ctx va fuel (e % 2 ^ 52 / 2 ^ 14 * 2 ^ 14) (level + 1)

/-- The walk of a virtual address in a context (R380). -/
def walkPage (s : State) (ctx va : Nat) : Except PFault Tlb :=
  walkFrom s ctx va 4 (devBits s (offCX ctx 0) 51 14 * 2 ^ 14) 0

/-- The cached translation of a page (R384). -/
def tlbFind (s : State) (ctx page : Nat) : Option Tlb := s.tlb.find? fun t => decide (t.ctx = ctx) && decide (t.page = page)

/-- The translation of a page, cached or walked. -/
def lookupPage (s : State) (ctx va : Nat) : Except PFault Tlb :=
  match tlbFind s ctx (va / 4096) with
  | some t => .ok t
  | none => walkPage s ctx va

/-- Key and permission checks on a translation, in R380's order; a failure names the level of the leaf (R362). Access: 0 read, 1 write, 2 read-modify-write, 3 fetch. -/
def permit (s : State) (ctx acc : Nat) (t : Tlb) : Except PFault Tlb :=
  if t.key ≠ ctx ∧ !(devGet s (offCX ctx 0x28)).getLsbD t.key then .error ⟨6, t.level⟩
  else if (acc = 0 ∨ acc = 2) ∧ !t.rd then .error ⟨2, t.level⟩
  else if (acc = 1 ∨ acc = 2) ∧ (!t.wr ∨ t.sealed_) then .error ⟨3, t.level⟩
  else if acc = 3 ∧ !t.ex then .error ⟨4, t.level⟩
  else .ok t

/-- Translation of one address with its checks (R380). -/
def translate (s : State) (ctx acc : Nat) (va : Nat) : Except PFault Tlb :=
  if 2 ^ 56 ≤ va then .error ⟨0, 0⟩ else
  match lookupPage s ctx va with
  | .error e => .error e
  | .ok t => permit s ctx acc t

/-- The physical address of a virtual one under a translation. -/
def Tlb.pa (t : Tlb) (va : Nat) : Nat := t.frame * 4096 + va % 4096

/-- The pages that a set of bytes overlaps. -/
def pagesOf (base len : Nat) : List Nat := (List.range ((base + len + 4095) / 4096 - base / 4096)).map (base / 4096 + ·)

/-- Virtual bytes read by an engine or the part itself: a translation fault, POISON, or the bytes. -/
inductive VRead where
  | fault (f : PFault) (va : Nat)
  | poison (va : Nat)
  | ok (bytes : List Byte)
deriving DecidableEq, Repr

/-- `n` bytes from a virtual address on, in steps that do not pass a page; `fuel` bounds the pages. -/
def readVirtGo (s : State) (ctx acc : Nat) : Nat → Nat → Nat → VRead
  | 0, _, _ => .ok []
  | fuel + 1, va, n =>
    if n = 0 then .ok [] else
    match translate s ctx acc va with
    | .error e => .fault e va
    | .ok t =>
      let k := min n (4096 - va % 4096)
      match physRead s t.key (t.pa va) k with
      | none => .poison va
      | some l => match readVirtGo s ctx acc fuel (va + k) (n - k) with
        | .ok r => .ok (l ++ r)
        | e => e

/-- `n` bytes from a virtual address on. -/
def readVirt (s : State) (ctx va n : Nat) : VRead := readVirtGo s ctx 0 (n / 4096 + 2) va n

/-- The error-ring entry of a read of virtual bytes that has met an uncorrectable error (R441). -/
def badVirt (s : State) (ctx va n : Nat) : State :=
  match readVirt s ctx va n with
  | .poison a =>
    match translate s ctx 0 a with
    | .ok t => badRead s ctx (t.pa a) (min (va + n - a) (4096 - a % 4096))
    | .error _ => s
  | _ => s

/-- Whether every page of a range may be accessed: the first fault with its address. -/
def rangeFault (s : State) (ctx acc : Nat) : Nat → Nat → Nat → Option (PFault × Nat)
  | 0, _, _ => none
  | fuel + 1, va, n =>
    if n = 0 then none else
    match translate s ctx acc va with
    | .error e => some (e, va)
    | .ok t => if keyGone s t.key then some (⟨7, t.level⟩, va) else
      let k := min n (4096 - va % 4096)
      rangeFault s ctx acc fuel (va + k) (n - k)

/-- Bytes written from a virtual address on, page by page; pages that do not translate are skipped. -/
def writeVirtGo (s : State) (ctx : Nat) : Nat → Nat → List Byte → State
  | 0, _, _ => s
  | fuel + 1, va, bytes =>
    if bytes.isEmpty then s else
    let k := min bytes.length (4096 - va % 4096)
    let s' := match translate s ctx 1 va with
      | .ok t => physWrite s ctx t.key (t.pa va) (bytes.take k)
      | .error _ => s
    writeVirtGo s' ctx fuel (va + k) (bytes.drop k)

/-- Bytes written from a virtual address on. -/
def writeVirt (s : State) (ctx va : Nat) (bytes : List Byte) : State :=
  writeVirtGo s ctx (bytes.length / 4096 + 2) va bytes

-- Records of traps (R363, R366, R368)

/-- The 64 bytes of a stop record (R366). -/
def StopRec.bytes (r : StopRec) : List Byte :=
  [r.engine, r.trap, r.reason, r.access] ++ toBytes 4 r.cmdidx.toNat ++ toBytes 8 r.addr.toNat ++
    toBytes 8 r.status.toNat ++ toBytes 8 r.spc.toNat ++ toBytes 4 r.progress.toNat ++ List.replicate 28 0

/-- The 64 bytes of a gate frame (R368). -/
def GateFrame.bytes (g : GateFrame) : List Byte :=
  toBytes 2 g.core ++ toBytes 2 g.slot ++ toBytes 4 g.record ++ toBytes 8 g.gatepc.toNat ++ toBytes 8 g.gtab.toNat ++
    toBytes 8 (g.gatepc.toNat + 8) ++ List.replicate 32 0

/-- The CODE field of a frame (R363). -/
def Trap.codeField (t : Trap) : Nat :=
  t.code.toNat + (if t.tile then 2 ^ 8 else 0) + (if t.async then 2 ^ 9 else 0) + (if t.stop.isSome then 2 ^ 10 else 0)

/-- The 8 bytes of a register slot (R364). -/
def Reg.bytes (r : Reg) : List Byte :=
  toBytes 4 r.val.toNat ++ toBytes 2 (if r.full then 0 else r.tag.toNat) ++
    toBytes 2 ((if r.full then 0 else 1) + (if r.poison then 2 else 0))

/-- The register that a slot holds (R364). -/
def Reg.ofBytes (l : List Byte) : Reg :=
  let v := Machine.ofBytes l
  { val := BitVec.ofNat 32 v, full := !v.testBit 48, poison := v.testBit 49, tag := BitVec.ofNat 16 (v / 2 ^ 32) }

/-- The header and register slots of a frame or saved record (R363). -/
def frameBytes (x : Fibre) (win slot fib : Nat) (t : Trap) (depth state : Nat) (prev : VAddr) (waitop : Nat) : List Byte :=
  toBytes 8 t.pc.toNat ++ toBytes 8 t.word.toNat ++ toBytes 4 t.codeField ++ toBytes 2 x.preds.toNat ++
    toBytes 1 depth ++ toBytes 1 state ++ toBytes 8 t.addr.toNat ++ toBytes 8 t.info0.toNat ++ toBytes 8 t.info1.toNat ++
    toBytes 8 prev.toNat ++ toBytes 8 x.join.toNat ++ toBytes 8 x.sig.toNat ++ toBytes 2 fib ++ toBytes 2 slot ++
    toBytes 2 win ++ toBytes 2 0 ++ toBytes 8 waitop ++ toBytes 8 0 ++
    ((t.gate.filter fun _ => t.tile).map GateFrame.bytes).getD (List.replicate 64 0) ++
    (t.stop.map StopRec.bytes).getD (List.replicate 64 0) ++ List.replicate 32 0 ++
    (List.range win).flatMap fun n => (x.reg win n).bytes

-- Interrupts and the fault log (R369, R413)

/-- A fault-log interrupt of a context, or a QERR interrupt of the VF that owns a queue (R413). -/
def raiseIrq (s : State) (ctx vec : Nat) : State :=
  if s.vfVec.any (fun p => decide (p = (ctx + 1, vec))) then { s with irqs := s.irqs ++ [(ctx + 1, vec)] }
  else { s with irqs := s.irqs ++ [(0, if vec = 0 then 8 + ctx else 1)] }

/-- A fault-log entry (R369). -/
def faultLog (s : State) (ctx kind core fib slot frame : Nat) (info stop : List Byte) : State :=
  let logn := devBits s (offCX ctx 0x20) 3 0
  let i := s.logIdx.get ctx 0
  let lost := min (i - 2 ^ logn) 0xFFFFFF
  let bytes := toBytes 1 kind ++ toBytes 3 lost ++ toBytes 4 core ++ toBytes 8 s.cycle ++ toBytes 2 fib ++
    toBytes 2 slot ++ toBytes 4 0 ++ toBytes 8 frame ++ info ++ stop
  let s := writeVirt s ctx (devBits s (offCX ctx 0x20) 55 12 * 4096 + 128 * (i % 2 ^ logn)) bytes
  raiseIrq { s with logIdx := s.logIdx.set ctx (i + 1) } ctx 0

/-- Bytes 16 to 47 of a frame header (R363, R369). -/
def trapInfo (x : Fibre) (t : Trap) (depth : Nat) : List Byte :=
  toBytes 4 t.codeField ++ toBytes 2 x.preds.toNat ++ toBytes 1 depth ++ toBytes 1 0 ++ toBytes 8 t.addr.toNat ++
    toBytes 8 t.info0.toNat ++ toBytes 8 t.info1.toNat

/-- 64 zero bytes. -/
def zero64 : List Byte := List.replicate 64 0

-- Taking a trap (R354, R355, R361)

/-- The least frame slot below `fpc` that no fibre of the context holds on the core (R354). -/
def freeSlot (used : List (Nat × Nat)) (ctx fpc : Nat) : Option Nat :=
  (List.range fpc).find? fun k => !used.any fun u => decide (u = (ctx, k))

/-- A live register at handler entry: empty becomes full with 0 (R354 step 4). -/
def Reg.entered (r : Reg) : Reg := if r.full then r else {}

/-- The part stops a fibre whose trap entry or ERET failed (R355). -/
def stopFibre (s : State) (c b f kind frame : Nat) (x : Fibre) (ctx : Nat) (t : Trap) (depth : Nat) : State :=
  faultLog (s.setFibre c b f { x with status := .dead (BitVec.ofNat 8 kind) }) ctx kind c f b frame
    (trapInfo x t depth) zero64

/-- The fibre in a handler, or stopped for the monitor when the trap is BREAKPOINT (R354 step 4, R361). -/
def enterHandler (x : Fibre) (frame : VAddr) (k : Nat) (hentry cycle : Nat) (dbg : Bool) : Fibre :=
  let y := { x with depth := x.depth + 1, frame := frame, frames := k :: x.frames, acqTime := cycle + 1,
                    regs := x.regs.map fun (p : Nat × Reg) => (p.1, p.2.entered) }
  if dbg then { y with status := .debug } else { y with pc := BitVec.ofNat 56 hentry, status := .ready }

/-- Taking a trap (R354): the fibre takes a free frame slot, its frame is written, DEPTH rises and the handler is
entered; or it waits for a slot, or the entry fails (R355). -/
def takeTrap (s : State) (c b f : Nat) (t : Trap) : State :=
  match s.block c b, s.fibre c b f with
  | some k, some x =>
    let ctx := k.ctx
    let fpc := devBits s (offCX ctx 0x18) 10 0
    if 8 ≤ x.depth then stopFibre s c b f 1 0 x ctx t x.depth
    else if fpc = 0 then stopFibre s c b f 2 0 x ctx t (x.depth + 1)
    else
      match freeSlot (s.core c).slotsUsed ctx fpc with
      | none => s.setFibre c b f { x with status := .trapping t }
      | some n =>
        let a := devBits s (offCX ctx 0x10) 55 12 * 4096 + (c * fpc + n) * 2304
        let hentry := devBits s (offCX ctx 0x08) 55 3 * 8
        let dbg := t.code = 0x0E
        if (rangeFault s ctx 1 3 a (256 + 8 * k.win)).isSome then stopFibre s c b f 2 a x ctx t (x.depth + 1)
        else
          let s := writeVirt s ctx a (frameBytes x k.win b f t (x.depth + 1) 0 x.frame 0)
          let s := s.modCore c fun q => { q with slotsUsed := (ctx, n) :: q.slotsUsed }
          if hentry = 0 ∧ !dbg then stopFibre s c b f 3 a x ctx t (x.depth + 1)
          else
            let s := s.setFibre c b f (enterHandler x (BitVec.ofNat 56 a) n hentry s.cycle dbg)
            if dbg then s.modCluster (clusterOf c) fun q => { q with notices := q.notices ++ [⟨a, c, b, f⟩] } else s
  | _, _ => s

/-- A fibre leaves the rounds in which its arrival waits (R357: no effect of a waiting instruction has taken place). -/
def leaveRounds (k : Block) (f : Nat) : Block :=
  { k with masks := k.masks.map fun (n, m) => (n, { m with arrived := m.arrived.filter fun a => a.fib ≠ f }) }

/-- An asynchronous trap becomes pending on a fibre, oldest first (R356). -/
def addPending (s : State) (c b f : Nat) (t : Trap) : State :=
  { s.modFibre c b f (fun x => { x with pending := x.pending ++ [{ t with since := s.pendNo }] }) with pendNo := s.pendNo + 1 }

-- Returning from a trap (R216, R360)

/-- The registers that the slots of a frame hold. -/
def frameRegs (win : Nat) (bytes : List Byte) : FMap Reg :=
  (List.range win).filterMap fun n => if n = 0 then none else some (n, Reg.ofBytes (slice bytes (256 + 8 * n) 8))

/-- The fibre that an ERET from a frame restores (R360 steps 2 to 4); holds of fixed-latency results go on (R155). -/
def restoreFibre (x : Fibre) (win : Nat) (bytes : List Byte) : Fibre :=
  let tile := (ofBytes (slice bytes 16 4)).testBit 8
  let pc := if tile then ofBytes (slice bytes 104 8) else ofBytes (slice bytes 0 8)
  { x with
    pc := BitVec.ofNat 56 pc
    preds := BitVec.ofNat 16 (ofBytes (slice bytes 20 2)) ||| 1
    regs := frameRegs win bytes
    depth := x.depth - 1
    frame := BitVec.ofNat 56 (ofBytes (slice bytes 48 8))
    frames := x.frames.drop 1
    status := .ready }

/-- A frame slot is given back to its core (R360 step 4). -/
def freeFrame (s : State) (c ctx : Nat) (n : Option Nat) : State :=
  match n with
  | none => s
  | some n => s.modCore c fun k => { k with slotsUsed := k.slotsUsed.filter fun u => u ≠ (ctx, n) }

end Sys2Proof.Machine
end

