-- ==== Sys2Proof/Machine/Room.lean ====
section
/-!
DEFINITION. Room on a core for a block that waits for placement (R16, R33), release of a core from a context (R302, R351),
slot tables (R300).
-/
namespace Sys2Proof.Machine

/-- Whether a core has nothing of a context left: no block, no engine command, no stream program (R302, R351). -/
def releasedFrom (k : Core) (ctx : Nat) : Bool :=
  !(k.blocks.vals.any fun b => b.ctx = ctx) && !(k.cpe.any fun c => c.ctx = ctx) &&
    !(k.mxe.jobs.any fun j => j.ctx = ctx) && (k.mxe.queue.isEmpty || !(k.blocks.vals.any fun b => b.ctx = ctx)) &&
    !(k.tsq.repeat_.any fun r => r.ctx = ctx) && k.xcu.run.isNone && !(k.prs.any fun p => p.ctx = ctx)

/-- Registers of the file that resident windows take (R16). -/
def windowsUsed (k : Core) : Nat := k.blocks.vals.foldl (fun n b => n + b.win * b.fibres.length) 0

/-- Ordinary fibre contexts in use (R16). -/
def contextsUsed (k : Core) : Nat := k.blocks.vals.foldl (fun n b => n + b.fibres.length) 0

/-- Whether an SPM range is free. -/
def spmFree (k : Core) (base len : Nat) : Bool :=
  k.blocks.vals.all fun b => b.spmLen = 0 || decide (base + len ≤ b.spmBase) || decide (b.spmBase + b.spmLen ≤ base)

/-- The bases at which an SPM allocation fits. -/
def spmBases (k : Core) (len : Nat) : List Nat :=
  if len = 0 then [0]
  else ((List.range 2048).map (256 * ·)).filter fun b => decide (b + len ≤ Config.spmBytes) && spmFree k b len

/-- Whether an SPM allocation fits somewhere. -/
def spmFits (k : Core) (len : Nat) : Bool :=
  len = 0 || (List.range 2048).any fun n => decide (256 * n + len ≤ Config.spmBytes) && spmFree k (256 * n) len

/-- The unbound barriers of a core. -/
def freeBars (k : Core) : List Nat := (List.range 256).filter fun n => !k.blocks.vals.any fun b => hasN b.bars n

/-- Whether a block slot of a core is one that no block has and no outstanding access names. -/
def slotFree (k : Core) (n : Nat) : Bool := (k.blocks.find? n).isNone && !k.pend.any fun a => a.slot = n

/-- The block slots of a core that a new block may take. -/
def freeSlots (k : Core) : List Nat := (List.range 1023).filter (slotFree k)

/-- Whether a launch is that of a cluster's debug monitor: one block of one fibre of class 0 in the context under debug,
placed on that cluster only (R405, R406). -/
def isMonitor (s : State) (cl : Nat) (l : Launch) (cls : Nat) : Bool :=
  decide (devBits s (offDbg cl 0) 0 0 = 1) && decide (devBits s (offDbg cl 0) 6 1 = l.ctx) && decide (cls = 0) &&
    decide (l.info.nblock = 1) && decide (l.info.nfibre = 1) && decide (l.info.kind = 0) &&
    decide (l.info.place = BitVec.ofNat 8 (2 ^ cl))

/-- Whether a waiting block is a cluster's monitor (R406). -/
def monitorWaits (s : State) (cl : Nat) (w : Waiting) : Bool :=
  (w.launch.bind s.launches.find?).any fun l => isMonitor s cl l w.cls

/-- Whether a cluster's monitor is resident on a core (R406). -/
def Core.hasMonitor (s : State) (cl : Nat) (k : Core) : Bool :=
  k.blocks.vals.any fun b => (b.launch.bind s.launches.find?).any fun l => isMonitor s cl l b.cls

/-- Whether a core keeps one context and 64 registers free for its cluster's monitor: core 0 of a cluster with DBGCTL.EN
set, until the monitor is resident (R406). -/
def keepsRoom (s : State) (c : Nat) (k : Core) : Bool :=
  decide (coreInCluster c = 0) && decide (devBits s (offDbg (clusterOf c) 0) 0 0 = 1) &&
    !k.hasMonitor s (clusterOf c)

/-- Whether a block's resources are free on a core (R33, R406). -/
def resourcesFit (s : State) (c : Nat) (k : Core) (w : Waiting) : Bool :=
  let kept := if keepsRoom s c k && !monitorWaits s (clusterOf c) w then 1 else 0
  decide (windowsUsed k + w.win * w.nfibre + 64 * kept ≤ Config.coreRegs) &&
    decide (contextsUsed k + w.nfibre + kept ≤ Config.coreFibres) &&
    spmFits k w.spm && (w.nbar = 0 || decide (w.nbar ≤ (freeBars k).length)) && (List.range 1023).any (slotFree k)

/-- The loaded function of a context at an entry. -/
def funcAt (s : State) (ctx : Nat) (entry : VAddr) : Option Func :=
  (s.images.filter fun i => i.ctx = ctx).findSome? fun i => List.find? (fun f => decide (f.start = entry)) i.funcs

/-- The slot table of an entry function (R300). -/
def slotTableOf (s : State) (ctx : Nat) (entry : VAddr) : List Nat :=
  match funcAt s ctx entry with
  | some f => f.slots
  | none => []

/-- Whether the flash ring is full (R428). -/
def flashFull (s : State) : Bool :=
  decide (2 ^ devBits s 0x8000 20 16 ≤ (devGet s 0x8010).toNat - (devGet s 0x8018).toNat)

/-- Whether a pending flash record keeps a block of another context off a core (R428). -/
def flashHolds (s : State) (k : Core) : Bool := k.acct.deferred || (devBits s 0x8000 0 0 = 1 && flashFull s)

/-- Whether a cluster has no resident block. -/
def clusterEmpty (s : State) (cl : Nat) : Bool :=
  (List.range Config.coresPerCluster).all fun i => (s.core (cl * Config.coresPerCluster + i)).blocks.isEmpty

/-- Whether every core of a cluster is released, so that the cluster may change its fusion mode (R345, R351). -/
def clusterReleased (s : State) (cl : Nat) : Bool :=
  clusterEmpty s cl && (List.range Config.coresPerCluster).all fun i =>
    releasedFrom (s.core (cl * Config.coresPerCluster + i)) (s.core (cl * Config.coresPerCluster + i)).ctx

/-- The key of a context's save of a core. -/
def saveKey (c ctx : Nat) : Nat := 64 * c + ctx

/-- Whether a save or a kill of a context holds its placement on a core (R371, R373, R443). -/
def placementHeld (s : State) (c ctx : Nat) : Bool :=
  hasN s.killing ctx || ((s.core c).preempt.find? ctx).isSome || (s.saves.find? (saveKey c ctx)).isSome

/-- Whether a block can become resident on a core now, a stagger interval apart; none is while a restore waits (R33, R71, R300, R351, R371, R428). -/
def canPlace (s : State) (c : Nat) (w : Waiting) : Bool :=
  let k := s.core c
  let cl := clusterOf c
  resourcesFit s c k w && !placementHeld s c w.ctx && (decide (coreInCluster c = 0) || !monitorWaits s cl w) &&
    (k.ctx = w.ctx || (releasedFrom k k.ctx && !flashHolds s k)) && !(k.preempt.vals.any fun n => n = 3) &&
    (slotTableOf s w.ctx w.entry == k.slotTable || releasedFrom k k.ctx) &&
    (w.launch.isNone || (s.cluster cl).fused == w.fuse || clusterReleased s cl)

/-- Whether a stagger interval still holds a block from a cluster (R347). -/
def staggered (s : State) (w : Waiting) (cl : Nat) : Bool :=
  match w.launch.bind s.launches.find? with
  | none => false
  | some l => match l.lastAt.find? cl with
    | some t => decide (s.cycle < t + l.info.stagger)
    | none => false

end Sys2Proof.Machine
end

