-- ==== Sys2Proof/Slots.lean ====
section
/-!
DEFINITION. The operations of each slot of a tile bundle as types of their own (R143, R218, R236, R246, R254, R261): a
bundle is decoded into one operation of each, and the constructors of Instr for slot operations are these.
-/
namespace Sys2Proof

/-- An operation of the S slot. -/
inductive SOp where
  | snop
  | addk (kd ka : BitVec 5) (i : BitVec 1) (kb : BitVec 5) (imm : BitVec 32)
  | subk (kd ka : BitVec 5) (i : BitVec 1) (kb : BitVec 5) (imm : BitVec 32)
  | mulk (kd ka : BitVec 5) (i : BitVec 1) (kb : BitVec 5) (imm : BitVec 32)
  | andk (kd ka : BitVec 5) (i : BitVec 1) (kb : BitVec 5) (imm : BitVec 32)
  | ork (kd ka : BitVec 5) (i : BitVec 1) (kb : BitVec 5) (imm : BitVec 32)
  | xork (kd ka : BitVec 5) (i : BitVec 1) (kb : BitVec 5) (imm : BitVec 32)
  | shlk (kd ka : BitVec 5) (i : BitVec 1) (kb : BitVec 5) (imm : BitVec 32)
  | shrk (kd ka : BitVec 5) (i : BitVec 1) (kb : BitVec 5) (imm : BitVec 32)
  | sark (kd ka : BitVec 5) (i : BitVec 1) (kb : BitVec 5) (imm : BitVec 32)
  | mink (kd ka : BitVec 5) (i : BitVec 1) (kb : BitVec 5) (imm : BitVec 32)
  | maxk (kd ka : BitVec 5) (i : BitVec 1) (kb : BitVec 5) (imm : BitVec 32)
  | sltk (kd ka : BitVec 5) (i : BitVec 1) (kb : BitVec 5) (imm : BitVec 32)
  | sltku (kd ka : BitVec 5) (i : BitVec 1) (kb : BitVec 5) (imm : BitVec 32)
  | seqk (kd ka : BitVec 5) (i : BitVec 1) (kb : BitVec 5) (imm : BitVec 32)
  | movk (kd : BitVec 5) (i : BitVec 1) (ka : BitVec 5) (imm : BitVec 32)
  | movhk (kd : BitVec 5) (imm : BitVec 32)
  | addik (kd ka : BitVec 5) (imm : BitVec 32)
  | ldk (kd ka : BitVec 5) (size : BitVec 2) (sx : BitVec 1) (hd : BitVec 4) (imm : BitVec 32)
  | stk (ka kb : BitVec 5) (size : BitVec 2) (hd : BitVec 4) (imm : BitVec 32)
  | brk (off : BitVec 32)
  | bnzk (ka : BitVec 5) (off : BitVec 32)
  | loop (n : BitVec 2) (i : BitVec 1) (ka : BitVec 5) (len count : BitVec 16)
  | lend (n : BitVec 2) (len : BitVec 16)
  | setst (i : BitVec 1) (ka : BitVec 5) (mask : BitVec 8) (fc : BitVec 24)
  | setbd (n : BitVec 4) (i : BitVec 1) (ka : BitVec 5) (imm : BitVec 32)
  | setad (n : BitVec 4) (ka : BitVec 5) (step : BitVec 16)
  | setd (n ka : BitVec 5) (hd : BitVec 4) (imm : BitVec 32)
  | rdsrk (kd : BitVec 5) (num : BitVec 8)
  | wrsrk (ka : BitVec 5) (num : BitVec 8)
  | arrk (kd : BitVec 5) (b : BitVec 4)
  | waitk (b : BitVec 4) (ka : BitVec 5)
  | sleepk (ka : BitVec 5)
  | gret
deriving DecidableEq, Repr

/-- An operation of the V slot. -/
inductive VOp where
  | vnop (g : SGuard)
  | vadd (g : SGuard) (vd va vb : BitVec 7) (t : BitVec 5) (rm : BitVec 2) (sat : BitVec 1)
  | vsub (g : SGuard) (vd va vb : BitVec 7) (t : BitVec 5) (rm : BitVec 2) (sat : BitVec 1)
  | vmul (g : SGuard) (vd va vb : BitVec 7) (t : BitVec 5) (rm : BitVec 2) (sat : BitVec 1)
  | vfma (g : SGuard) (vd va vb vc : BitVec 7) (t : BitVec 5) (rm : BitVec 2) (sat : BitVec 1)
  | vmin (g : SGuard) (vd va vb : BitVec 7) (t : BitVec 5)
  | vmax (g : SGuard) (vd va vb : BitVec 7) (t : BitVec 5)
  | vabs (g : SGuard) (vd va : BitVec 7) (t : BitVec 5) (sat : BitVec 1)
  | vneg (g : SGuard) (vd va : BitVec 7) (t : BitVec 5) (sat : BitVec 1)
  | vand (g : SGuard) (vd va vb : BitVec 7)
  | vor (g : SGuard) (vd va vb : BitVec 7)
  | vxor (g : SGuard) (vd va vb : BitVec 7)
  | vshl (g : SGuard) (vd va vb : BitVec 7) (t : BitVec 5)
  | vshr (g : SGuard) (vd va vb : BitVec 7) (t : BitVec 5)
  | vsar (g : SGuard) (vd va vb : BitVec 7) (t : BitVec 5)
  | vcmp (g : SGuard) (vd va vb : BitVec 7) (t : BitVec 5) (cc : BitVec 3)
  | vsel (g : SGuard) (vd va vb vc : BitVec 7) (t : BitVec 5)
  | vrcp (g : SGuard) (vd va : BitVec 7) (t : BitVec 5) (rm : BitVec 2) (sat : BitVec 1)
  | vrsq (g : SGuard) (vd va : BitVec 7) (t : BitVec 5) (rm : BitVec 2) (sat : BitVec 1)
  | vexp2 (g : SGuard) (vd va : BitVec 7) (t : BitVec 5) (rm : BitVec 2) (sat : BitVec 1)
  | vlog2 (g : SGuard) (vd va : BitVec 7) (t : BitVec 5) (rm : BitVec 2) (sat : BitVec 1)
  | vcvt (g : SGuard) (vd va : BitVec 7) (sf df : BitVec 5) (part : BitVec 2) (rm : BitVec 2) (sat : BitVec 1)
  | vscale (g : SGuard) (vd va vb : BitVec 7) (sf df : BitVec 5) (part : BitVec 2) (e8 : BitVec 1) (lg : BitVec 3) (rm : BitVec 2) (sat : BitVec 1)
  | vredl (g : SGuard) (vd va : BitVec 7) (t : BitVec 5) (op : BitVec 2) (rm : BitVec 2) (sat : BitVec 1)
  | vredr (g : SGuard) (vd va : BitVec 7) (t : BitVec 5) (op : BitVec 2) (cnt : BitVec 5) (rm : BitVec 2) (sat : BitVec 1)
  | vld (g : SGuard) (vd : BitVec 7) (hd ad : BitVec 4) (use : BitVec 1) (off : BitVec 9)
  | vst (g : SGuard) (va : BitVec 7) (hd ad : BitVec 4) (use : BitVec 1) (off : BitVec 9)
  | vbcast (g : SGuard) (vd va : BitVec 7) (t : BitVec 5) (usek : BitVec 1) (lane : BitVec 8)
  | vmov (g : SGuard) (vd va : BitVec 7)
  | vqpop (g : SGuard) (vd : BitVec 7) (q : BitVec 3)
deriving DecidableEq, Repr

/-- An operation of the M slot. -/
inductive MOp where
  | mnop (g : SGuard)
  | mma (g : SGuard) (c a : BitVec 8) (unit : BitVec 7) (rows : BitVec 4) (af : BitVec 5) (corr sat : BitVec 1) (cpk : BitVec 5)
  | mmaq (g : SGuard) (c : BitVec 8) (q : BitVec 3) (unit : BitVec 7) (rows : BitVec 4) (af : BitVec 5) (corr sat : BitVec 1) (cpk : BitVec 5)
  | bload (g : SGuard) (unit : BitVec 7) (src : BitVec 8) (bf : BitVec 5) (corr mx : BitVec 1)
  | bloadq (g : SGuard) (unit : BitVec 7) (q : BitVec 3) (bf : BitVec 5) (corr mx : BitVec 1)
  | mclr (g : SGuard) (c : BitVec 8) (cnt : BitVec 6) (w : BitVec 1)
deriving DecidableEq, Repr

/-- An operation of the C slot. -/
inductive COp where
  | cnop (g : SGuard)
  | copy (g : SGuard) (ds dd : BitVec 5) (ada : BitVec 4) (sae : BitVec 1) (adb : BitVec 4) (dae : BitVec 1) (bar : BitVec 4) (bae : BitVec 1) (kp : BitVec 5) (pt : BitVec 1)
  | copyp (g : SGuard) (ds dd : BitVec 5) (ada : BitVec 4) (sae : BitVec 1) (adb : BitVec 4) (dae : BitVec 1) (bar : BitVec 4) (bae : BitVec 1) (kp : BitVec 5) (pt : BitVec 1)
  | cpack (g : SGuard) (ds dd : BitVec 5) (ada : BitVec 4) (sae : BitVec 1) (adb : BitVec 4) (dae : BitVec 1) (bar : BitVec 4) (bae : BitVec 1) (kp : BitVec 5) (pt : BitVec 1) (fac : BitVec 8)
  | cunpk (g : SGuard) (ds dd : BitVec 5) (ada : BitVec 4) (sae : BitVec 1) (adb : BitVec 4) (dae : BitVec 1) (bar : BitVec 4) (bae : BitVec 1) (kp : BitVec 5) (pt : BitVec 1) (fac : BitVec 8)
  | pub (g : SGuard) (ka kb : BitVec 5) (bar : BitVec 4) (bae : BitVec 1) (kp : BitVec 5) (pt : BitVec 1)
deriving DecidableEq, Repr

/-- An operation of the X slot. -/
inductive XOp where
  | xnop (g : SGuard)
  | xpose (g : SGuard) (c a : BitVec 8)
  | chain (g : SGuard) (ka kb : BitVec 5) (n : BitVec 4)
  | chord (g : SGuard) (ka : BitVec 5) (hd : BitVec 4) (cnt : BitVec 6)
  | chstep (g : SGuard) (cnt : BitVec 6) (b : BitVec 4) (bae : BitVec 1)
  | chend (g : SGuard) (kd : BitVec 5)
deriving DecidableEq, Repr

/-- The operation of the S slot that an instruction is, if it is one. -/
def Instr.toS (i : Instr) : Option SOp :=
  match i with
  | .snop => some (.snop)
  | .addk kd ka i kb imm => some (.addk kd ka i kb imm)
  | .subk kd ka i kb imm => some (.subk kd ka i kb imm)
  | .mulk kd ka i kb imm => some (.mulk kd ka i kb imm)
  | .andk kd ka i kb imm => some (.andk kd ka i kb imm)
  | .ork kd ka i kb imm => some (.ork kd ka i kb imm)
  | .xork kd ka i kb imm => some (.xork kd ka i kb imm)
  | .shlk kd ka i kb imm => some (.shlk kd ka i kb imm)
  | .shrk kd ka i kb imm => some (.shrk kd ka i kb imm)
  | .sark kd ka i kb imm => some (.sark kd ka i kb imm)
  | .mink kd ka i kb imm => some (.mink kd ka i kb imm)
  | .maxk kd ka i kb imm => some (.maxk kd ka i kb imm)
  | .sltk kd ka i kb imm => some (.sltk kd ka i kb imm)
  | .sltku kd ka i kb imm => some (.sltku kd ka i kb imm)
  | .seqk kd ka i kb imm => some (.seqk kd ka i kb imm)
  | .movk kd i ka imm => some (.movk kd i ka imm)
  | .movhk kd imm => some (.movhk kd imm)
  | .addik kd ka imm => some (.addik kd ka imm)
  | .ldk kd ka size sx hd imm => some (.ldk kd ka size sx hd imm)
  | .stk ka kb size hd imm => some (.stk ka kb size hd imm)
  | .brk off => some (.brk off)
  | .bnzk ka off => some (.bnzk ka off)
  | .loop n i ka len count => some (.loop n i ka len count)
  | .lend n len => some (.lend n len)
  | .setst i ka mask fc => some (.setst i ka mask fc)
  | .setbd n i ka imm => some (.setbd n i ka imm)
  | .setad n ka step => some (.setad n ka step)
  | .setd n ka hd imm => some (.setd n ka hd imm)
  | .rdsrk kd num => some (.rdsrk kd num)
  | .wrsrk ka num => some (.wrsrk ka num)
  | .arrk kd b => some (.arrk kd b)
  | .waitk b ka => some (.waitk b ka)
  | .sleepk ka => some (.sleepk ka)
  | .gret => some (.gret)
  | _ => none

/-- An operation of the S slot as an instruction. -/
noncomputable def SOp.toInstr (o : SOp) : Instr :=
  match o with
  | .snop => .snop
  | .addk kd ka i kb imm => .addk kd ka i kb imm
  | .subk kd ka i kb imm => .subk kd ka i kb imm
  | .mulk kd ka i kb imm => .mulk kd ka i kb imm
  | .andk kd ka i kb imm => .andk kd ka i kb imm
  | .ork kd ka i kb imm => .ork kd ka i kb imm
  | .xork kd ka i kb imm => .xork kd ka i kb imm
  | .shlk kd ka i kb imm => .shlk kd ka i kb imm
  | .shrk kd ka i kb imm => .shrk kd ka i kb imm
  | .sark kd ka i kb imm => .sark kd ka i kb imm
  | .mink kd ka i kb imm => .mink kd ka i kb imm
  | .maxk kd ka i kb imm => .maxk kd ka i kb imm
  | .sltk kd ka i kb imm => .sltk kd ka i kb imm
  | .sltku kd ka i kb imm => .sltku kd ka i kb imm
  | .seqk kd ka i kb imm => .seqk kd ka i kb imm
  | .movk kd i ka imm => .movk kd i ka imm
  | .movhk kd imm => .movhk kd imm
  | .addik kd ka imm => .addik kd ka imm
  | .ldk kd ka size sx hd imm => .ldk kd ka size sx hd imm
  | .stk ka kb size hd imm => .stk ka kb size hd imm
  | .brk off => .brk off
  | .bnzk ka off => .bnzk ka off
  | .loop n i ka len count => .loop n i ka len count
  | .lend n len => .lend n len
  | .setst i ka mask fc => .setst i ka mask fc
  | .setbd n i ka imm => .setbd n i ka imm
  | .setad n ka step => .setad n ka step
  | .setd n ka hd imm => .setd n ka hd imm
  | .rdsrk kd num => .rdsrk kd num
  | .wrsrk ka num => .wrsrk ka num
  | .arrk kd b => .arrk kd b
  | .waitk b ka => .waitk b ka
  | .sleepk ka => .sleepk ka
  | .gret => .gret

/-- The operation of the V slot that an instruction is, if it is one. -/
def Instr.toV (i : Instr) : Option VOp :=
  match i with
  | .vnop g => some (.vnop g)
  | .vadd g vd va vb t rm sat => some (.vadd g vd va vb t rm sat)
  | .vsub g vd va vb t rm sat => some (.vsub g vd va vb t rm sat)
  | .vmul g vd va vb t rm sat => some (.vmul g vd va vb t rm sat)
  | .vfma g vd va vb vc t rm sat => some (.vfma g vd va vb vc t rm sat)
  | .vmin g vd va vb t => some (.vmin g vd va vb t)
  | .vmax g vd va vb t => some (.vmax g vd va vb t)
  | .vabs g vd va t sat => some (.vabs g vd va t sat)
  | .vneg g vd va t sat => some (.vneg g vd va t sat)
  | .vand g vd va vb => some (.vand g vd va vb)
  | .vor g vd va vb => some (.vor g vd va vb)
  | .vxor g vd va vb => some (.vxor g vd va vb)
  | .vshl g vd va vb t => some (.vshl g vd va vb t)
  | .vshr g vd va vb t => some (.vshr g vd va vb t)
  | .vsar g vd va vb t => some (.vsar g vd va vb t)
  | .vcmp g vd va vb t cc => some (.vcmp g vd va vb t cc)
  | .vsel g vd va vb vc t => some (.vsel g vd va vb vc t)
  | .vrcp g vd va t rm sat => some (.vrcp g vd va t rm sat)
  | .vrsq g vd va t rm sat => some (.vrsq g vd va t rm sat)
  | .vexp2 g vd va t rm sat => some (.vexp2 g vd va t rm sat)
  | .vlog2 g vd va t rm sat => some (.vlog2 g vd va t rm sat)
  | .vcvt g vd va sf df part rm sat => some (.vcvt g vd va sf df part rm sat)
  | .vscale g vd va vb sf df part e8 lg rm sat => some (.vscale g vd va vb sf df part e8 lg rm sat)
  | .vredl g vd va t op rm sat => some (.vredl g vd va t op rm sat)
  | .vredr g vd va t op cnt rm sat => some (.vredr g vd va t op cnt rm sat)
  | .vld g vd hd ad use off => some (.vld g vd hd ad use off)
  | .vst g va hd ad use off => some (.vst g va hd ad use off)
  | .vbcast g vd va t usek lane => some (.vbcast g vd va t usek lane)
  | .vmov g vd va => some (.vmov g vd va)
  | .vqpop g vd q => some (.vqpop g vd q)
  | _ => none

/-- An operation of the V slot as an instruction. -/
noncomputable def VOp.toInstr (o : VOp) : Instr :=
  match o with
  | .vnop g => .vnop g
  | .vadd g vd va vb t rm sat => .vadd g vd va vb t rm sat
  | .vsub g vd va vb t rm sat => .vsub g vd va vb t rm sat
  | .vmul g vd va vb t rm sat => .vmul g vd va vb t rm sat
  | .vfma g vd va vb vc t rm sat => .vfma g vd va vb vc t rm sat
  | .vmin g vd va vb t => .vmin g vd va vb t
  | .vmax g vd va vb t => .vmax g vd va vb t
  | .vabs g vd va t sat => .vabs g vd va t sat
  | .vneg g vd va t sat => .vneg g vd va t sat
  | .vand g vd va vb => .vand g vd va vb
  | .vor g vd va vb => .vor g vd va vb
  | .vxor g vd va vb => .vxor g vd va vb
  | .vshl g vd va vb t => .vshl g vd va vb t
  | .vshr g vd va vb t => .vshr g vd va vb t
  | .vsar g vd va vb t => .vsar g vd va vb t
  | .vcmp g vd va vb t cc => .vcmp g vd va vb t cc
  | .vsel g vd va vb vc t => .vsel g vd va vb vc t
  | .vrcp g vd va t rm sat => .vrcp g vd va t rm sat
  | .vrsq g vd va t rm sat => .vrsq g vd va t rm sat
  | .vexp2 g vd va t rm sat => .vexp2 g vd va t rm sat
  | .vlog2 g vd va t rm sat => .vlog2 g vd va t rm sat
  | .vcvt g vd va sf df part rm sat => .vcvt g vd va sf df part rm sat
  | .vscale g vd va vb sf df part e8 lg rm sat => .vscale g vd va vb sf df part e8 lg rm sat
  | .vredl g vd va t op rm sat => .vredl g vd va t op rm sat
  | .vredr g vd va t op cnt rm sat => .vredr g vd va t op cnt rm sat
  | .vld g vd hd ad use off => .vld g vd hd ad use off
  | .vst g va hd ad use off => .vst g va hd ad use off
  | .vbcast g vd va t usek lane => .vbcast g vd va t usek lane
  | .vmov g vd va => .vmov g vd va
  | .vqpop g vd q => .vqpop g vd q

/-- The operation of the M slot that an instruction is, if it is one. -/
def Instr.toM (i : Instr) : Option MOp :=
  match i with
  | .mnop g => some (.mnop g)
  | .mma g c a unit rows af corr sat cpk => some (.mma g c a unit rows af corr sat cpk)
  | .mmaq g c q unit rows af corr sat cpk => some (.mmaq g c q unit rows af corr sat cpk)
  | .bload g unit src bf corr mx => some (.bload g unit src bf corr mx)
  | .bloadq g unit q bf corr mx => some (.bloadq g unit q bf corr mx)
  | .mclr g c cnt w => some (.mclr g c cnt w)
  | _ => none

/-- An operation of the M slot as an instruction. -/
noncomputable def MOp.toInstr (o : MOp) : Instr :=
  match o with
  | .mnop g => .mnop g
  | .mma g c a unit rows af corr sat cpk => .mma g c a unit rows af corr sat cpk
  | .mmaq g c q unit rows af corr sat cpk => .mmaq g c q unit rows af corr sat cpk
  | .bload g unit src bf corr mx => .bload g unit src bf corr mx
  | .bloadq g unit q bf corr mx => .bloadq g unit q bf corr mx
  | .mclr g c cnt w => .mclr g c cnt w

/-- The operation of the C slot that an instruction is, if it is one. -/
def Instr.toC (i : Instr) : Option COp :=
  match i with
  | .cnop g => some (.cnop g)
  | .copy g ds dd ada sae adb dae bar bae kp pt => some (.copy g ds dd ada sae adb dae bar bae kp pt)
  | .copyp g ds dd ada sae adb dae bar bae kp pt => some (.copyp g ds dd ada sae adb dae bar bae kp pt)
  | .cpack g ds dd ada sae adb dae bar bae kp pt fac => some (.cpack g ds dd ada sae adb dae bar bae kp pt fac)
  | .cunpk g ds dd ada sae adb dae bar bae kp pt fac => some (.cunpk g ds dd ada sae adb dae bar bae kp pt fac)
  | .pub g ka kb bar bae kp pt => some (.pub g ka kb bar bae kp pt)
  | _ => none

/-- An operation of the C slot as an instruction. -/
noncomputable def COp.toInstr (o : COp) : Instr :=
  match o with
  | .cnop g => .cnop g
  | .copy g ds dd ada sae adb dae bar bae kp pt => .copy g ds dd ada sae adb dae bar bae kp pt
  | .copyp g ds dd ada sae adb dae bar bae kp pt => .copyp g ds dd ada sae adb dae bar bae kp pt
  | .cpack g ds dd ada sae adb dae bar bae kp pt fac => .cpack g ds dd ada sae adb dae bar bae kp pt fac
  | .cunpk g ds dd ada sae adb dae bar bae kp pt fac => .cunpk g ds dd ada sae adb dae bar bae kp pt fac
  | .pub g ka kb bar bae kp pt => .pub g ka kb bar bae kp pt

/-- The operation of the X slot that an instruction is, if it is one. -/
def Instr.toX (i : Instr) : Option XOp :=
  match i with
  | .xnop g => some (.xnop g)
  | .xpose g c a => some (.xpose g c a)
  | .chain g ka kb n => some (.chain g ka kb n)
  | .chord g ka hd cnt => some (.chord g ka hd cnt)
  | .chstep g cnt b bae => some (.chstep g cnt b bae)
  | .chend g kd => some (.chend g kd)
  | _ => none

/-- An operation of the X slot as an instruction. -/
def XOp.toInstr (o : XOp) : Instr :=
  match o with
  | .xnop g => .xnop g
  | .xpose g c a => .xpose g c a
  | .chain g ka kb n => .chain g ka kb n
  | .chord g ka hd cnt => .chord g ka hd cnt
  | .chstep g cnt b bae => .chstep g cnt b bae
  | .chend g kd => .chend g kd

end Sys2Proof
end

