-- ==== Sys2Proof/WellFormed.lean ====
section
/-!
DEFINITION. The checks that the sealer makes on one instruction word, slot operation or stream word (R106, R133, R134,
R137, R139, R149, R319): the first check that fails, by its code of R319, and what well-formed means. Checks that need
more than the word (windows, loops, latencies, gate tables) stand in Machine/Sealer.lean.
-/
namespace Sys2Proof

/-- The codes of R319. -/
inductive SealCode where
  | opcode | reserved | guard | format | order | register | special | field | destination | rotate
  | latency | loop | repeat | nest | ending | branch | gate | stream | stray
deriving DecidableEq, Repr

namespace WellFormed

/-- The code of the first check that fails, the guard check (R149: GP = 0 with GS = 1 is reserved) first. R149 gives
no order for the checks of one word: this one, and which of RESERVED and FIELD is reported, is log 100 (DESIGN CHOICE). -/
def firstBad (guardOk : Bool) : List (Bool × SealCode) → Option SealCode
  | [] => if guardOk then none else some .guard
  | (ok, c) :: t => if !guardOk then some .guard else if ok then firstBad guardOk t else some c

/-- Whether a fibre guard is one the sealer accepts (R136). -/
def guardOk (f : FHdr) : Bool := !(f.gp == 0 && f.gs == 1)
/-- A register that may name a pair (R139). -/
def even (r : BitVec 8) : Bool := r &&& 1 == 0
/-- A register that may name a quad (R139). -/
def quad (r : BitVec 8) : Bool := r &&& 3 == 0
/-- Special registers that fibre code may read (R134). -/
def sregReadable (n : BitVec 16) : Bool := n <= 8 || n == 0x10 || n == 0x11 || (0x20 <= n && n <= 0x27)
/-- Special registers of 64 bits (R134, R365). -/
def sreg64 (n : BitVec 16) : Bool := n == 6 || n == 8 || (0x21 <= n && n <= 0x26)
/-- Formats that CVT accepts (R170). -/
def cvtFmt (c : BitVec 5) : Bool := c <= 3 || (0xF <= c && c <= 0x15)
/-- Formats of 64 bits. -/
def fmt64 (c : BitVec 5) : Bool := c == 0xF || c == 0x10
/-- 8-bit formats of CVTPK and CVTUPK (R172). -/
def fmt8 (c : BitVec 5) : Bool := c == 0 || c == 1 || c == 0x14 || c == 0x15
/-- Formats of CVTPK and CVTUPK (R172). -/
def packFmt (c : BitVec 5) : Bool := fmt8 c || c == 2 || c == 0x12 || c == 0x13
/-- XRED over pairs (R179). -/
def xred64 (op : BitVec 2) (ty : BitVec 3) : Bool := ty == 1 || (op == 0 && ty == 3)
/-- A load's kind and scope (R84, R137, R189). -/
def loadKind (k s : BitVec 3) : Bool := if k = 0 then s == 0 else k <= 2 && s < 5
/-- A store's kind and scope (R84, R137, R189). -/
def storeKind (k s : BitVec 3) : Bool := if k = 0 then s == 0 else (k == 1 || k == 3) && s < 5
/-- Lane types of the V slot (R237). -/
def laneFmt (t : BitVec 5) : Bool := t == 0 || t == 3 || (0x11 <= t && t <= 0x15)
/-- Integer lane types. -/
def intLane (t : BitVec 5) : Bool := t == 0 || t == 3
/-- Element formats of VCVT, VSCALE, PCVT and PSCALE (R241, R285). -/
def elemFmt (t : BitVec 5) : Bool := t <= 3 || (0x11 <= t && t <= 0x19)
/-- log2 of the bytes that an element takes, a 6- or 4-bit code taking one (R241). -/
def lgBytes (t : BitVec 5) : Nat :=
  if t == 3 || t == 0x11 then 2 else if t == 2 || t == 0x12 || t == 0x13 then 1 else 0
/-- PART below the ratio of the widths (R241). -/
def partOk (sf df : BitVec 5) (part : BitVec 2) : Bool :=
  part.toNat < 2 ^ (max (lgBytes sf) (lgBytes df) - min (lgBytes sf) (lgBytes df))
/-- A row operand: bits [6:4] zero where it names an ad register (R225). -/
def rowOp (r : BitVec 8) : Bool := r < 128 || r &&& 0x70 == 0
/-- A formats of MMA (R248). -/
def mmaFmt (t : BitVec 5) : Bool := t == 0 || t == 1 || t == 0xA || (0x12 <= t && t <= 0x15)
/-- B formats of BLOAD (R247). -/
def bloadFmt (t : BitVec 5) : Bool :=
  t == 0 || t == 1 || t == 4 || t == 6 || t == 0xA || (0x12 <= t && t <= 0x19)
/-- The flags that a B format admits (R247). -/
def bloadFlags (t : BitVec 5) (corr mx : BitVec 1) : Bool :=
  if t == 0 || t == 1 || t == 0x19 then corr == 0 && mx == 0
  else if t == 4 || t == 6 || t == 0xA then mx == 0
  else if t == 0x14 || t == 0x15 then corr == 0
  else if t == 0x16 || t == 0x17 || t == 0x18 then corr == 0 && mx == 1
  else corr == 0 && mx == 0
/-- The stored width of a B format (R247). -/
def bloadWidth (t : BitVec 5) : Nat :=
  if t == 4 then 2 else if t == 6 then 4 else if t == 0x12 || t == 0x13 then 16 else 8
/-- The start unit a multiple of the width, and the run within the 128 units (R247). -/
def bloadUnit (t : BitVec 5) (u : BitVec 7) : Bool :=
  u.toNat % bloadWidth t == 0 && u.toNat + bloadWidth t <= 128

/-- The first check of the sealer that an operation of the S slot fails, if any. -/
def checkS (i : SOp) : Option SealCode :=
  match i with
  | .snop => firstBad true []
  | .addk kd ka i kb imm => firstBad true [(if i = 1 then kb == 0 else imm == 0, .reserved)]
  | .subk kd ka i kb imm => firstBad true [(if i = 1 then kb == 0 else imm == 0, .reserved)]
  | .mulk kd ka i kb imm => firstBad true [(if i = 1 then kb == 0 else imm == 0, .reserved)]
  | .andk kd ka i kb imm => firstBad true [(if i = 1 then kb == 0 else imm == 0, .reserved)]
  | .ork kd ka i kb imm => firstBad true [(if i = 1 then kb == 0 else imm == 0, .reserved)]
  | .xork kd ka i kb imm => firstBad true [(if i = 1 then kb == 0 else imm == 0, .reserved)]
  | .shlk kd ka i kb imm => firstBad true [(if i = 1 then kb == 0 else imm == 0, .reserved)]
  | .shrk kd ka i kb imm => firstBad true [(if i = 1 then kb == 0 else imm == 0, .reserved)]
  | .sark kd ka i kb imm => firstBad true [(if i = 1 then kb == 0 else imm == 0, .reserved)]
  | .mink kd ka i kb imm => firstBad true [(if i = 1 then kb == 0 else imm == 0, .reserved)]
  | .maxk kd ka i kb imm => firstBad true [(if i = 1 then kb == 0 else imm == 0, .reserved)]
  | .sltk kd ka i kb imm => firstBad true [(if i = 1 then kb == 0 else imm == 0, .reserved)]
  | .sltku kd ka i kb imm => firstBad true [(if i = 1 then kb == 0 else imm == 0, .reserved)]
  | .seqk kd ka i kb imm => firstBad true [(if i = 1 then kb == 0 else imm == 0, .reserved)]
  | .movk kd i ka imm => firstBad true [(if i = 1 then imm == 0 else ka == 0, .reserved)]
  | .movhk kd imm => firstBad true []
  | .addik kd ka imm => firstBad true []
  | .ldk kd ka size sx hd imm => firstBad true [(!(size == 3 && sx == 1), .field)]
  | .stk ka kb size hd imm => firstBad true []
  | .brk off => firstBad true []
  | .bnzk ka off => firstBad true []
  | .loop n i ka len count => firstBad true [(if i = 1 then count == 0 else ka == 0, .reserved), (len != 0, .loop)]
  | .lend n len => firstBad true [(len != 0, .loop)]
  | .setst i ka mask fc => firstBad true [(if i = 1 then fc == 0 else ka == 0, .reserved)]
  | .setbd n i ka imm => firstBad true [(if i = 1 then imm == 0 else ka == 0, .reserved)]
  | .setad n ka step => firstBad true []
  | .setd n ka hd imm => firstBad true []
  | .rdsrk kd num => firstBad true [((1 <= num && num <= 7) || (0x10 <= num && num <= 0x13), .special)]
  | .wrsrk ka num => firstBad true [(0x10 <= num && num <= 0x13, .special)]
  | .arrk kd b => firstBad true []
  | .waitk b ka => firstBad true []
  | .sleepk ka => firstBad true []
  | .gret => firstBad true []

/-- The first check of the sealer that an operation of the V slot fails, if any. An index whose enable bit is 0, and RM with an
integer lane type, may hold any value (log 100, DESIGN CHOICE: R237, R238 and R243 do not say that they are reserved). -/
def checkV (i : VOp) : Option SealCode :=
  match i with
  | .vnop g => firstBad true [(g.en == 1 || g.st == 0, .guard)]
  | .vadd g vd va vb t rm sat => firstBad true [(g.en == 1 || g.st == 0, .guard), (laneFmt t, .format)]
  | .vsub g vd va vb t rm sat => firstBad true [(g.en == 1 || g.st == 0, .guard), (laneFmt t, .format)]
  | .vmul g vd va vb t rm sat => firstBad true [(g.en == 1 || g.st == 0, .guard), (laneFmt t, .format)]
  | .vfma g vd va vb vc t rm sat => firstBad true [(g.en == 1 || g.st == 0, .guard), (laneFmt t, .format)]
  | .vmin g vd va vb t => firstBad true [(g.en == 1 || g.st == 0, .guard), (laneFmt t, .format)]
  | .vmax g vd va vb t => firstBad true [(g.en == 1 || g.st == 0, .guard), (laneFmt t, .format)]
  | .vabs g vd va t sat => firstBad true [(g.en == 1 || g.st == 0, .guard), (laneFmt t, .format), (intLane t || sat == 0, .reserved)]
  | .vneg g vd va t sat => firstBad true [(g.en == 1 || g.st == 0, .guard), (laneFmt t, .format), (intLane t || sat == 0, .reserved)]
  | .vand g vd va vb => firstBad true [(g.en == 1 || g.st == 0, .guard)]
  | .vor g vd va vb => firstBad true [(g.en == 1 || g.st == 0, .guard)]
  | .vxor g vd va vb => firstBad true [(g.en == 1 || g.st == 0, .guard)]
  | .vshl g vd va vb t => firstBad true [(g.en == 1 || g.st == 0, .guard), (intLane t, .format)]
  | .vshr g vd va vb t => firstBad true [(g.en == 1 || g.st == 0, .guard), (intLane t, .format)]
  | .vsar g vd va vb t => firstBad true [(g.en == 1 || g.st == 0, .guard), (intLane t, .format)]
  | .vcmp g vd va vb t cc => firstBad true [(g.en == 1 || g.st == 0, .guard), (laneFmt t, .format), (cc < 6 || !(intLane t), .field)]
  | .vsel g vd va vb vc t => firstBad true [(g.en == 1 || g.st == 0, .guard), (laneFmt t, .format)]
  | .vrcp g vd va t rm sat => firstBad true [(g.en == 1 || g.st == 0, .guard), (laneFmt t && !(intLane t), .format), (t != 0x11 || rm == 0, .field)]
  | .vrsq g vd va t rm sat => firstBad true [(g.en == 1 || g.st == 0, .guard), (laneFmt t && !(intLane t), .format), (t != 0x11 || rm == 0, .field)]
  | .vexp2 g vd va t rm sat => firstBad true [(g.en == 1 || g.st == 0, .guard), (laneFmt t && !(intLane t), .format), (t != 0x11 || rm == 0, .field)]
  | .vlog2 g vd va t rm sat => firstBad true [(g.en == 1 || g.st == 0, .guard), (laneFmt t && !(intLane t), .format), (t != 0x11 || rm == 0, .field)]
  | .vcvt g vd va sf df part rm sat => firstBad true [(g.en == 1 || g.st == 0, .guard), (elemFmt sf && elemFmt df, .format), (sf != df && partOk sf df part, .field)]
  | .vscale g vd va vb sf df part e8 lg rm sat => firstBad true [(g.en == 1 || g.st == 0, .guard), (elemFmt sf && elemFmt df, .format), (sf != df && partOk sf df part, .field)]
  | .vredl g vd va t op rm sat => firstBad true [(g.en == 1 || g.st == 0, .guard), (laneFmt t, .format), (op != 3, .field), (op == 0 || (rm == 0 && sat == 0), .reserved)]
  | .vredr g vd va t op cnt rm sat => firstBad true [(g.en == 1 || g.st == 0, .guard), (laneFmt t, .format), (op != 3, .field), (op == 0 || (rm == 0 && sat == 0), .reserved)]
  | .vld g vd hd ad use off => firstBad true [(g.en == 1 || g.st == 0, .guard)]
  | .vst g va hd ad use off => firstBad true [(g.en == 1 || g.st == 0, .guard)]
  | .vbcast g vd va t usek lane => firstBad true [(g.en == 1 || g.st == 0, .guard), (laneFmt t, .format), (usek == 0 || (va == 0 && lane < 32), .reserved)]
  | .vmov g vd va => firstBad true [(g.en == 1 || g.st == 0, .guard)]
  | .vqpop g vd q => firstBad true [(g.en == 1 || g.st == 0, .guard)]

/-- The first check of the sealer that an operation of the M slot fails, if any; a field that must be zero under one setting of
another fails as FIELD (log 100, DESIGN CHOICE). -/
def checkM (i : MOp) : Option SealCode :=
  match i with
  | .mnop g => firstBad true [(g.en == 1 || g.st == 0, .guard)]
  | .mma g c a unit rows af corr sat cpk => firstBad true [(g.en == 1 || g.st == 0, .guard), (rowOp c && rowOp a, .reserved), (mmaFmt af, .format), (corr == 0 || af == 0xA, .field), ((sat == 0 && cpk == 0) || af == 0 || af == 1 || af == 0xA, .field)]
  | .mmaq g c q unit rows af corr sat cpk => firstBad true [(g.en == 1 || g.st == 0, .guard), (rowOp c, .reserved), (mmaFmt af, .format), (corr == 0 || af == 0xA, .field), ((sat == 0 && cpk == 0) || af == 0 || af == 1 || af == 0xA, .field)]
  | .bload g unit src bf corr mx => firstBad true [(g.en == 1 || g.st == 0, .guard), (rowOp src, .reserved), (bloadFmt bf, .format), (bloadFlags bf corr mx && bloadUnit bf unit, .field)]
  | .bloadq g unit q bf corr mx => firstBad true [(g.en == 1 || g.st == 0, .guard), (bloadFmt bf, .format), (bloadFlags bf corr mx && bloadUnit bf unit, .field)]
  | .mclr g c cnt w => firstBad true [(g.en == 1 || g.st == 0, .guard), (rowOp c, .reserved), (w == 0 || (c == 0 && cnt == 0), .field)]

/-- The first check of the sealer that an operation of the C slot fails, if any. An ad or barrier index whose enable bit is 0 may
hold any value (log 100, DESIGN CHOICE: R255 does not say that it is reserved). -/
def checkC (i : COp) : Option SealCode :=
  match i with
  | .cnop g => firstBad true [(g.en == 1 || g.st == 0, .guard)]
  | .copy g ds dd ada sae adb dae bar bae kp pt => firstBad true [(g.en == 1 || g.st == 0, .guard)]
  | .copyp g ds dd ada sae adb dae bar bae kp pt => firstBad true [(g.en == 1 || g.st == 0, .guard)]
  | .cpack g ds dd ada sae adb dae bar bae kp pt fac => firstBad true [(g.en == 1 || g.st == 0, .guard)]
  | .cunpk g ds dd ada sae adb dae bar bae kp pt fac => firstBad true [(g.en == 1 || g.st == 0, .guard)]
  | .pub g ka kb bar bae kp pt => firstBad true [(g.en == 1 || g.st == 0, .guard)]

/-- The first check of the sealer that an operation of the X slot fails, if any. A barrier index whose enable bit is 0 may hold any
value (log 100, DESIGN CHOICE). -/
def checkX (i : XOp) : Option SealCode :=
  match i with
  | .xnop g => firstBad true [(g.en == 1 || g.st == 0, .guard)]
  | .xpose g c a => firstBad true [(g.en == 1 || g.st == 0, .guard), (rowOp c && rowOp a, .reserved)]
  | .chain g ka kb n => firstBad true [(g.en == 1 || g.st == 0, .guard)]
  | .chord g ka hd cnt => firstBad true [(g.en == 1 || g.st == 0, .guard)]
  | .chstep g cnt b bae => firstBad true [(g.en == 1 || g.st == 0, .guard)]
  | .chend g kd => firstBad true [(g.en == 1 || g.st == 0, .guard)]

/-- The first check of the sealer that an operation fails, if any. Events have no word. -/
def check (i : Instr) : Option SealCode :=
  match i with
  | .nop f => firstBad (guardOk f) [(f.e &&& ~~~(0 : BitVec 3) == 0, .reserved)]
  | .trap f imm => firstBad (guardOk f) [(f.e &&& ~~~(0 : BitVec 3) == 0, .reserved)]
  | .bkpt f imm => firstBad (guardOk f) [(f.e &&& ~~~(0 : BitVec 3) == 0, .reserved)]
  | .eret f => firstBad (guardOk f) [(f.e &&& ~~~(0 : BitVec 3) == 0, .reserved)]
  | .rdsr f d num => firstBad (guardOk f) [(f.e &&& ~~~(0 : BitVec 3) == 0, .reserved), (sregReadable num, .special), (!(sreg64 num) || even d, .register)]
  | .wrsr f sa num => firstBad (guardOk f) [(f.e &&& ~~~(0b1 : BitVec 3) == 0, .reserved), (even sa, .register), (num == 0x21, .special)]
  | .rdcyc f d => firstBad (guardOk f) [(f.e &&& ~~~(0 : BitVec 3) == 0, .reserved), (even d, .register)]
  | .fend f => firstBad (guardOk f) [(f.e &&& ~~~(0 : BitVec 3) == 0, .reserved)]
  | .sleep f sa => firstBad (guardOk f) [(f.e &&& ~~~(0b1 : BitVec 3) == 0, .reserved), (even sa, .register)]
  | .add f d sa sb sat => firstBad (guardOk f) [(f.e &&& ~~~(0b11 : BitVec 3) == 0, .reserved)]
  | .sub f d sa sb sat => firstBad (guardOk f) [(f.e &&& ~~~(0b11 : BitVec 3) == 0, .reserved)]
  | .mul f d sa sb => firstBad (guardOk f) [(f.e &&& ~~~(0b11 : BitVec 3) == 0, .reserved)]
  | .mulhi f d sa sb => firstBad (guardOk f) [(f.e &&& ~~~(0b11 : BitVec 3) == 0, .reserved)]
  | .mulhiu f d sa sb => firstBad (guardOk f) [(f.e &&& ~~~(0b11 : BitVec 3) == 0, .reserved)]
  | .mad f d sa sb sc sat => firstBad (guardOk f) []
  | .div f d sa sb => firstBad (guardOk f) [(f.e &&& ~~~(0b11 : BitVec 3) == 0, .reserved)]
  | .divu f d sa sb => firstBad (guardOk f) [(f.e &&& ~~~(0b11 : BitVec 3) == 0, .reserved)]
  | .rem f d sa sb => firstBad (guardOk f) [(f.e &&& ~~~(0b11 : BitVec 3) == 0, .reserved)]
  | .remu f d sa sb => firstBad (guardOk f) [(f.e &&& ~~~(0b11 : BitVec 3) == 0, .reserved)]
  | .min f d sa sb => firstBad (guardOk f) [(f.e &&& ~~~(0b11 : BitVec 3) == 0, .reserved)]
  | .max f d sa sb => firstBad (guardOk f) [(f.e &&& ~~~(0b11 : BitVec 3) == 0, .reserved)]
  | .minu f d sa sb => firstBad (guardOk f) [(f.e &&& ~~~(0b11 : BitVec 3) == 0, .reserved)]
  | .maxu f d sa sb => firstBad (guardOk f) [(f.e &&& ~~~(0b11 : BitVec 3) == 0, .reserved)]
  | .abs f d sa sat => firstBad (guardOk f) [(f.e &&& ~~~(0b1 : BitVec 3) == 0, .reserved)]
  | .neg f d sa sat => firstBad (guardOk f) [(f.e &&& ~~~(0b1 : BitVec 3) == 0, .reserved)]
  | .addi f d sa imm => firstBad (guardOk f) [(f.e &&& ~~~(0b1 : BitVec 3) == 0, .reserved)]
  | .muli f d sa imm => firstBad (guardOk f) [(f.e &&& ~~~(0b1 : BitVec 3) == 0, .reserved)]
  | .mini f d sa imm => firstBad (guardOk f) [(f.e &&& ~~~(0b1 : BitVec 3) == 0, .reserved)]
  | .maxi f d sa imm => firstBad (guardOk f) [(f.e &&& ~~~(0b1 : BitVec 3) == 0, .reserved)]
  | .and f d sa sb => firstBad (guardOk f) [(f.e &&& ~~~(0b11 : BitVec 3) == 0, .reserved)]
  | .or f d sa sb => firstBad (guardOk f) [(f.e &&& ~~~(0b11 : BitVec 3) == 0, .reserved)]
  | .xor f d sa sb => firstBad (guardOk f) [(f.e &&& ~~~(0b11 : BitVec 3) == 0, .reserved)]
  | .andn f d sa sb => firstBad (guardOk f) [(f.e &&& ~~~(0b11 : BitVec 3) == 0, .reserved)]
  | .not f d sa => firstBad (guardOk f) [(f.e &&& ~~~(0b1 : BitVec 3) == 0, .reserved)]
  | .shl f d sa sb => firstBad (guardOk f) [(f.e &&& ~~~(0b11 : BitVec 3) == 0, .reserved)]
  | .shr f d sa sb => firstBad (guardOk f) [(f.e &&& ~~~(0b11 : BitVec 3) == 0, .reserved)]
  | .sar f d sa sb => firstBad (guardOk f) [(f.e &&& ~~~(0b11 : BitVec 3) == 0, .reserved)]
  | .rotl f d sa sb => firstBad (guardOk f) [(f.e &&& ~~~(0b11 : BitVec 3) == 0, .reserved)]
  | .rotr f d sa sb => firstBad (guardOk f) [(f.e &&& ~~~(0b11 : BitVec 3) == 0, .reserved)]
  | .popc f d sa => firstBad (guardOk f) [(f.e &&& ~~~(0b1 : BitVec 3) == 0, .reserved)]
  | .clz f d sa => firstBad (guardOk f) [(f.e &&& ~~~(0b1 : BitVec 3) == 0, .reserved)]
  | .ctz f d sa => firstBad (guardOk f) [(f.e &&& ~~~(0b1 : BitVec 3) == 0, .reserved)]
  | .brev f d sa => firstBad (guardOk f) [(f.e &&& ~~~(0b1 : BitVec 3) == 0, .reserved)]
  | .bfe f d sa sb sgn => firstBad (guardOk f) [(f.e &&& ~~~(0b11 : BitVec 3) == 0, .reserved)]
  | .bfi f d sa sb sc => firstBad (guardOk f) []
  | .bpick f d sa sb sc => firstBad (guardOk f) []
  | .blut3 f d sa sb sc lut => firstBad (guardOk f) []
  | .andi f d sa imm => firstBad (guardOk f) [(f.e &&& ~~~(0b1 : BitVec 3) == 0, .reserved)]
  | .ori f d sa imm => firstBad (guardOk f) [(f.e &&& ~~~(0b1 : BitVec 3) == 0, .reserved)]
  | .xori f d sa imm => firstBad (guardOk f) [(f.e &&& ~~~(0b1 : BitVec 3) == 0, .reserved)]
  | .shli f d sa imm => firstBad (guardOk f) [(f.e &&& ~~~(0b1 : BitVec 3) == 0, .reserved)]
  | .shri f d sa imm => firstBad (guardOk f) [(f.e &&& ~~~(0b1 : BitVec 3) == 0, .reserved)]
  | .sari f d sa imm => firstBad (guardOk f) [(f.e &&& ~~~(0b1 : BitVec 3) == 0, .reserved)]
  | .add64 f d sa sb => firstBad (guardOk f) [(f.e &&& ~~~(0b11 : BitVec 3) == 0, .reserved), (even d, .register), (even sa, .register), (even sb, .register)]
  | .sub64 f d sa sb => firstBad (guardOk f) [(f.e &&& ~~~(0b11 : BitVec 3) == 0, .reserved), (even d, .register), (even sa, .register), (even sb, .register)]
  | .mul64 f d sa sb => firstBad (guardOk f) [(f.e &&& ~~~(0b11 : BitVec 3) == 0, .reserved), (even d, .register), (even sa, .register), (even sb, .register)]
  | .mulw f d sa sb => firstBad (guardOk f) [(f.e &&& ~~~(0b11 : BitVec 3) == 0, .reserved), (even d, .register)]
  | .mulwu f d sa sb => firstBad (guardOk f) [(f.e &&& ~~~(0b11 : BitVec 3) == 0, .reserved), (even d, .register)]
  | .shl64 f d sa sb => firstBad (guardOk f) [(f.e &&& ~~~(0b11 : BitVec 3) == 0, .reserved), (even d, .register), (even sa, .register)]
  | .shr64 f d sa sb => firstBad (guardOk f) [(f.e &&& ~~~(0b11 : BitVec 3) == 0, .reserved), (even d, .register), (even sa, .register)]
  | .sar64 f d sa sb => firstBad (guardOk f) [(f.e &&& ~~~(0b11 : BitVec 3) == 0, .reserved), (even d, .register), (even sa, .register)]
  | .min64 f d sa sb => firstBad (guardOk f) [(f.e &&& ~~~(0b11 : BitVec 3) == 0, .reserved), (even d, .register), (even sa, .register), (even sb, .register)]
  | .max64 f d sa sb => firstBad (guardOk f) [(f.e &&& ~~~(0b11 : BitVec 3) == 0, .reserved), (even d, .register), (even sa, .register), (even sb, .register)]
  | .addi64 f d sa imm => firstBad (guardOk f) [(f.e &&& ~~~(0b1 : BitVec 3) == 0, .reserved), (even d, .register), (even sa, .register)]
  | .lea f d sa sb shift u => firstBad (guardOk f) [(f.e &&& ~~~(0b11 : BitVec 3) == 0, .reserved), (even d, .register), (even sa, .register)]
  | .mov f d sa b64 => firstBad (guardOk f) [(f.e &&& ~~~(0b1 : BitVec 3) == 0, .reserved), (b64 == 0 || (even d && even sa), .register)]
  | .movi f d imm => firstBad (guardOk f) [(f.e &&& ~~~(0 : BitVec 3) == 0, .reserved)]
  | .setp f pd sa sb cc ty => firstBad (guardOk f) [(f.e &&& ~~~(0b11 : BitVec 3) == 0, .reserved), (pd < 16, .register), (ty < 6 && (cc < 6 || ty == 2 || ty == 5), .field), (ty < 3 || (even sa && even sb), .register)]
  | .sel f d sa sb pc b64 => firstBad (guardOk f) [(f.e &&& ~~~(0b011 : BitVec 3) == 0, .reserved), (pc < 16, .register), (b64 == 0 || (even d && even sa && even sb), .register)]
  | .setpi f pd sa cc u imm => firstBad (guardOk f) [(f.e &&& ~~~(0b001 : BitVec 3) == 0, .reserved), (pd < 16, .register), (cc < 6, .field)]
  | .plut3 f pd pa pb pc lut => firstBad (guardOk f) [(f.e &&& ~~~(0 : BitVec 3) == 0, .reserved), (pd < 16, .register), (pa < 16, .register), (pb < 16, .register), (pc < 16, .register)]
  | .p2g f d => firstBad (guardOk f) [(f.e &&& ~~~(0 : BitVec 3) == 0, .reserved)]
  | .g2p f sa sb => firstBad (guardOk f) [(f.e &&& ~~~(0b11 : BitVec 3) == 0, .reserved)]
  | .fadd f d sa sb rm => firstBad (guardOk f) [(f.e &&& ~~~(0b11 : BitVec 3) == 0, .reserved)]
  | .fsub f d sa sb rm => firstBad (guardOk f) [(f.e &&& ~~~(0b11 : BitVec 3) == 0, .reserved)]
  | .fmul f d sa sb rm => firstBad (guardOk f) [(f.e &&& ~~~(0b11 : BitVec 3) == 0, .reserved)]
  | .ffma f d sa sb sc rm => firstBad (guardOk f) []
  | .fmin f d sa sb => firstBad (guardOk f) [(f.e &&& ~~~(0b11 : BitVec 3) == 0, .reserved)]
  | .fmax f d sa sb => firstBad (guardOk f) [(f.e &&& ~~~(0b11 : BitVec 3) == 0, .reserved)]
  | .fabs f d sa => firstBad (guardOk f) [(f.e &&& ~~~(0b1 : BitVec 3) == 0, .reserved)]
  | .fneg f d sa => firstBad (guardOk f) [(f.e &&& ~~~(0b1 : BitVec 3) == 0, .reserved)]
  | .fdiv f d sa sb rm => firstBad (guardOk f) [(f.e &&& ~~~(0b11 : BitVec 3) == 0, .reserved)]
  | .hadd2 f d sa sb bf rm => firstBad (guardOk f) [(f.e &&& ~~~(0b11 : BitVec 3) == 0, .reserved)]
  | .hsub2 f d sa sb bf rm => firstBad (guardOk f) [(f.e &&& ~~~(0b11 : BitVec 3) == 0, .reserved)]
  | .hmul2 f d sa sb bf rm => firstBad (guardOk f) [(f.e &&& ~~~(0b11 : BitVec 3) == 0, .reserved)]
  | .hfma2 f d sa sb sc bf rm => firstBad (guardOk f) []
  | .hmin2 f d sa sb bf => firstBad (guardOk f) [(f.e &&& ~~~(0b11 : BitVec 3) == 0, .reserved)]
  | .hmax2 f d sa sb bf => firstBad (guardOk f) [(f.e &&& ~~~(0b11 : BitVec 3) == 0, .reserved)]
  | .dadd f d sa sb rm => firstBad (guardOk f) [(f.e &&& ~~~(0b11 : BitVec 3) == 0, .reserved), (even d, .register), (even sa, .register), (even sb, .register)]
  | .dsub f d sa sb rm => firstBad (guardOk f) [(f.e &&& ~~~(0b11 : BitVec 3) == 0, .reserved), (even d, .register), (even sa, .register), (even sb, .register)]
  | .dmul f d sa sb rm => firstBad (guardOk f) [(f.e &&& ~~~(0b11 : BitVec 3) == 0, .reserved), (even d, .register), (even sa, .register), (even sb, .register)]
  | .dfma f d sa sb sc rm => firstBad (guardOk f) [(even d, .register), (even sa, .register), (even sb, .register), (even sc, .register)]
  | .dmin f d sa sb => firstBad (guardOk f) [(f.e &&& ~~~(0b11 : BitVec 3) == 0, .reserved), (even d, .register), (even sa, .register), (even sb, .register)]
  | .dmax f d sa sb => firstBad (guardOk f) [(f.e &&& ~~~(0b11 : BitVec 3) == 0, .reserved), (even d, .register), (even sa, .register), (even sb, .register)]
  | .ddiv f d sa sb rm => firstBad (guardOk f) [(f.e &&& ~~~(0b11 : BitVec 3) == 0, .reserved), (even d, .register), (even sa, .register), (even sb, .register)]
  | .dsqrt f d sa rm => firstBad (guardOk f) [(f.e &&& ~~~(0b1 : BitVec 3) == 0, .reserved), (even d, .register), (even sa, .register)]
  | .rcp f d sa => firstBad (guardOk f) [(f.e &&& ~~~(0b1 : BitVec 3) == 0, .reserved)]
  | .rsq f d sa => firstBad (guardOk f) [(f.e &&& ~~~(0b1 : BitVec 3) == 0, .reserved)]
  | .sqrt f d sa => firstBad (guardOk f) [(f.e &&& ~~~(0b1 : BitVec 3) == 0, .reserved)]
  | .exp2 f d sa => firstBad (guardOk f) [(f.e &&& ~~~(0b1 : BitVec 3) == 0, .reserved)]
  | .log2 f d sa => firstBad (guardOk f) [(f.e &&& ~~~(0b1 : BitVec 3) == 0, .reserved)]
  | .sin f d sa => firstBad (guardOk f) [(f.e &&& ~~~(0b1 : BitVec 3) == 0, .reserved)]
  | .cos f d sa => firstBad (guardOk f) [(f.e &&& ~~~(0b1 : BitVec 3) == 0, .reserved)]
  | .tanh f d sa => firstBad (guardOk f) [(f.e &&& ~~~(0b1 : BitVec 3) == 0, .reserved)]
  | .cvt f d sa df sf sat rm => firstBad (guardOk f) [(f.e &&& ~~~(0b001 : BitVec 3) == 0, .reserved), (cvtFmt df && cvtFmt sf, .format), (df != sf, .field), (!(fmt64 df) || even d, .register), (!(fmt64 sf) || even sa, .register)]
  | .cvts f d sa sb e8 df sf sat rm => firstBad (guardOk f) [(f.e &&& ~~~(0b011 : BitVec 3) == 0, .reserved), (cvtFmt df && cvtFmt sf && !(fmt64 df) && !(fmt64 sf), .format)]
  | .cvtpk f d sa sb sc df sat rm => firstBad (guardOk f) [(packFmt df, .format), (fmt8 df || sc == 0, .field), (fmt8 df || !(f.e.getLsbD 2), .reserved)]
  | .cvtupk f d sa sf idx => firstBad (guardOk f) [(f.e &&& ~~~(0b1 : BitVec 3) == 0, .reserved), (packFmt sf, .format), (fmt8 sf || idx < 2, .field)]
  | .bra f off => firstBad (guardOk f) [(f.e &&& ~~~(0 : BitVec 3) == 0, .reserved)]
  | .brx f sa => firstBad (guardOk f) [(f.e &&& ~~~(0b1 : BitVec 3) == 0, .reserved), (even sa, .register)]
  | .call f d off => firstBad (guardOk f) [(f.e &&& ~~~(0 : BitVec 3) == 0, .reserved), (even d, .register)]
  | .callx f d sa => firstBad (guardOk f) [(f.e &&& ~~~(0b1 : BitVec 3) == 0, .reserved), (even d, .register), (even sa, .register)]
  | .ret f sa => firstBad (guardOk f) [(f.e &&& ~~~(0b1 : BitVec 3) == 0, .reserved), (even sa, .register)]
  | .enrol f j => firstBad (guardOk f) [(f.e &&& ~~~(0 : BitVec 3) == 0, .reserved), (j < 16, .register)]
  | .strike f j => firstBad (guardOk f) [(f.e &&& ~~~(0 : BitVec 3) == 0, .reserved), (j < 16, .register)]
  | .park f j => firstBad (guardOk f) [(f.e &&& ~~~(0 : BitVec 3) == 0, .reserved), (j < 16, .register)]
  | .xread f d sa sb j b64 => firstBad (guardOk f) [(f.e &&& ~~~(0b011 : BitVec 3) == 0, .reserved), (j < 16, .register), (b64 == 0 || (even d && even sa), .register)]
  | .xvote f d pa j op => firstBad (guardOk f) [(f.e &&& ~~~(0 : BitVec 3) == 0, .reserved), (pa < 16, .register), (j < 16, .register)]
  | .xred f d sa j op ty => firstBad (guardOk f) [(f.e &&& ~~~(0b001 : BitVec 3) == 0, .reserved), (j < 16, .register), ((op == 0 && ty < 4) || ((op == 1 || op == 2) && ty < 2), .field), (!(xred64 op ty) || (even d && even sa), .register)]
  | .matchw f d sa j b64 => firstBad (guardOk f) [(f.e &&& ~~~(0b001 : BitVec 3) == 0, .reserved), (even d, .register), (j < 16, .register), (b64 == 0 || even sa, .register)]
  | .matchf f d sa j => firstBad (guardOk f) [(f.e &&& ~~~(0b001 : BitVec 3) == 0, .reserved), (even d, .register), (j < 16, .register)]
  | .elect f pd j => firstBad (guardOk f) [(f.e &&& ~~~(0 : BitVec 3) == 0, .reserved), (pd < 16, .register), (j < 16, .register)]
  | .spawn f sa sb sc count => firstBad (guardOk f) [(f.e &&& ~~~((if count = 0 then 0b101 else 0b111) : BitVec 3) == 0, .reserved), (even sa, .register), (even sc, .register), (count != 7 && (count != 0 || sb == 0), .field)]
  | .waitj f sa => firstBad (guardOk f) [(f.e &&& ~~~(0b1 : BitVec 3) == 0, .reserved), (even sa, .register), (sa != 0, .field)]
  | .launch f d sa queue => firstBad (guardOk f) [(f.e &&& ~~~(0b1 : BitVec 3) == 0, .reserved), (even sa, .register)]
  | .ldGI8 f d sa kind scope off => firstBad (guardOk f) [(f.e &&& ~~~(0b1 : BitVec 3) == 0, .reserved), (even sa, .register), (loadKind kind scope, .order)]
  | .ldGUi8 f d sa kind scope off => firstBad (guardOk f) [(f.e &&& ~~~(0b1 : BitVec 3) == 0, .reserved), (even sa, .register), (loadKind kind scope, .order)]
  | .ldGI16 f d sa kind scope off => firstBad (guardOk f) [(f.e &&& ~~~(0b1 : BitVec 3) == 0, .reserved), (even sa, .register), (loadKind kind scope, .order)]
  | .ldGUi16 f d sa kind scope off => firstBad (guardOk f) [(f.e &&& ~~~(0b1 : BitVec 3) == 0, .reserved), (even sa, .register), (loadKind kind scope, .order)]
  | .ldGB32 f d sa kind scope off => firstBad (guardOk f) [(f.e &&& ~~~(0b1 : BitVec 3) == 0, .reserved), (even sa, .register), (loadKind kind scope, .order)]
  | .ldGB64 f d sa kind scope off => firstBad (guardOk f) [(f.e &&& ~~~(0b1 : BitVec 3) == 0, .reserved), (even d, .register), (even sa, .register), (loadKind kind scope, .order)]
  | .ldGB128 f d sa kind scope off => firstBad (guardOk f) [(f.e &&& ~~~(0b1 : BitVec 3) == 0, .reserved), (quad d, .register), (even sa, .register), (loadKind kind scope, .order)]
  | .stGB8 f d sa kind scope off => firstBad (guardOk f) [(f.e &&& ~~~(0b011 : BitVec 3) == 0, .reserved), (even sa, .register), (storeKind kind scope, .order)]
  | .stGB16 f d sa kind scope off => firstBad (guardOk f) [(f.e &&& ~~~(0b011 : BitVec 3) == 0, .reserved), (even sa, .register), (storeKind kind scope, .order)]
  | .stGB32 f d sa kind scope off => firstBad (guardOk f) [(f.e &&& ~~~(0b011 : BitVec 3) == 0, .reserved), (even sa, .register), (storeKind kind scope, .order)]
  | .stGB64 f d sa kind scope off => firstBad (guardOk f) [(f.e &&& ~~~(0b011 : BitVec 3) == 0, .reserved), (even d, .register), (even sa, .register), (storeKind kind scope, .order)]
  | .stGB128 f d sa kind scope off => firstBad (guardOk f) [(f.e &&& ~~~(0b011 : BitVec 3) == 0, .reserved), (quad d, .register), (even sa, .register), (storeKind kind scope, .order)]
  | .ldSI8 f d sa hd kind scope off => firstBad (guardOk f) [(f.e &&& ~~~(0b1 : BitVec 3) == 0, .reserved), (loadKind kind scope, .order)]
  | .ldSUi8 f d sa hd kind scope off => firstBad (guardOk f) [(f.e &&& ~~~(0b1 : BitVec 3) == 0, .reserved), (loadKind kind scope, .order)]
  | .ldSI16 f d sa hd kind scope off => firstBad (guardOk f) [(f.e &&& ~~~(0b1 : BitVec 3) == 0, .reserved), (loadKind kind scope, .order)]
  | .ldSUi16 f d sa hd kind scope off => firstBad (guardOk f) [(f.e &&& ~~~(0b1 : BitVec 3) == 0, .reserved), (loadKind kind scope, .order)]
  | .ldSB32 f d sa hd kind scope off => firstBad (guardOk f) [(f.e &&& ~~~(0b1 : BitVec 3) == 0, .reserved), (loadKind kind scope, .order)]
  | .ldSB64 f d sa hd kind scope off => firstBad (guardOk f) [(f.e &&& ~~~(0b1 : BitVec 3) == 0, .reserved), (even d, .register), (loadKind kind scope, .order)]
  | .ldSB128 f d sa hd kind scope off => firstBad (guardOk f) [(f.e &&& ~~~(0b1 : BitVec 3) == 0, .reserved), (quad d, .register), (loadKind kind scope, .order)]
  | .stSB8 f d sa hd kind scope off => firstBad (guardOk f) [(f.e &&& ~~~(0b011 : BitVec 3) == 0, .reserved), (storeKind kind scope, .order)]
  | .stSB16 f d sa hd kind scope off => firstBad (guardOk f) [(f.e &&& ~~~(0b011 : BitVec 3) == 0, .reserved), (storeKind kind scope, .order)]
  | .stSB32 f d sa hd kind scope off => firstBad (guardOk f) [(f.e &&& ~~~(0b011 : BitVec 3) == 0, .reserved), (storeKind kind scope, .order)]
  | .stSB64 f d sa hd kind scope off => firstBad (guardOk f) [(f.e &&& ~~~(0b011 : BitVec 3) == 0, .reserved), (even d, .register), (storeKind kind scope, .order)]
  | .stSB128 f d sa hd kind scope off => firstBad (guardOk f) [(f.e &&& ~~~(0b011 : BitVec 3) == 0, .reserved), (quad d, .register), (storeKind kind scope, .order)]
  | .atomAddI32 f d sa sb kind scope => firstBad (guardOk f) [(f.e &&& ~~~(0b11 : BitVec 3) == 0, .reserved), (even sa, .register), (kind != 0 && kind < 5 && scope < 5, .order)]
  | .atomsAddI32 f d sa sb hd kind scope => firstBad (guardOk f) [(f.e &&& ~~~(0b11 : BitVec 3) == 0, .reserved)]
  | .atomAddI64 f d sa sb kind scope => firstBad (guardOk f) [(f.e &&& ~~~(0b11 : BitVec 3) == 0, .reserved), (even d, .register), (even sa, .register), (even sb, .register), (kind != 0 && kind < 5 && scope < 5, .order)]
  | .atomsAddI64 f d sa sb hd kind scope => firstBad (guardOk f) [(f.e &&& ~~~(0b11 : BitVec 3) == 0, .reserved), (even d, .register), (even sb, .register)]
  | .atomAndB32 f d sa sb kind scope => firstBad (guardOk f) [(f.e &&& ~~~(0b11 : BitVec 3) == 0, .reserved), (even sa, .register), (kind != 0 && kind < 5 && scope < 5, .order)]
  | .atomsAndB32 f d sa sb hd kind scope => firstBad (guardOk f) [(f.e &&& ~~~(0b11 : BitVec 3) == 0, .reserved)]
  | .atomOrB32 f d sa sb kind scope => firstBad (guardOk f) [(f.e &&& ~~~(0b11 : BitVec 3) == 0, .reserved), (even sa, .register), (kind != 0 && kind < 5 && scope < 5, .order)]
  | .atomsOrB32 f d sa sb hd kind scope => firstBad (guardOk f) [(f.e &&& ~~~(0b11 : BitVec 3) == 0, .reserved)]
  | .atomXorB32 f d sa sb kind scope => firstBad (guardOk f) [(f.e &&& ~~~(0b11 : BitVec 3) == 0, .reserved), (even sa, .register), (kind != 0 && kind < 5 && scope < 5, .order)]
  | .atomsXorB32 f d sa sb hd kind scope => firstBad (guardOk f) [(f.e &&& ~~~(0b11 : BitVec 3) == 0, .reserved)]
  | .atomMinI32 f d sa sb kind scope => firstBad (guardOk f) [(f.e &&& ~~~(0b11 : BitVec 3) == 0, .reserved), (even sa, .register), (kind != 0 && kind < 5 && scope < 5, .order)]
  | .atomsMinI32 f d sa sb hd kind scope => firstBad (guardOk f) [(f.e &&& ~~~(0b11 : BitVec 3) == 0, .reserved)]
  | .atomMaxI32 f d sa sb kind scope => firstBad (guardOk f) [(f.e &&& ~~~(0b11 : BitVec 3) == 0, .reserved), (even sa, .register), (kind != 0 && kind < 5 && scope < 5, .order)]
  | .atomsMaxI32 f d sa sb hd kind scope => firstBad (guardOk f) [(f.e &&& ~~~(0b11 : BitVec 3) == 0, .reserved)]
  | .atomMinUi32 f d sa sb kind scope => firstBad (guardOk f) [(f.e &&& ~~~(0b11 : BitVec 3) == 0, .reserved), (even sa, .register), (kind != 0 && kind < 5 && scope < 5, .order)]
  | .atomsMinUi32 f d sa sb hd kind scope => firstBad (guardOk f) [(f.e &&& ~~~(0b11 : BitVec 3) == 0, .reserved)]
  | .atomMaxUi32 f d sa sb kind scope => firstBad (guardOk f) [(f.e &&& ~~~(0b11 : BitVec 3) == 0, .reserved), (even sa, .register), (kind != 0 && kind < 5 && scope < 5, .order)]
  | .atomsMaxUi32 f d sa sb hd kind scope => firstBad (guardOk f) [(f.e &&& ~~~(0b11 : BitVec 3) == 0, .reserved)]
  | .atomExchB32 f d sa sb kind scope => firstBad (guardOk f) [(f.e &&& ~~~(0b11 : BitVec 3) == 0, .reserved), (even sa, .register), (kind != 0 && kind < 5 && scope < 5, .order)]
  | .atomsExchB32 f d sa sb hd kind scope => firstBad (guardOk f) [(f.e &&& ~~~(0b11 : BitVec 3) == 0, .reserved)]
  | .atomExchB64 f d sa sb kind scope => firstBad (guardOk f) [(f.e &&& ~~~(0b11 : BitVec 3) == 0, .reserved), (even d, .register), (even sa, .register), (even sb, .register), (kind != 0 && kind < 5 && scope < 5, .order)]
  | .atomsExchB64 f d sa sb hd kind scope => firstBad (guardOk f) [(f.e &&& ~~~(0b11 : BitVec 3) == 0, .reserved), (even d, .register), (even sb, .register)]
  | .atomCasB32 f d sa sb sc kind scope => firstBad (guardOk f) [(even sa, .register), (kind != 0 && kind < 5 && scope < 5, .order)]
  | .atomsCasB32 f d sa sb sc hd kind scope => firstBad (guardOk f) []
  | .atomCasB64 f d sa sb sc kind scope => firstBad (guardOk f) [(even d, .register), (even sa, .register), (even sb, .register), (even sc, .register), (kind != 0 && kind < 5 && scope < 5, .order)]
  | .atomsCasB64 f d sa sb sc hd kind scope => firstBad (guardOk f) [(even d, .register), (even sb, .register), (even sc, .register)]
  | .atomAddF32 f d sa sb kind scope => firstBad (guardOk f) [(f.e &&& ~~~(0b11 : BitVec 3) == 0, .reserved), (even sa, .register), (kind != 0 && kind < 5 && scope < 5, .order)]
  | .atomsAddF32 f d sa sb hd kind scope => firstBad (guardOk f) [(f.e &&& ~~~(0b11 : BitVec 3) == 0, .reserved)]
  | .atomMinF32 f d sa sb kind scope => firstBad (guardOk f) [(f.e &&& ~~~(0b11 : BitVec 3) == 0, .reserved), (even sa, .register), (kind != 0 && kind < 5 && scope < 5, .order)]
  | .atomsMinF32 f d sa sb hd kind scope => firstBad (guardOk f) [(f.e &&& ~~~(0b11 : BitVec 3) == 0, .reserved)]
  | .atomMaxF32 f d sa sb kind scope => firstBad (guardOk f) [(f.e &&& ~~~(0b11 : BitVec 3) == 0, .reserved), (even sa, .register), (kind != 0 && kind < 5 && scope < 5, .order)]
  | .atomsMaxF32 f d sa sb hd kind scope => firstBad (guardOk f) [(f.e &&& ~~~(0b11 : BitVec 3) == 0, .reserved)]
  | .fence f order scope => firstBad (guardOk f) [(f.e &&& ~~~(0 : BitVec 3) == 0, .reserved), (scope < 5, .order), (order != 0, .field)]
  | .pref f sa => firstBad (guardOk f) [(f.e &&& ~~~(0b1 : BitVec 3) == 0, .reserved), (even sa, .register)]
  | .ldrop f sa => firstBad (guardOk f) [(f.e &&& ~~~(0b1 : BitVec 3) == 0, .reserved), (even sa, .register)]
  | .qpop f d q pe => firstBad (guardOk f) [(f.e &&& ~~~(0 : BitVec 3) == 0, .reserved), (q < 8, .register), (pe < 16, .register), (d &&& 7 == 0, .field)]
  | .lmsg f d sa sb len sel => firstBad (guardOk f) [(f.e &&& ~~~(0b011 : BitVec 3) == 0, .reserved), (even sa, .register)]
  | .hgive f hd sb tag => firstBad (guardOk f) [(f.e &&& ~~~(0b010 : BitVec 3) == 0, .reserved), (hd < 16, .register)]
  | .htake f hd tag => firstBad (guardOk f) [(f.e &&& ~~~(0 : BitVec 3) == 0, .reserved), (hd < 16, .register)]
  | .barv f d b => firstBad (guardOk f) [(f.e &&& ~~~(0 : BitVec 3) == 0, .reserved), (b < 16, .register)]
  | .bwait f b sa => firstBad (guardOk f) [(f.e &&& ~~~(0b001 : BitVec 3) == 0, .reserved), (b < 16, .register)]
  | .bsync f b => firstBad (guardOk f) [(f.e &&& ~~~(0 : BitVec 3) == 0, .reserved), (b < 16, .register)]
  | .bsign f d b => firstBad (guardOk f) [(f.e &&& ~~~(0 : BitVec 3) == 0, .reserved), (b < 16, .register)]
  | .bexp f b sa => firstBad (guardOk f) [(f.e &&& ~~~(0b001 : BitVec 3) == 0, .reserved), (b < 16, .register)]
  | .batt f b sa j => firstBad (guardOk f) [(f.e &&& ~~~(0b001 : BitVec 3) == 0, .reserved), (b < 16, .register), (even sa, .register)]
  | .gate f idx => firstBad (guardOk f) [(f.e &&& ~~~(0 : BitVec 3) == 0, .reserved), (f.gp == 0 && f.gs == 0, .guard), (idx < 4096, .gate)]
  | .xcopy f d sa bar pm pt arr => firstBad (guardOk f) [(f.e &&& ~~~(0b001 : BitVec 3) == 0, .reserved), (even d, .register), (even sa, .register), (bar < 16, .register), (arr == 1 || bar == 0, .reserved)]
  | .publish f sa sb => firstBad (guardOk f) [(f.e &&& ~~~(0b11 : BitVec 3) == 0, .reserved), (even sa, .register)]
  | .fmnx f d sa sb => firstBad (guardOk f) [(f.e &&& ~~~(0b11 : BitVec 3) == 0, .reserved)]
  | .cvtf8 f d sa => firstBad (guardOk f) [(f.e &&& ~~~(0b1 : BitVec 3) == 0, .reserved)]
  | .rdcycl f d => firstBad (guardOk f) [(f.e &&& ~~~(0 : BitVec 3) == 0, .reserved)]
  | .pnop => firstBad true []
  | .pli md imm => firstBad true []
  | .padd md ma mb => firstBad true []
  | .psub md ma mb => firstBad true []
  | .pand md ma mb => firstBad true []
  | .por md ma mb => firstBad true []
  | .pshl md ma mb => firstBad true []
  | .pshr md ma mb => firstBad true []
  | .paddi md ma imm => firstBad true []
  | .pjmp off => firstBad true []
  | .pbnz ma off => firstBad true []
  | .pbeq ma mb off => firstBad true []
  | .pchunk md => firstBad true []
  | .pbits md n => firstBad true [(n <= 32, .field)]
  | .ptab n => firstBad true []
  | .psym md n => firstBad true []
  | .plit ma n => firstBad true [(n == 0 || ma == 0, .field)]
  | .pbref ma mb => firstBad true []
  | .palign => firstBad true []
  | .pplane k corr => firstBad true [(2 <= k && k <= 8, .field)]
  | .pcvt ma sf df rm sat => firstBad true [(elemFmt sf && elemFmt df, .format), (sf != df || (rm == 0 && sat == 0), .field)]
  | .pscale ma mb sf df rm sat e8 => firstBad true [(elemFmt sf && elemFmt df, .format)]
  | .ppush q => firstBad true []
  | .peos mask => firstBad true []
  | .pmode sc v => firstBad true [(sc == 1 || v < 32, .stream)]
  | .pscout md => firstBad true []
  | .pend => firstBad true []
  | _ => match i.toS, i.toV, i.toM, i.toC, i.toX with
    | some o, _, _, _, _ => checkS o
    | _, some o, _, _, _ => checkV o
    | _, _, some o, _, _ => checkM o
    | _, _, _, some o, _ => checkC o
    | _, _, _, _, some o => checkX o
    | _, _, _, _, _ => none

/-- The registers that the fields of a fibre instruction name: first register and count (R139). -/
def spans (i : Instr) : List (Nat × Nat) :=
  match i with
  | .rdsr _ d num => [(d.toNat, 1)]
  | .wrsr _ sa num => [(sa.toNat, 2)]
  | .rdcyc _ d => [(d.toNat, 2)]
  | .sleep _ sa => [(sa.toNat, 2)]
  | .add _ d sa sb sat => [(d.toNat, 1), (sa.toNat, 1), (sb.toNat, 1)]
  | .sub _ d sa sb sat => [(d.toNat, 1), (sa.toNat, 1), (sb.toNat, 1)]
  | .mul _ d sa sb => [(d.toNat, 1), (sa.toNat, 1), (sb.toNat, 1)]
  | .mulhi _ d sa sb => [(d.toNat, 1), (sa.toNat, 1), (sb.toNat, 1)]
  | .mulhiu _ d sa sb => [(d.toNat, 1), (sa.toNat, 1), (sb.toNat, 1)]
  | .mad _ d sa sb sc sat => [(d.toNat, 1), (sa.toNat, 1), (sb.toNat, 1), (sc.toNat, 1)]
  | .div _ d sa sb => [(d.toNat, 1), (sa.toNat, 1), (sb.toNat, 1)]
  | .divu _ d sa sb => [(d.toNat, 1), (sa.toNat, 1), (sb.toNat, 1)]
  | .rem _ d sa sb => [(d.toNat, 1), (sa.toNat, 1), (sb.toNat, 1)]
  | .remu _ d sa sb => [(d.toNat, 1), (sa.toNat, 1), (sb.toNat, 1)]
  | .min _ d sa sb => [(d.toNat, 1), (sa.toNat, 1), (sb.toNat, 1)]
  | .max _ d sa sb => [(d.toNat, 1), (sa.toNat, 1), (sb.toNat, 1)]
  | .minu _ d sa sb => [(d.toNat, 1), (sa.toNat, 1), (sb.toNat, 1)]
  | .maxu _ d sa sb => [(d.toNat, 1), (sa.toNat, 1), (sb.toNat, 1)]
  | .abs _ d sa sat => [(d.toNat, 1), (sa.toNat, 1)]
  | .neg _ d sa sat => [(d.toNat, 1), (sa.toNat, 1)]
  | .addi _ d sa imm => [(d.toNat, 1), (sa.toNat, 1)]
  | .muli _ d sa imm => [(d.toNat, 1), (sa.toNat, 1)]
  | .mini _ d sa imm => [(d.toNat, 1), (sa.toNat, 1)]
  | .maxi _ d sa imm => [(d.toNat, 1), (sa.toNat, 1)]
  | .and _ d sa sb => [(d.toNat, 1), (sa.toNat, 1), (sb.toNat, 1)]
  | .or _ d sa sb => [(d.toNat, 1), (sa.toNat, 1), (sb.toNat, 1)]
  | .xor _ d sa sb => [(d.toNat, 1), (sa.toNat, 1), (sb.toNat, 1)]
  | .andn _ d sa sb => [(d.toNat, 1), (sa.toNat, 1), (sb.toNat, 1)]
  | .not _ d sa => [(d.toNat, 1), (sa.toNat, 1)]
  | .shl _ d sa sb => [(d.toNat, 1), (sa.toNat, 1), (sb.toNat, 1)]
  | .shr _ d sa sb => [(d.toNat, 1), (sa.toNat, 1), (sb.toNat, 1)]
  | .sar _ d sa sb => [(d.toNat, 1), (sa.toNat, 1), (sb.toNat, 1)]
  | .rotl _ d sa sb => [(d.toNat, 1), (sa.toNat, 1), (sb.toNat, 1)]
  | .rotr _ d sa sb => [(d.toNat, 1), (sa.toNat, 1), (sb.toNat, 1)]
  | .popc _ d sa => [(d.toNat, 1), (sa.toNat, 1)]
  | .clz _ d sa => [(d.toNat, 1), (sa.toNat, 1)]
  | .ctz _ d sa => [(d.toNat, 1), (sa.toNat, 1)]
  | .brev _ d sa => [(d.toNat, 1), (sa.toNat, 1)]
  | .bfe _ d sa sb sgn => [(d.toNat, 1), (sa.toNat, 1), (sb.toNat, 1)]
  | .bfi _ d sa sb sc => [(d.toNat, 1), (sa.toNat, 1), (sb.toNat, 1), (sc.toNat, 1)]
  | .bpick _ d sa sb sc => [(d.toNat, 1), (sa.toNat, 1), (sb.toNat, 1), (sc.toNat, 1)]
  | .blut3 _ d sa sb sc lut => [(d.toNat, 1), (sa.toNat, 1), (sb.toNat, 1), (sc.toNat, 1)]
  | .andi _ d sa imm => [(d.toNat, 1), (sa.toNat, 1)]
  | .ori _ d sa imm => [(d.toNat, 1), (sa.toNat, 1)]
  | .xori _ d sa imm => [(d.toNat, 1), (sa.toNat, 1)]
  | .shli _ d sa imm => [(d.toNat, 1), (sa.toNat, 1)]
  | .shri _ d sa imm => [(d.toNat, 1), (sa.toNat, 1)]
  | .sari _ d sa imm => [(d.toNat, 1), (sa.toNat, 1)]
  | .add64 _ d sa sb => [(d.toNat, 2), (sa.toNat, 2), (sb.toNat, 2)]
  | .sub64 _ d sa sb => [(d.toNat, 2), (sa.toNat, 2), (sb.toNat, 2)]
  | .mul64 _ d sa sb => [(d.toNat, 2), (sa.toNat, 2), (sb.toNat, 2)]
  | .mulw _ d sa sb => [(d.toNat, 2), (sa.toNat, 1), (sb.toNat, 1)]
  | .mulwu _ d sa sb => [(d.toNat, 2), (sa.toNat, 1), (sb.toNat, 1)]
  | .shl64 _ d sa sb => [(d.toNat, 2), (sa.toNat, 2), (sb.toNat, 1)]
  | .shr64 _ d sa sb => [(d.toNat, 2), (sa.toNat, 2), (sb.toNat, 1)]
  | .sar64 _ d sa sb => [(d.toNat, 2), (sa.toNat, 2), (sb.toNat, 1)]
  | .min64 _ d sa sb => [(d.toNat, 2), (sa.toNat, 2), (sb.toNat, 2)]
  | .max64 _ d sa sb => [(d.toNat, 2), (sa.toNat, 2), (sb.toNat, 2)]
  | .addi64 _ d sa imm => [(d.toNat, 2), (sa.toNat, 2)]
  | .lea _ d sa sb shift u => [(d.toNat, 2), (sa.toNat, 2), (sb.toNat, 1)]
  | .mov _ d sa b64 => [(d.toNat, if b64 == 1 then 2 else 1), (sa.toNat, if b64 == 1 then 2 else 1)]
  | .movi _ d imm => [(d.toNat, 1)]
  | .setp _ pd sa sb cc ty => [(sa.toNat, if 3 <= ty then 2 else 1), (sb.toNat, if 3 <= ty then 2 else 1)]
  | .sel _ d sa sb pc b64 => [(d.toNat, if b64 == 1 then 2 else 1), (sa.toNat, if b64 == 1 then 2 else 1), (sb.toNat, if b64 == 1 then 2 else 1)]
  | .setpi _ pd sa cc u imm => [(sa.toNat, 1)]
  | .p2g _ d => [(d.toNat, 1)]
  | .g2p _ sa sb => [(sa.toNat, 1), (sb.toNat, 1)]
  | .fadd _ d sa sb rm => [(d.toNat, 1), (sa.toNat, 1), (sb.toNat, 1)]
  | .fsub _ d sa sb rm => [(d.toNat, 1), (sa.toNat, 1), (sb.toNat, 1)]
  | .fmul _ d sa sb rm => [(d.toNat, 1), (sa.toNat, 1), (sb.toNat, 1)]
  | .ffma _ d sa sb sc rm => [(d.toNat, 1), (sa.toNat, 1), (sb.toNat, 1), (sc.toNat, 1)]
  | .fmin _ d sa sb => [(d.toNat, 1), (sa.toNat, 1), (sb.toNat, 1)]
  | .fmax _ d sa sb => [(d.toNat, 1), (sa.toNat, 1), (sb.toNat, 1)]
  | .fabs _ d sa => [(d.toNat, 1), (sa.toNat, 1)]
  | .fneg _ d sa => [(d.toNat, 1), (sa.toNat, 1)]
  | .fdiv _ d sa sb rm => [(d.toNat, 1), (sa.toNat, 1), (sb.toNat, 1)]
  | .hadd2 _ d sa sb bf rm => [(d.toNat, 1), (sa.toNat, 1), (sb.toNat, 1)]
  | .hsub2 _ d sa sb bf rm => [(d.toNat, 1), (sa.toNat, 1), (sb.toNat, 1)]
  | .hmul2 _ d sa sb bf rm => [(d.toNat, 1), (sa.toNat, 1), (sb.toNat, 1)]
  | .hfma2 _ d sa sb sc bf rm => [(d.toNat, 1), (sa.toNat, 1), (sb.toNat, 1), (sc.toNat, 1)]
  | .hmin2 _ d sa sb bf => [(d.toNat, 1), (sa.toNat, 1), (sb.toNat, 1)]
  | .hmax2 _ d sa sb bf => [(d.toNat, 1), (sa.toNat, 1), (sb.toNat, 1)]
  | .dadd _ d sa sb rm => [(d.toNat, 2), (sa.toNat, 2), (sb.toNat, 2)]
  | .dsub _ d sa sb rm => [(d.toNat, 2), (sa.toNat, 2), (sb.toNat, 2)]
  | .dmul _ d sa sb rm => [(d.toNat, 2), (sa.toNat, 2), (sb.toNat, 2)]
  | .dfma _ d sa sb sc rm => [(d.toNat, 2), (sa.toNat, 2), (sb.toNat, 2), (sc.toNat, 2)]
  | .dmin _ d sa sb => [(d.toNat, 2), (sa.toNat, 2), (sb.toNat, 2)]
  | .dmax _ d sa sb => [(d.toNat, 2), (sa.toNat, 2), (sb.toNat, 2)]
  | .ddiv _ d sa sb rm => [(d.toNat, 2), (sa.toNat, 2), (sb.toNat, 2)]
  | .dsqrt _ d sa rm => [(d.toNat, 2), (sa.toNat, 2)]
  | .rcp _ d sa => [(d.toNat, 1), (sa.toNat, 1)]
  | .rsq _ d sa => [(d.toNat, 1), (sa.toNat, 1)]
  | .sqrt _ d sa => [(d.toNat, 1), (sa.toNat, 1)]
  | .exp2 _ d sa => [(d.toNat, 1), (sa.toNat, 1)]
  | .log2 _ d sa => [(d.toNat, 1), (sa.toNat, 1)]
  | .sin _ d sa => [(d.toNat, 1), (sa.toNat, 1)]
  | .cos _ d sa => [(d.toNat, 1), (sa.toNat, 1)]
  | .tanh _ d sa => [(d.toNat, 1), (sa.toNat, 1)]
  | .cvt _ d sa df sf sat rm => [(d.toNat, if fmt64 df then 2 else 1), (sa.toNat, if fmt64 sf then 2 else 1)]
  | .cvts _ d sa sb e8 df sf sat rm => [(d.toNat, 1), (sa.toNat, 1), (sb.toNat, 1)]
  | .cvtpk _ d sa sb sc df sat rm => [(d.toNat, 1), (sa.toNat, 1), (sb.toNat, 1), (sc.toNat, 1)]
  | .cvtupk _ d sa sf idx => [(d.toNat, 1), (sa.toNat, 1)]
  | .brx _ sa => [(sa.toNat, 2)]
  | .call _ d off => [(d.toNat, 2)]
  | .callx _ d sa => [(d.toNat, 2), (sa.toNat, 2)]
  | .ret _ sa => [(sa.toNat, 2)]
  | .xread _ d sa sb j b64 => [(d.toNat, if b64 == 1 then 2 else 1), (sa.toNat, if b64 == 1 then 2 else 1), (sb.toNat, 1)]
  | .xvote _ d pa j op => [(d.toNat, 1)]
  | .xred _ d sa j op ty => [(d.toNat, if xred64 op ty then 2 else 1), (sa.toNat, if xred64 op ty then 2 else 1)]
  | .matchw _ d sa j b64 => [(d.toNat, 2), (sa.toNat, if b64 == 1 then 2 else 1)]
  | .matchf _ d sa j => [(d.toNat, 2), (sa.toNat, 1)]
  | .spawn _ sa sb sc count => [(sa.toNat, 2), (sc.toNat, 2), (sb.toNat, count.toNat)]
  | .waitj _ sa => [(sa.toNat, 2)]
  | .launch _ d sa queue => [(d.toNat, 1), (sa.toNat, 2)]
  | .ldGI8 _ d sa kind scope off => [(d.toNat, 1), (sa.toNat, 2)]
  | .ldGUi8 _ d sa kind scope off => [(d.toNat, 1), (sa.toNat, 2)]
  | .ldGI16 _ d sa kind scope off => [(d.toNat, 1), (sa.toNat, 2)]
  | .ldGUi16 _ d sa kind scope off => [(d.toNat, 1), (sa.toNat, 2)]
  | .ldGB32 _ d sa kind scope off => [(d.toNat, 1), (sa.toNat, 2)]
  | .ldGB64 _ d sa kind scope off => [(d.toNat, 2), (sa.toNat, 2)]
  | .ldGB128 _ d sa kind scope off => [(d.toNat, 4), (sa.toNat, 2)]
  | .stGB8 _ d sa kind scope off => [(d.toNat, 1), (sa.toNat, 2)]
  | .stGB16 _ d sa kind scope off => [(d.toNat, 1), (sa.toNat, 2)]
  | .stGB32 _ d sa kind scope off => [(d.toNat, 1), (sa.toNat, 2)]
  | .stGB64 _ d sa kind scope off => [(d.toNat, 2), (sa.toNat, 2)]
  | .stGB128 _ d sa kind scope off => [(d.toNat, 4), (sa.toNat, 2)]
  | .ldSI8 _ d sa hd kind scope off => [(d.toNat, 1), (sa.toNat, 1)]
  | .ldSUi8 _ d sa hd kind scope off => [(d.toNat, 1), (sa.toNat, 1)]
  | .ldSI16 _ d sa hd kind scope off => [(d.toNat, 1), (sa.toNat, 1)]
  | .ldSUi16 _ d sa hd kind scope off => [(d.toNat, 1), (sa.toNat, 1)]
  | .ldSB32 _ d sa hd kind scope off => [(d.toNat, 1), (sa.toNat, 1)]
  | .ldSB64 _ d sa hd kind scope off => [(d.toNat, 2), (sa.toNat, 1)]
  | .ldSB128 _ d sa hd kind scope off => [(d.toNat, 4), (sa.toNat, 1)]
  | .stSB8 _ d sa hd kind scope off => [(d.toNat, 1), (sa.toNat, 1)]
  | .stSB16 _ d sa hd kind scope off => [(d.toNat, 1), (sa.toNat, 1)]
  | .stSB32 _ d sa hd kind scope off => [(d.toNat, 1), (sa.toNat, 1)]
  | .stSB64 _ d sa hd kind scope off => [(d.toNat, 2), (sa.toNat, 1)]
  | .stSB128 _ d sa hd kind scope off => [(d.toNat, 4), (sa.toNat, 1)]
  | .atomAddI32 _ d sa sb kind scope => [(d.toNat, 1), (sa.toNat, 2), (sb.toNat, 1)]
  | .atomsAddI32 _ d sa sb hd kind scope => [(d.toNat, 1), (sa.toNat, 1), (sb.toNat, 1)]
  | .atomAddI64 _ d sa sb kind scope => [(d.toNat, 2), (sa.toNat, 2), (sb.toNat, 2)]
  | .atomsAddI64 _ d sa sb hd kind scope => [(d.toNat, 2), (sa.toNat, 1), (sb.toNat, 2)]
  | .atomAndB32 _ d sa sb kind scope => [(d.toNat, 1), (sa.toNat, 2), (sb.toNat, 1)]
  | .atomsAndB32 _ d sa sb hd kind scope => [(d.toNat, 1), (sa.toNat, 1), (sb.toNat, 1)]
  | .atomOrB32 _ d sa sb kind scope => [(d.toNat, 1), (sa.toNat, 2), (sb.toNat, 1)]
  | .atomsOrB32 _ d sa sb hd kind scope => [(d.toNat, 1), (sa.toNat, 1), (sb.toNat, 1)]
  | .atomXorB32 _ d sa sb kind scope => [(d.toNat, 1), (sa.toNat, 2), (sb.toNat, 1)]
  | .atomsXorB32 _ d sa sb hd kind scope => [(d.toNat, 1), (sa.toNat, 1), (sb.toNat, 1)]
  | .atomMinI32 _ d sa sb kind scope => [(d.toNat, 1), (sa.toNat, 2), (sb.toNat, 1)]
  | .atomsMinI32 _ d sa sb hd kind scope => [(d.toNat, 1), (sa.toNat, 1), (sb.toNat, 1)]
  | .atomMaxI32 _ d sa sb kind scope => [(d.toNat, 1), (sa.toNat, 2), (sb.toNat, 1)]
  | .atomsMaxI32 _ d sa sb hd kind scope => [(d.toNat, 1), (sa.toNat, 1), (sb.toNat, 1)]
  | .atomMinUi32 _ d sa sb kind scope => [(d.toNat, 1), (sa.toNat, 2), (sb.toNat, 1)]
  | .atomsMinUi32 _ d sa sb hd kind scope => [(d.toNat, 1), (sa.toNat, 1), (sb.toNat, 1)]
  | .atomMaxUi32 _ d sa sb kind scope => [(d.toNat, 1), (sa.toNat, 2), (sb.toNat, 1)]
  | .atomsMaxUi32 _ d sa sb hd kind scope => [(d.toNat, 1), (sa.toNat, 1), (sb.toNat, 1)]
  | .atomExchB32 _ d sa sb kind scope => [(d.toNat, 1), (sa.toNat, 2), (sb.toNat, 1)]
  | .atomsExchB32 _ d sa sb hd kind scope => [(d.toNat, 1), (sa.toNat, 1), (sb.toNat, 1)]
  | .atomExchB64 _ d sa sb kind scope => [(d.toNat, 2), (sa.toNat, 2), (sb.toNat, 2)]
  | .atomsExchB64 _ d sa sb hd kind scope => [(d.toNat, 2), (sa.toNat, 1), (sb.toNat, 2)]
  | .atomCasB32 _ d sa sb sc kind scope => [(d.toNat, 1), (sa.toNat, 2), (sb.toNat, 1), (sc.toNat, 1)]
  | .atomsCasB32 _ d sa sb sc hd kind scope => [(d.toNat, 1), (sa.toNat, 1), (sb.toNat, 1), (sc.toNat, 1)]
  | .atomCasB64 _ d sa sb sc kind scope => [(d.toNat, 2), (sa.toNat, 2), (sb.toNat, 2), (sc.toNat, 2)]
  | .atomsCasB64 _ d sa sb sc hd kind scope => [(d.toNat, 2), (sa.toNat, 1), (sb.toNat, 2), (sc.toNat, 2)]
  | .atomAddF32 _ d sa sb kind scope => [(d.toNat, 1), (sa.toNat, 2), (sb.toNat, 1)]
  | .atomsAddF32 _ d sa sb hd kind scope => [(d.toNat, 1), (sa.toNat, 1), (sb.toNat, 1)]
  | .atomMinF32 _ d sa sb kind scope => [(d.toNat, 1), (sa.toNat, 2), (sb.toNat, 1)]
  | .atomsMinF32 _ d sa sb hd kind scope => [(d.toNat, 1), (sa.toNat, 1), (sb.toNat, 1)]
  | .atomMaxF32 _ d sa sb kind scope => [(d.toNat, 1), (sa.toNat, 2), (sb.toNat, 1)]
  | .atomsMaxF32 _ d sa sb hd kind scope => [(d.toNat, 1), (sa.toNat, 1), (sb.toNat, 1)]
  | .pref _ sa => [(sa.toNat, 2)]
  | .ldrop _ sa => [(sa.toNat, 2)]
  | .qpop _ d _ _ => if d = 0 then [] else [(d.toNat, 64)]
  | .lmsg _ d sa sb len sel => [(d.toNat, 1), (sa.toNat, 2), (sb.toNat, len.toNat + 1)]
  | .hgive _ hd sb tag => [(sb.toNat, 1)]
  | .barv _ d b => [(d.toNat, 1)]
  | .bwait _ b sa => [(sa.toNat, 1)]
  | .bsign _ d b => [(d.toNat, 1)]
  | .bexp _ b sa => [(sa.toNat, 1)]
  | .batt _ b sa j => [(sa.toNat, 2)]
  | .xcopy _ d sa bar pm pt arr => [(d.toNat, 2), (sa.toNat, 2)]
  | .publish _ sa sb => [(sa.toNat, 2), (sb.toNat, 1)]
  | .fmnx _ d sa sb => [(d.toNat, 1), (sa.toNat, 1), (sb.toNat, 1)]
  | .cvtf8 _ d sa => [(d.toNat, 1), (sa.toNat, 1)]
  | .rdcycl _ d => [(d.toNat, 1)]
  | _ => []

end WellFormed

/-- An operation that the sealer's checks on single words accept. Events have no word and are accepted. -/
def Instr.wf (i : Instr) : Bool := (WellFormed.check i).isNone

end Sys2Proof
end

