-- ==== Sys2Proof/Decode.lean ====
section
/-!
DEFINITION. Decoding, total on any bits, and the encoder beside it (R136, R137, R140, R142 to R148). A decoder reads the
fields of the operation that the opcode names; where encoding the result again does not give the word back, a reserved
bit was set, and the word is rejected (R149).
-/
namespace Sys2Proof.Decode

/-- The 64 bits of a fibre word from its opcode, header and operands (R136). -/
def packFibre (maj mi : Nat) (f : FHdr) (o : BitVec 40) : BitVec 64 :=
  BitVec.ofNat 6 maj ++ BitVec.ofNat 6 mi ++ f.gp ++ f.gs ++ f.e ++ f.h ++ f.m ++ o

/-- The header fields of a fibre word (R136). -/
def fibreHdr (w : BitVec 64) : FHdr :=
  ⟨w.extractLsb' 48 4, w.extractLsb' 47 1, w.extractLsb' 44 3, w.extractLsb' 42 2, w.extractLsb' 40 2⟩

/-- Candidates of major 0x00 (R140). -/
def fibreMajor00 (mi : Nat) (f : FHdr) (o : BitVec 40) : Option Instr :=
  match mi with
  | 0x00 => some (.nop f)
  | 0x01 => some (.trap f (o.extractLsb' 0 24))
  | 0x02 => some (.bkpt f (o.extractLsb' 0 24))
  | 0x03 => some (.eret f)
  | 0x04 => some (.rdsr f (o.extractLsb' 32 8) (o.extractLsb' 0 16))
  | 0x05 => some (.wrsr f (o.extractLsb' 24 8) (o.extractLsb' 0 16))
  | 0x06 => some (.rdcyc f (o.extractLsb' 32 8))
  | 0x07 => some (.fend f)
  | 0x08 => some (.sleep f (o.extractLsb' 24 8))
  | _ => none

/-- Candidates of major 0x01 (R140). -/
def fibreMajor01 (mi : Nat) (f : FHdr) (o : BitVec 40) : Option Instr :=
  match mi with
  | 0x00 => some (.add f (o.extractLsb' 32 8) (o.extractLsb' 24 8) (o.extractLsb' 16 8) (o.extractLsb' 0 1))
  | 0x01 => some (.sub f (o.extractLsb' 32 8) (o.extractLsb' 24 8) (o.extractLsb' 16 8) (o.extractLsb' 0 1))
  | 0x02 => some (.mul f (o.extractLsb' 32 8) (o.extractLsb' 24 8) (o.extractLsb' 16 8))
  | 0x03 => some (.mulhi f (o.extractLsb' 32 8) (o.extractLsb' 24 8) (o.extractLsb' 16 8))
  | 0x04 => some (.mulhiu f (o.extractLsb' 32 8) (o.extractLsb' 24 8) (o.extractLsb' 16 8))
  | 0x05 => some (.mad f (o.extractLsb' 32 8) (o.extractLsb' 24 8) (o.extractLsb' 16 8) (o.extractLsb' 8 8) (o.extractLsb' 0 1))
  | 0x06 => some (.div f (o.extractLsb' 32 8) (o.extractLsb' 24 8) (o.extractLsb' 16 8))
  | 0x07 => some (.divu f (o.extractLsb' 32 8) (o.extractLsb' 24 8) (o.extractLsb' 16 8))
  | 0x08 => some (.rem f (o.extractLsb' 32 8) (o.extractLsb' 24 8) (o.extractLsb' 16 8))
  | 0x09 => some (.remu f (o.extractLsb' 32 8) (o.extractLsb' 24 8) (o.extractLsb' 16 8))
  | 0x0A => some (.min f (o.extractLsb' 32 8) (o.extractLsb' 24 8) (o.extractLsb' 16 8))
  | 0x0B => some (.max f (o.extractLsb' 32 8) (o.extractLsb' 24 8) (o.extractLsb' 16 8))
  | 0x0C => some (.minu f (o.extractLsb' 32 8) (o.extractLsb' 24 8) (o.extractLsb' 16 8))
  | 0x0D => some (.maxu f (o.extractLsb' 32 8) (o.extractLsb' 24 8) (o.extractLsb' 16 8))
  | 0x0E => some (.abs f (o.extractLsb' 32 8) (o.extractLsb' 24 8) (o.extractLsb' 0 1))
  | 0x0F => some (.neg f (o.extractLsb' 32 8) (o.extractLsb' 24 8) (o.extractLsb' 0 1))
  | _ => none

/-- Candidates of major 0x02 (R140). -/
def fibreMajor02 (mi : Nat) (f : FHdr) (o : BitVec 40) : Option Instr :=
  match mi with
  | 0x00 => some (.addi f (o.extractLsb' 32 8) (o.extractLsb' 24 8) (o.extractLsb' 0 16))
  | 0x01 => some (.muli f (o.extractLsb' 32 8) (o.extractLsb' 24 8) (o.extractLsb' 0 16))
  | 0x02 => some (.mini f (o.extractLsb' 32 8) (o.extractLsb' 24 8) (o.extractLsb' 0 16))
  | 0x03 => some (.maxi f (o.extractLsb' 32 8) (o.extractLsb' 24 8) (o.extractLsb' 0 16))
  | _ => none

/-- Candidates of major 0x03 (R140). -/
def fibreMajor03 (mi : Nat) (f : FHdr) (o : BitVec 40) : Option Instr :=
  match mi with
  | 0x00 => some (.and f (o.extractLsb' 32 8) (o.extractLsb' 24 8) (o.extractLsb' 16 8))
  | 0x01 => some (.or f (o.extractLsb' 32 8) (o.extractLsb' 24 8) (o.extractLsb' 16 8))
  | 0x02 => some (.xor f (o.extractLsb' 32 8) (o.extractLsb' 24 8) (o.extractLsb' 16 8))
  | 0x03 => some (.andn f (o.extractLsb' 32 8) (o.extractLsb' 24 8) (o.extractLsb' 16 8))
  | 0x04 => some (.not f (o.extractLsb' 32 8) (o.extractLsb' 24 8))
  | 0x05 => some (.shl f (o.extractLsb' 32 8) (o.extractLsb' 24 8) (o.extractLsb' 16 8))
  | 0x06 => some (.shr f (o.extractLsb' 32 8) (o.extractLsb' 24 8) (o.extractLsb' 16 8))
  | 0x07 => some (.sar f (o.extractLsb' 32 8) (o.extractLsb' 24 8) (o.extractLsb' 16 8))
  | 0x08 => some (.rotl f (o.extractLsb' 32 8) (o.extractLsb' 24 8) (o.extractLsb' 16 8))
  | 0x09 => some (.rotr f (o.extractLsb' 32 8) (o.extractLsb' 24 8) (o.extractLsb' 16 8))
  | 0x0A => some (.popc f (o.extractLsb' 32 8) (o.extractLsb' 24 8))
  | 0x0B => some (.clz f (o.extractLsb' 32 8) (o.extractLsb' 24 8))
  | 0x0C => some (.ctz f (o.extractLsb' 32 8) (o.extractLsb' 24 8))
  | 0x0D => some (.brev f (o.extractLsb' 32 8) (o.extractLsb' 24 8))
  | 0x0E => some (.bfe f (o.extractLsb' 32 8) (o.extractLsb' 24 8) (o.extractLsb' 16 8) (o.extractLsb' 0 1))
  | 0x0F => some (.bfi f (o.extractLsb' 32 8) (o.extractLsb' 24 8) (o.extractLsb' 16 8) (o.extractLsb' 8 8))
  | 0x10 => some (.bpick f (o.extractLsb' 32 8) (o.extractLsb' 24 8) (o.extractLsb' 16 8) (o.extractLsb' 8 8))
  | 0x11 => some (.blut3 f (o.extractLsb' 32 8) (o.extractLsb' 24 8) (o.extractLsb' 16 8) (o.extractLsb' 8 8) (o.extractLsb' 0 8))
  | 0x20 => some (.andi f (o.extractLsb' 32 8) (o.extractLsb' 24 8) (o.extractLsb' 0 16))
  | 0x21 => some (.ori f (o.extractLsb' 32 8) (o.extractLsb' 24 8) (o.extractLsb' 0 16))
  | 0x22 => some (.xori f (o.extractLsb' 32 8) (o.extractLsb' 24 8) (o.extractLsb' 0 16))
  | 0x23 => some (.shli f (o.extractLsb' 32 8) (o.extractLsb' 24 8) (o.extractLsb' 0 5))
  | 0x24 => some (.shri f (o.extractLsb' 32 8) (o.extractLsb' 24 8) (o.extractLsb' 0 5))
  | 0x25 => some (.sari f (o.extractLsb' 32 8) (o.extractLsb' 24 8) (o.extractLsb' 0 5))
  | _ => none

/-- Candidates of major 0x04 (R140). -/
def fibreMajor04 (mi : Nat) (f : FHdr) (o : BitVec 40) : Option Instr :=
  match mi with
  | 0x00 => some (.add64 f (o.extractLsb' 32 8) (o.extractLsb' 24 8) (o.extractLsb' 16 8))
  | 0x01 => some (.sub64 f (o.extractLsb' 32 8) (o.extractLsb' 24 8) (o.extractLsb' 16 8))
  | 0x02 => some (.mul64 f (o.extractLsb' 32 8) (o.extractLsb' 24 8) (o.extractLsb' 16 8))
  | 0x03 => some (.mulw f (o.extractLsb' 32 8) (o.extractLsb' 24 8) (o.extractLsb' 16 8))
  | 0x04 => some (.mulwu f (o.extractLsb' 32 8) (o.extractLsb' 24 8) (o.extractLsb' 16 8))
  | 0x05 => some (.shl64 f (o.extractLsb' 32 8) (o.extractLsb' 24 8) (o.extractLsb' 16 8))
  | 0x06 => some (.shr64 f (o.extractLsb' 32 8) (o.extractLsb' 24 8) (o.extractLsb' 16 8))
  | 0x07 => some (.sar64 f (o.extractLsb' 32 8) (o.extractLsb' 24 8) (o.extractLsb' 16 8))
  | 0x08 => some (.min64 f (o.extractLsb' 32 8) (o.extractLsb' 24 8) (o.extractLsb' 16 8))
  | 0x09 => some (.max64 f (o.extractLsb' 32 8) (o.extractLsb' 24 8) (o.extractLsb' 16 8))
  | 0x10 => some (.addi64 f (o.extractLsb' 32 8) (o.extractLsb' 24 8) (o.extractLsb' 0 16))
  | 0x11 => some (.lea f (o.extractLsb' 32 8) (o.extractLsb' 24 8) (o.extractLsb' 16 8) (o.extractLsb' 0 3) (o.extractLsb' 3 1))
  | _ => none

/-- Candidates of major 0x05 (R140). -/
def fibreMajor05 (mi : Nat) (f : FHdr) (o : BitVec 40) : Option Instr :=
  match mi with
  | 0x00 => some (.mov f (o.extractLsb' 32 8) (o.extractLsb' 24 8) (o.extractLsb' 0 1))
  | 0x01 => some (.movi f (o.extractLsb' 32 8) (o.extractLsb' 0 32))
  | 0x02 => some (.setp f (o.extractLsb' 32 8) (o.extractLsb' 24 8) (o.extractLsb' 16 8) (o.extractLsb' 0 3) (o.extractLsb' 3 3))
  | 0x03 => some (.sel f (o.extractLsb' 32 8) (o.extractLsb' 24 8) (o.extractLsb' 16 8) (o.extractLsb' 8 8) (o.extractLsb' 0 1))
  | 0x04 => some (.setpi f (o.extractLsb' 32 8) (o.extractLsb' 24 8) (o.extractLsb' 16 3) (o.extractLsb' 19 1) (o.extractLsb' 0 16))
  | _ => none

/-- Candidates of major 0x06 (R140). -/
def fibreMajor06 (mi : Nat) (f : FHdr) (o : BitVec 40) : Option Instr :=
  match mi with
  | 0x00 => some (.plut3 f (o.extractLsb' 32 8) (o.extractLsb' 24 8) (o.extractLsb' 16 8) (o.extractLsb' 8 8) (o.extractLsb' 0 8))
  | 0x01 => some (.p2g f (o.extractLsb' 32 8))
  | 0x02 => some (.g2p f (o.extractLsb' 24 8) (o.extractLsb' 16 8))
  | _ => none

/-- Candidates of major 0x07 (R140). -/
def fibreMajor07 (mi : Nat) (f : FHdr) (o : BitVec 40) : Option Instr :=
  match mi with
  | 0x00 => some (.fadd f (o.extractLsb' 32 8) (o.extractLsb' 24 8) (o.extractLsb' 16 8) (o.extractLsb' 0 2))
  | 0x01 => some (.fsub f (o.extractLsb' 32 8) (o.extractLsb' 24 8) (o.extractLsb' 16 8) (o.extractLsb' 0 2))
  | 0x02 => some (.fmul f (o.extractLsb' 32 8) (o.extractLsb' 24 8) (o.extractLsb' 16 8) (o.extractLsb' 0 2))
  | 0x03 => some (.ffma f (o.extractLsb' 32 8) (o.extractLsb' 24 8) (o.extractLsb' 16 8) (o.extractLsb' 8 8) (o.extractLsb' 0 2))
  | 0x04 => some (.fmin f (o.extractLsb' 32 8) (o.extractLsb' 24 8) (o.extractLsb' 16 8))
  | 0x05 => some (.fmax f (o.extractLsb' 32 8) (o.extractLsb' 24 8) (o.extractLsb' 16 8))
  | 0x06 => some (.fabs f (o.extractLsb' 32 8) (o.extractLsb' 24 8))
  | 0x07 => some (.fneg f (o.extractLsb' 32 8) (o.extractLsb' 24 8))
  | 0x08 => some (.fdiv f (o.extractLsb' 32 8) (o.extractLsb' 24 8) (o.extractLsb' 16 8) (o.extractLsb' 0 2))
  | _ => none

/-- Candidates of major 0x08 (R140). -/
def fibreMajor08 (mi : Nat) (f : FHdr) (o : BitVec 40) : Option Instr :=
  match mi with
  | 0x00 => some (.hadd2 f (o.extractLsb' 32 8) (o.extractLsb' 24 8) (o.extractLsb' 16 8) (o.extractLsb' 2 1) (o.extractLsb' 0 2))
  | 0x01 => some (.hsub2 f (o.extractLsb' 32 8) (o.extractLsb' 24 8) (o.extractLsb' 16 8) (o.extractLsb' 2 1) (o.extractLsb' 0 2))
  | 0x02 => some (.hmul2 f (o.extractLsb' 32 8) (o.extractLsb' 24 8) (o.extractLsb' 16 8) (o.extractLsb' 2 1) (o.extractLsb' 0 2))
  | 0x03 => some (.hfma2 f (o.extractLsb' 32 8) (o.extractLsb' 24 8) (o.extractLsb' 16 8) (o.extractLsb' 8 8) (o.extractLsb' 2 1) (o.extractLsb' 0 2))
  | 0x04 => some (.hmin2 f (o.extractLsb' 32 8) (o.extractLsb' 24 8) (o.extractLsb' 16 8) (o.extractLsb' 2 1))
  | 0x05 => some (.hmax2 f (o.extractLsb' 32 8) (o.extractLsb' 24 8) (o.extractLsb' 16 8) (o.extractLsb' 2 1))
  | _ => none

/-- Candidates of major 0x09 (R140). -/
def fibreMajor09 (mi : Nat) (f : FHdr) (o : BitVec 40) : Option Instr :=
  match mi with
  | 0x00 => some (.dadd f (o.extractLsb' 32 8) (o.extractLsb' 24 8) (o.extractLsb' 16 8) (o.extractLsb' 0 2))
  | 0x01 => some (.dsub f (o.extractLsb' 32 8) (o.extractLsb' 24 8) (o.extractLsb' 16 8) (o.extractLsb' 0 2))
  | 0x02 => some (.dmul f (o.extractLsb' 32 8) (o.extractLsb' 24 8) (o.extractLsb' 16 8) (o.extractLsb' 0 2))
  | 0x03 => some (.dfma f (o.extractLsb' 32 8) (o.extractLsb' 24 8) (o.extractLsb' 16 8) (o.extractLsb' 8 8) (o.extractLsb' 0 2))
  | 0x04 => some (.dmin f (o.extractLsb' 32 8) (o.extractLsb' 24 8) (o.extractLsb' 16 8))
  | 0x05 => some (.dmax f (o.extractLsb' 32 8) (o.extractLsb' 24 8) (o.extractLsb' 16 8))
  | 0x06 => some (.ddiv f (o.extractLsb' 32 8) (o.extractLsb' 24 8) (o.extractLsb' 16 8) (o.extractLsb' 0 2))
  | 0x07 => some (.dsqrt f (o.extractLsb' 32 8) (o.extractLsb' 24 8) (o.extractLsb' 0 2))
  | _ => none

/-- Candidates of major 0x0A (R140). -/
def fibreMajor0A (mi : Nat) (f : FHdr) (o : BitVec 40) : Option Instr :=
  match mi with
  | 0x00 => some (.rcp f (o.extractLsb' 32 8) (o.extractLsb' 24 8))
  | 0x01 => some (.rsq f (o.extractLsb' 32 8) (o.extractLsb' 24 8))
  | 0x02 => some (.sqrt f (o.extractLsb' 32 8) (o.extractLsb' 24 8))
  | 0x03 => some (.exp2 f (o.extractLsb' 32 8) (o.extractLsb' 24 8))
  | 0x04 => some (.log2 f (o.extractLsb' 32 8) (o.extractLsb' 24 8))
  | 0x05 => some (.sin f (o.extractLsb' 32 8) (o.extractLsb' 24 8))
  | 0x06 => some (.cos f (o.extractLsb' 32 8) (o.extractLsb' 24 8))
  | 0x07 => some (.tanh f (o.extractLsb' 32 8) (o.extractLsb' 24 8))
  | _ => none

/-- Candidates of major 0x0B (R140). -/
def fibreMajor0B (mi : Nat) (f : FHdr) (o : BitVec 40) : Option Instr :=
  match mi with
  | 0x00 => some (.cvt f (o.extractLsb' 32 8) (o.extractLsb' 24 8) (o.extractLsb' 8 5) (o.extractLsb' 3 5) (o.extractLsb' 2 1) (o.extractLsb' 0 2))
  | 0x01 => some (.cvts f (o.extractLsb' 32 8) (o.extractLsb' 24 8) (o.extractLsb' 16 8) (o.extractLsb' 13 1) (o.extractLsb' 8 5) (o.extractLsb' 3 5) (o.extractLsb' 2 1) (o.extractLsb' 0 2))
  | 0x02 => some (.cvtpk f (o.extractLsb' 32 8) (o.extractLsb' 24 8) (o.extractLsb' 16 8) (o.extractLsb' 8 8) (o.extractLsb' 3 5) (o.extractLsb' 2 1) (o.extractLsb' 0 2))
  | 0x03 => some (.cvtupk f (o.extractLsb' 32 8) (o.extractLsb' 24 8) (o.extractLsb' 3 5) (o.extractLsb' 0 2))
  | _ => none

/-- Candidates of major 0x0C (R140). -/
def fibreMajor0C (mi : Nat) (f : FHdr) (o : BitVec 40) : Option Instr :=
  match mi with
  | 0x00 => some (.bra f (o.extractLsb' 0 32))
  | 0x01 => some (.brx f (o.extractLsb' 24 8))
  | 0x02 => some (.call f (o.extractLsb' 32 8) (o.extractLsb' 0 32))
  | 0x03 => some (.callx f (o.extractLsb' 32 8) (o.extractLsb' 24 8))
  | 0x04 => some (.ret f (o.extractLsb' 24 8))
  | _ => none

/-- Candidates of major 0x0D (R140). -/
def fibreMajor0D (mi : Nat) (f : FHdr) (o : BitVec 40) : Option Instr :=
  match mi with
  | 0x00 => some (.enrol f (o.extractLsb' 8 8))
  | 0x01 => some (.strike f (o.extractLsb' 8 8))
  | 0x02 => some (.park f (o.extractLsb' 8 8))
  | 0x03 => some (.xread f (o.extractLsb' 32 8) (o.extractLsb' 24 8) (o.extractLsb' 16 8) (o.extractLsb' 8 8) (o.extractLsb' 0 1))
  | 0x04 => some (.xvote f (o.extractLsb' 32 8) (o.extractLsb' 24 8) (o.extractLsb' 8 8) (o.extractLsb' 0 2))
  | 0x05 => some (.xred f (o.extractLsb' 32 8) (o.extractLsb' 24 8) (o.extractLsb' 8 8) (o.extractLsb' 0 2) (o.extractLsb' 2 3))
  | 0x06 => some (.matchw f (o.extractLsb' 32 8) (o.extractLsb' 24 8) (o.extractLsb' 8 8) (o.extractLsb' 0 1))
  | 0x07 => some (.matchf f (o.extractLsb' 32 8) (o.extractLsb' 24 8) (o.extractLsb' 8 8))
  | 0x08 => some (.elect f (o.extractLsb' 32 8) (o.extractLsb' 8 8))
  | _ => none

/-- Candidates of major 0x0E (R140). -/
def fibreMajor0E (mi : Nat) (f : FHdr) (o : BitVec 40) : Option Instr :=
  match mi with
  | 0x00 => some (.spawn f (o.extractLsb' 24 8) (o.extractLsb' 16 8) (o.extractLsb' 8 8) (o.extractLsb' 0 3))
  | 0x01 => some (.waitj f (o.extractLsb' 24 8))
  | 0x02 => some (.launch f (o.extractLsb' 32 8) (o.extractLsb' 24 8) (o.extractLsb' 0 7))
  | _ => none

/-- Candidates of major 0x0F (R140). -/
def fibreMajor0F (mi : Nat) (f : FHdr) (o : BitVec 40) : Option Instr :=
  match mi with
  | 0x00 => some (.ldGI8 f (o.extractLsb' 32 8) (o.extractLsb' 24 8) (o.extractLsb' 16 3) (o.extractLsb' 19 3) (o.extractLsb' 0 16))
  | 0x01 => some (.ldGUi8 f (o.extractLsb' 32 8) (o.extractLsb' 24 8) (o.extractLsb' 16 3) (o.extractLsb' 19 3) (o.extractLsb' 0 16))
  | 0x02 => some (.ldGI16 f (o.extractLsb' 32 8) (o.extractLsb' 24 8) (o.extractLsb' 16 3) (o.extractLsb' 19 3) (o.extractLsb' 0 16))
  | 0x03 => some (.ldGUi16 f (o.extractLsb' 32 8) (o.extractLsb' 24 8) (o.extractLsb' 16 3) (o.extractLsb' 19 3) (o.extractLsb' 0 16))
  | 0x04 => some (.ldGB32 f (o.extractLsb' 32 8) (o.extractLsb' 24 8) (o.extractLsb' 16 3) (o.extractLsb' 19 3) (o.extractLsb' 0 16))
  | 0x05 => some (.ldGB64 f (o.extractLsb' 32 8) (o.extractLsb' 24 8) (o.extractLsb' 16 3) (o.extractLsb' 19 3) (o.extractLsb' 0 16))
  | 0x06 => some (.ldGB128 f (o.extractLsb' 32 8) (o.extractLsb' 24 8) (o.extractLsb' 16 3) (o.extractLsb' 19 3) (o.extractLsb' 0 16))
  | _ => none

/-- Candidates of major 0x10 (R140). -/
def fibreMajor10 (mi : Nat) (f : FHdr) (o : BitVec 40) : Option Instr :=
  match mi with
  | 0x00 => some (.stGB8 f (o.extractLsb' 32 8) (o.extractLsb' 24 8) (o.extractLsb' 16 3) (o.extractLsb' 19 3) (o.extractLsb' 0 16))
  | 0x01 => some (.stGB16 f (o.extractLsb' 32 8) (o.extractLsb' 24 8) (o.extractLsb' 16 3) (o.extractLsb' 19 3) (o.extractLsb' 0 16))
  | 0x02 => some (.stGB32 f (o.extractLsb' 32 8) (o.extractLsb' 24 8) (o.extractLsb' 16 3) (o.extractLsb' 19 3) (o.extractLsb' 0 16))
  | 0x03 => some (.stGB64 f (o.extractLsb' 32 8) (o.extractLsb' 24 8) (o.extractLsb' 16 3) (o.extractLsb' 19 3) (o.extractLsb' 0 16))
  | 0x04 => some (.stGB128 f (o.extractLsb' 32 8) (o.extractLsb' 24 8) (o.extractLsb' 16 3) (o.extractLsb' 19 3) (o.extractLsb' 0 16))
  | _ => none

/-- Candidates of major 0x11 (R140). -/
def fibreMajor11 (mi : Nat) (f : FHdr) (o : BitVec 40) : Option Instr :=
  match mi with
  | 0x00 => some (.ldSI8 f (o.extractLsb' 32 8) (o.extractLsb' 24 8) (o.extractLsb' 20 4) (o.extractLsb' 17 3) (o.extractLsb' 14 3) (o.extractLsb' 0 14))
  | 0x01 => some (.ldSUi8 f (o.extractLsb' 32 8) (o.extractLsb' 24 8) (o.extractLsb' 20 4) (o.extractLsb' 17 3) (o.extractLsb' 14 3) (o.extractLsb' 0 14))
  | 0x02 => some (.ldSI16 f (o.extractLsb' 32 8) (o.extractLsb' 24 8) (o.extractLsb' 20 4) (o.extractLsb' 17 3) (o.extractLsb' 14 3) (o.extractLsb' 0 14))
  | 0x03 => some (.ldSUi16 f (o.extractLsb' 32 8) (o.extractLsb' 24 8) (o.extractLsb' 20 4) (o.extractLsb' 17 3) (o.extractLsb' 14 3) (o.extractLsb' 0 14))
  | 0x04 => some (.ldSB32 f (o.extractLsb' 32 8) (o.extractLsb' 24 8) (o.extractLsb' 20 4) (o.extractLsb' 17 3) (o.extractLsb' 14 3) (o.extractLsb' 0 14))
  | 0x05 => some (.ldSB64 f (o.extractLsb' 32 8) (o.extractLsb' 24 8) (o.extractLsb' 20 4) (o.extractLsb' 17 3) (o.extractLsb' 14 3) (o.extractLsb' 0 14))
  | 0x06 => some (.ldSB128 f (o.extractLsb' 32 8) (o.extractLsb' 24 8) (o.extractLsb' 20 4) (o.extractLsb' 17 3) (o.extractLsb' 14 3) (o.extractLsb' 0 14))
  | _ => none

/-- Candidates of major 0x12 (R140). -/
def fibreMajor12 (mi : Nat) (f : FHdr) (o : BitVec 40) : Option Instr :=
  match mi with
  | 0x00 => some (.stSB8 f (o.extractLsb' 32 8) (o.extractLsb' 24 8) (o.extractLsb' 20 4) (o.extractLsb' 17 3) (o.extractLsb' 14 3) (o.extractLsb' 0 14))
  | 0x01 => some (.stSB16 f (o.extractLsb' 32 8) (o.extractLsb' 24 8) (o.extractLsb' 20 4) (o.extractLsb' 17 3) (o.extractLsb' 14 3) (o.extractLsb' 0 14))
  | 0x02 => some (.stSB32 f (o.extractLsb' 32 8) (o.extractLsb' 24 8) (o.extractLsb' 20 4) (o.extractLsb' 17 3) (o.extractLsb' 14 3) (o.extractLsb' 0 14))
  | 0x03 => some (.stSB64 f (o.extractLsb' 32 8) (o.extractLsb' 24 8) (o.extractLsb' 20 4) (o.extractLsb' 17 3) (o.extractLsb' 14 3) (o.extractLsb' 0 14))
  | 0x04 => some (.stSB128 f (o.extractLsb' 32 8) (o.extractLsb' 24 8) (o.extractLsb' 20 4) (o.extractLsb' 17 3) (o.extractLsb' 14 3) (o.extractLsb' 0 14))
  | _ => none

/-- Candidates of major 0x13 (R140). -/
def fibreMajor13 (mi : Nat) (f : FHdr) (o : BitVec 40) : Option Instr :=
  match mi with
  | 0x00 => some (.atomAddI32 f (o.extractLsb' 32 8) (o.extractLsb' 24 8) (o.extractLsb' 16 8) (o.extractLsb' 0 3) (o.extractLsb' 3 3))
  | 0x01 => some (.atomAddI64 f (o.extractLsb' 32 8) (o.extractLsb' 24 8) (o.extractLsb' 16 8) (o.extractLsb' 0 3) (o.extractLsb' 3 3))
  | 0x02 => some (.atomAndB32 f (o.extractLsb' 32 8) (o.extractLsb' 24 8) (o.extractLsb' 16 8) (o.extractLsb' 0 3) (o.extractLsb' 3 3))
  | 0x03 => some (.atomOrB32 f (o.extractLsb' 32 8) (o.extractLsb' 24 8) (o.extractLsb' 16 8) (o.extractLsb' 0 3) (o.extractLsb' 3 3))
  | 0x04 => some (.atomXorB32 f (o.extractLsb' 32 8) (o.extractLsb' 24 8) (o.extractLsb' 16 8) (o.extractLsb' 0 3) (o.extractLsb' 3 3))
  | 0x05 => some (.atomMinI32 f (o.extractLsb' 32 8) (o.extractLsb' 24 8) (o.extractLsb' 16 8) (o.extractLsb' 0 3) (o.extractLsb' 3 3))
  | 0x06 => some (.atomMaxI32 f (o.extractLsb' 32 8) (o.extractLsb' 24 8) (o.extractLsb' 16 8) (o.extractLsb' 0 3) (o.extractLsb' 3 3))
  | 0x07 => some (.atomMinUi32 f (o.extractLsb' 32 8) (o.extractLsb' 24 8) (o.extractLsb' 16 8) (o.extractLsb' 0 3) (o.extractLsb' 3 3))
  | 0x08 => some (.atomMaxUi32 f (o.extractLsb' 32 8) (o.extractLsb' 24 8) (o.extractLsb' 16 8) (o.extractLsb' 0 3) (o.extractLsb' 3 3))
  | 0x09 => some (.atomExchB32 f (o.extractLsb' 32 8) (o.extractLsb' 24 8) (o.extractLsb' 16 8) (o.extractLsb' 0 3) (o.extractLsb' 3 3))
  | 0x0A => some (.atomExchB64 f (o.extractLsb' 32 8) (o.extractLsb' 24 8) (o.extractLsb' 16 8) (o.extractLsb' 0 3) (o.extractLsb' 3 3))
  | 0x0B => some (.atomCasB32 f (o.extractLsb' 32 8) (o.extractLsb' 24 8) (o.extractLsb' 16 8) (o.extractLsb' 8 8) (o.extractLsb' 0 3) (o.extractLsb' 3 3))
  | 0x0C => some (.atomCasB64 f (o.extractLsb' 32 8) (o.extractLsb' 24 8) (o.extractLsb' 16 8) (o.extractLsb' 8 8) (o.extractLsb' 0 3) (o.extractLsb' 3 3))
  | 0x0D => some (.atomAddF32 f (o.extractLsb' 32 8) (o.extractLsb' 24 8) (o.extractLsb' 16 8) (o.extractLsb' 0 3) (o.extractLsb' 3 3))
  | 0x0E => some (.atomMinF32 f (o.extractLsb' 32 8) (o.extractLsb' 24 8) (o.extractLsb' 16 8) (o.extractLsb' 0 3) (o.extractLsb' 3 3))
  | 0x0F => some (.atomMaxF32 f (o.extractLsb' 32 8) (o.extractLsb' 24 8) (o.extractLsb' 16 8) (o.extractLsb' 0 3) (o.extractLsb' 3 3))
  | _ => none

/-- Candidates of major 0x14 (R140). -/
def fibreMajor14 (mi : Nat) (f : FHdr) (o : BitVec 40) : Option Instr :=
  match mi with
  | 0x00 => some (.atomsAddI32 f (o.extractLsb' 32 8) (o.extractLsb' 24 8) (o.extractLsb' 16 8) (o.extractLsb' 4 4) (o.extractLsb' 2 2) (o.extractLsb' 0 2))
  | 0x01 => some (.atomsAddI64 f (o.extractLsb' 32 8) (o.extractLsb' 24 8) (o.extractLsb' 16 8) (o.extractLsb' 4 4) (o.extractLsb' 2 2) (o.extractLsb' 0 2))
  | 0x02 => some (.atomsAndB32 f (o.extractLsb' 32 8) (o.extractLsb' 24 8) (o.extractLsb' 16 8) (o.extractLsb' 4 4) (o.extractLsb' 2 2) (o.extractLsb' 0 2))
  | 0x03 => some (.atomsOrB32 f (o.extractLsb' 32 8) (o.extractLsb' 24 8) (o.extractLsb' 16 8) (o.extractLsb' 4 4) (o.extractLsb' 2 2) (o.extractLsb' 0 2))
  | 0x04 => some (.atomsXorB32 f (o.extractLsb' 32 8) (o.extractLsb' 24 8) (o.extractLsb' 16 8) (o.extractLsb' 4 4) (o.extractLsb' 2 2) (o.extractLsb' 0 2))
  | 0x05 => some (.atomsMinI32 f (o.extractLsb' 32 8) (o.extractLsb' 24 8) (o.extractLsb' 16 8) (o.extractLsb' 4 4) (o.extractLsb' 2 2) (o.extractLsb' 0 2))
  | 0x06 => some (.atomsMaxI32 f (o.extractLsb' 32 8) (o.extractLsb' 24 8) (o.extractLsb' 16 8) (o.extractLsb' 4 4) (o.extractLsb' 2 2) (o.extractLsb' 0 2))
  | 0x07 => some (.atomsMinUi32 f (o.extractLsb' 32 8) (o.extractLsb' 24 8) (o.extractLsb' 16 8) (o.extractLsb' 4 4) (o.extractLsb' 2 2) (o.extractLsb' 0 2))
  | 0x08 => some (.atomsMaxUi32 f (o.extractLsb' 32 8) (o.extractLsb' 24 8) (o.extractLsb' 16 8) (o.extractLsb' 4 4) (o.extractLsb' 2 2) (o.extractLsb' 0 2))
  | 0x09 => some (.atomsExchB32 f (o.extractLsb' 32 8) (o.extractLsb' 24 8) (o.extractLsb' 16 8) (o.extractLsb' 4 4) (o.extractLsb' 2 2) (o.extractLsb' 0 2))
  | 0x0A => some (.atomsExchB64 f (o.extractLsb' 32 8) (o.extractLsb' 24 8) (o.extractLsb' 16 8) (o.extractLsb' 4 4) (o.extractLsb' 2 2) (o.extractLsb' 0 2))
  | 0x0B => some (.atomsCasB32 f (o.extractLsb' 32 8) (o.extractLsb' 24 8) (o.extractLsb' 16 8) (o.extractLsb' 8 8) (o.extractLsb' 4 4) (o.extractLsb' 2 2) (o.extractLsb' 0 2))
  | 0x0C => some (.atomsCasB64 f (o.extractLsb' 32 8) (o.extractLsb' 24 8) (o.extractLsb' 16 8) (o.extractLsb' 8 8) (o.extractLsb' 4 4) (o.extractLsb' 2 2) (o.extractLsb' 0 2))
  | 0x0D => some (.atomsAddF32 f (o.extractLsb' 32 8) (o.extractLsb' 24 8) (o.extractLsb' 16 8) (o.extractLsb' 4 4) (o.extractLsb' 2 2) (o.extractLsb' 0 2))
  | 0x0E => some (.atomsMinF32 f (o.extractLsb' 32 8) (o.extractLsb' 24 8) (o.extractLsb' 16 8) (o.extractLsb' 4 4) (o.extractLsb' 2 2) (o.extractLsb' 0 2))
  | 0x0F => some (.atomsMaxF32 f (o.extractLsb' 32 8) (o.extractLsb' 24 8) (o.extractLsb' 16 8) (o.extractLsb' 4 4) (o.extractLsb' 2 2) (o.extractLsb' 0 2))
  | _ => none

/-- Candidates of major 0x15 (R140). -/
def fibreMajor15 (mi : Nat) (f : FHdr) (o : BitVec 40) : Option Instr :=
  match mi with
  | 0x00 => some (.fence f (o.extractLsb' 0 2) (o.extractLsb' 2 3))
  | 0x01 => some (.pref f (o.extractLsb' 24 8))
  | 0x02 => some (.ldrop f (o.extractLsb' 24 8))
  | _ => none

/-- Candidates of major 0x16 (R140). -/
def fibreMajor16 (mi : Nat) (f : FHdr) (o : BitVec 40) : Option Instr :=
  match mi with
  | 0x00 => some (.qpop f (o.extractLsb' 32 8) (o.extractLsb' 24 8) (o.extractLsb' 16 8))
  | 0x01 => some (.lmsg f (o.extractLsb' 32 8) (o.extractLsb' 24 8) (o.extractLsb' 16 8) (o.extractLsb' 0 3) (o.extractLsb' 3 4))
  | 0x02 => some (.hgive f (o.extractLsb' 24 8) (o.extractLsb' 16 8) (o.extractLsb' 0 16))
  | 0x03 => some (.htake f (o.extractLsb' 24 8) (o.extractLsb' 0 16))
  | _ => none

/-- Candidates of major 0x17 (R140). -/
def fibreMajor17 (mi : Nat) (f : FHdr) (o : BitVec 40) : Option Instr :=
  match mi with
  | 0x00 => some (.barv f (o.extractLsb' 32 8) (o.extractLsb' 8 8))
  | 0x01 => some (.bwait f (o.extractLsb' 8 8) (o.extractLsb' 24 8))
  | 0x02 => some (.bsync f (o.extractLsb' 8 8))
  | 0x03 => some (.bsign f (o.extractLsb' 32 8) (o.extractLsb' 8 8))
  | 0x04 => some (.bexp f (o.extractLsb' 8 8) (o.extractLsb' 24 8))
  | 0x05 => some (.batt f (o.extractLsb' 8 8) (o.extractLsb' 24 8) (o.extractLsb' 0 4))
  | _ => none

/-- Candidates of major 0x18 (R140). -/
def fibreMajor18 (mi : Nat) (f : FHdr) (o : BitVec 40) : Option Instr :=
  match mi with
  | 0x00 => some (.gate f (o.extractLsb' 0 24))
  | 0x01 => some (.xcopy f (o.extractLsb' 32 8) (o.extractLsb' 24 8) (o.extractLsb' 8 8) (o.extractLsb' 0 1) (o.extractLsb' 1 1) (o.extractLsb' 2 1))
  | 0x02 => some (.publish f (o.extractLsb' 24 8) (o.extractLsb' 16 8))
  | _ => none

/-- Candidates of major 0x19 (R140). -/
def fibreMajor19 (mi : Nat) (f : FHdr) (o : BitVec 40) : Option Instr :=
  match mi with
  | 0x00 => some (.fmnx f (o.extractLsb' 32 8) (o.extractLsb' 24 8) (o.extractLsb' 16 8))
  | 0x01 => some (.cvtf8 f (o.extractLsb' 32 8) (o.extractLsb' 24 8))
  | 0x02 => some (.rdcycl f (o.extractLsb' 32 8))
  | _ => none

/-- The candidate that the opcode of a fibre word names (R140). -/
def fibreCandidate (maj mi : Nat) (f : FHdr) (o : BitVec 40) : Option Instr :=
  match maj with
  | 0x00 => fibreMajor00 mi f o
  | 0x01 => fibreMajor01 mi f o
  | 0x02 => fibreMajor02 mi f o
  | 0x03 => fibreMajor03 mi f o
  | 0x04 => fibreMajor04 mi f o
  | 0x05 => fibreMajor05 mi f o
  | 0x06 => fibreMajor06 mi f o
  | 0x07 => fibreMajor07 mi f o
  | 0x08 => fibreMajor08 mi f o
  | 0x09 => fibreMajor09 mi f o
  | 0x0A => fibreMajor0A mi f o
  | 0x0B => fibreMajor0B mi f o
  | 0x0C => fibreMajor0C mi f o
  | 0x0D => fibreMajor0D mi f o
  | 0x0E => fibreMajor0E mi f o
  | 0x0F => fibreMajor0F mi f o
  | 0x10 => fibreMajor10 mi f o
  | 0x11 => fibreMajor11 mi f o
  | 0x12 => fibreMajor12 mi f o
  | 0x13 => fibreMajor13 mi f o
  | 0x14 => fibreMajor14 mi f o
  | 0x15 => fibreMajor15 mi f o
  | 0x16 => fibreMajor16 mi f o
  | 0x17 => fibreMajor17 mi f o
  | 0x18 => fibreMajor18 mi f o
  | 0x19 => fibreMajor19 mi f o
  | _ => none

/-- Opcode, header and operand bits of a fibre instruction (R136, R137, R140). -/
def fibreParts (i : Instr) : Option (Nat × Nat × FHdr × BitVec 40) :=
  match i with
  | .nop f => some (0x00, 0x00, f, (0 : BitVec 40))
  | .trap f imm => some (0x00, 0x01, f, (0 : BitVec 16) ++ imm)
  | .bkpt f imm => some (0x00, 0x02, f, (0 : BitVec 16) ++ imm)
  | .eret f => some (0x00, 0x03, f, (0 : BitVec 40))
  | .rdsr f d num => some (0x00, 0x04, f, d ++ (0 : BitVec 16) ++ num)
  | .wrsr f sa num => some (0x00, 0x05, f, (0 : BitVec 8) ++ sa ++ (0 : BitVec 8) ++ num)
  | .rdcyc f d => some (0x00, 0x06, f, d ++ (0 : BitVec 32))
  | .fend f => some (0x00, 0x07, f, (0 : BitVec 40))
  | .sleep f sa => some (0x00, 0x08, f, (0 : BitVec 8) ++ sa ++ (0 : BitVec 24))
  | .add f d sa sb sat => some (0x01, 0x00, f, d ++ sa ++ sb ++ (0 : BitVec 15) ++ sat)
  | .sub f d sa sb sat => some (0x01, 0x01, f, d ++ sa ++ sb ++ (0 : BitVec 15) ++ sat)
  | .mul f d sa sb => some (0x01, 0x02, f, d ++ sa ++ sb ++ (0 : BitVec 16))
  | .mulhi f d sa sb => some (0x01, 0x03, f, d ++ sa ++ sb ++ (0 : BitVec 16))
  | .mulhiu f d sa sb => some (0x01, 0x04, f, d ++ sa ++ sb ++ (0 : BitVec 16))
  | .mad f d sa sb sc sat => some (0x01, 0x05, f, d ++ sa ++ sb ++ sc ++ (0 : BitVec 7) ++ sat)
  | .div f d sa sb => some (0x01, 0x06, f, d ++ sa ++ sb ++ (0 : BitVec 16))
  | .divu f d sa sb => some (0x01, 0x07, f, d ++ sa ++ sb ++ (0 : BitVec 16))
  | .rem f d sa sb => some (0x01, 0x08, f, d ++ sa ++ sb ++ (0 : BitVec 16))
  | .remu f d sa sb => some (0x01, 0x09, f, d ++ sa ++ sb ++ (0 : BitVec 16))
  | .min f d sa sb => some (0x01, 0x0A, f, d ++ sa ++ sb ++ (0 : BitVec 16))
  | .max f d sa sb => some (0x01, 0x0B, f, d ++ sa ++ sb ++ (0 : BitVec 16))
  | .minu f d sa sb => some (0x01, 0x0C, f, d ++ sa ++ sb ++ (0 : BitVec 16))
  | .maxu f d sa sb => some (0x01, 0x0D, f, d ++ sa ++ sb ++ (0 : BitVec 16))
  | .abs f d sa sat => some (0x01, 0x0E, f, d ++ sa ++ (0 : BitVec 23) ++ sat)
  | .neg f d sa sat => some (0x01, 0x0F, f, d ++ sa ++ (0 : BitVec 23) ++ sat)
  | .addi f d sa imm => some (0x02, 0x00, f, d ++ sa ++ (0 : BitVec 8) ++ imm)
  | .muli f d sa imm => some (0x02, 0x01, f, d ++ sa ++ (0 : BitVec 8) ++ imm)
  | .mini f d sa imm => some (0x02, 0x02, f, d ++ sa ++ (0 : BitVec 8) ++ imm)
  | .maxi f d sa imm => some (0x02, 0x03, f, d ++ sa ++ (0 : BitVec 8) ++ imm)
  | .and f d sa sb => some (0x03, 0x00, f, d ++ sa ++ sb ++ (0 : BitVec 16))
  | .or f d sa sb => some (0x03, 0x01, f, d ++ sa ++ sb ++ (0 : BitVec 16))
  | .xor f d sa sb => some (0x03, 0x02, f, d ++ sa ++ sb ++ (0 : BitVec 16))
  | .andn f d sa sb => some (0x03, 0x03, f, d ++ sa ++ sb ++ (0 : BitVec 16))
  | .not f d sa => some (0x03, 0x04, f, d ++ sa ++ (0 : BitVec 24))
  | .shl f d sa sb => some (0x03, 0x05, f, d ++ sa ++ sb ++ (0 : BitVec 16))
  | .shr f d sa sb => some (0x03, 0x06, f, d ++ sa ++ sb ++ (0 : BitVec 16))
  | .sar f d sa sb => some (0x03, 0x07, f, d ++ sa ++ sb ++ (0 : BitVec 16))
  | .rotl f d sa sb => some (0x03, 0x08, f, d ++ sa ++ sb ++ (0 : BitVec 16))
  | .rotr f d sa sb => some (0x03, 0x09, f, d ++ sa ++ sb ++ (0 : BitVec 16))
  | .popc f d sa => some (0x03, 0x0A, f, d ++ sa ++ (0 : BitVec 24))
  | .clz f d sa => some (0x03, 0x0B, f, d ++ sa ++ (0 : BitVec 24))
  | .ctz f d sa => some (0x03, 0x0C, f, d ++ sa ++ (0 : BitVec 24))
  | .brev f d sa => some (0x03, 0x0D, f, d ++ sa ++ (0 : BitVec 24))
  | .bfe f d sa sb sgn => some (0x03, 0x0E, f, d ++ sa ++ sb ++ (0 : BitVec 15) ++ sgn)
  | .bfi f d sa sb sc => some (0x03, 0x0F, f, d ++ sa ++ sb ++ sc ++ (0 : BitVec 8))
  | .bpick f d sa sb sc => some (0x03, 0x10, f, d ++ sa ++ sb ++ sc ++ (0 : BitVec 8))
  | .blut3 f d sa sb sc lut => some (0x03, 0x11, f, d ++ sa ++ sb ++ sc ++ lut)
  | .andi f d sa imm => some (0x03, 0x20, f, d ++ sa ++ (0 : BitVec 8) ++ imm)
  | .ori f d sa imm => some (0x03, 0x21, f, d ++ sa ++ (0 : BitVec 8) ++ imm)
  | .xori f d sa imm => some (0x03, 0x22, f, d ++ sa ++ (0 : BitVec 8) ++ imm)
  | .shli f d sa imm => some (0x03, 0x23, f, d ++ sa ++ (0 : BitVec 19) ++ imm)
  | .shri f d sa imm => some (0x03, 0x24, f, d ++ sa ++ (0 : BitVec 19) ++ imm)
  | .sari f d sa imm => some (0x03, 0x25, f, d ++ sa ++ (0 : BitVec 19) ++ imm)
  | .add64 f d sa sb => some (0x04, 0x00, f, d ++ sa ++ sb ++ (0 : BitVec 16))
  | .sub64 f d sa sb => some (0x04, 0x01, f, d ++ sa ++ sb ++ (0 : BitVec 16))
  | .mul64 f d sa sb => some (0x04, 0x02, f, d ++ sa ++ sb ++ (0 : BitVec 16))
  | .mulw f d sa sb => some (0x04, 0x03, f, d ++ sa ++ sb ++ (0 : BitVec 16))
  | .mulwu f d sa sb => some (0x04, 0x04, f, d ++ sa ++ sb ++ (0 : BitVec 16))
  | .shl64 f d sa sb => some (0x04, 0x05, f, d ++ sa ++ sb ++ (0 : BitVec 16))
  | .shr64 f d sa sb => some (0x04, 0x06, f, d ++ sa ++ sb ++ (0 : BitVec 16))
  | .sar64 f d sa sb => some (0x04, 0x07, f, d ++ sa ++ sb ++ (0 : BitVec 16))
  | .min64 f d sa sb => some (0x04, 0x08, f, d ++ sa ++ sb ++ (0 : BitVec 16))
  | .max64 f d sa sb => some (0x04, 0x09, f, d ++ sa ++ sb ++ (0 : BitVec 16))
  | .addi64 f d sa imm => some (0x04, 0x10, f, d ++ sa ++ (0 : BitVec 8) ++ imm)
  | .lea f d sa sb shift u => some (0x04, 0x11, f, d ++ sa ++ sb ++ (0 : BitVec 12) ++ u ++ shift)
  | .mov f d sa b64 => some (0x05, 0x00, f, d ++ sa ++ (0 : BitVec 23) ++ b64)
  | .movi f d imm => some (0x05, 0x01, f, d ++ imm)
  | .setp f pd sa sb cc ty => some (0x05, 0x02, f, pd ++ sa ++ sb ++ (0 : BitVec 10) ++ ty ++ cc)
  | .sel f d sa sb pc b64 => some (0x05, 0x03, f, d ++ sa ++ sb ++ pc ++ (0 : BitVec 7) ++ b64)
  | .setpi f pd sa cc u imm => some (0x05, 0x04, f, pd ++ sa ++ (0 : BitVec 4) ++ u ++ cc ++ imm)
  | .plut3 f pd pa pb pc lut => some (0x06, 0x00, f, pd ++ pa ++ pb ++ pc ++ lut)
  | .p2g f d => some (0x06, 0x01, f, d ++ (0 : BitVec 32))
  | .g2p f sa sb => some (0x06, 0x02, f, (0 : BitVec 8) ++ sa ++ sb ++ (0 : BitVec 16))
  | .fadd f d sa sb rm => some (0x07, 0x00, f, d ++ sa ++ sb ++ (0 : BitVec 14) ++ rm)
  | .fsub f d sa sb rm => some (0x07, 0x01, f, d ++ sa ++ sb ++ (0 : BitVec 14) ++ rm)
  | .fmul f d sa sb rm => some (0x07, 0x02, f, d ++ sa ++ sb ++ (0 : BitVec 14) ++ rm)
  | .ffma f d sa sb sc rm => some (0x07, 0x03, f, d ++ sa ++ sb ++ sc ++ (0 : BitVec 6) ++ rm)
  | .fmin f d sa sb => some (0x07, 0x04, f, d ++ sa ++ sb ++ (0 : BitVec 16))
  | .fmax f d sa sb => some (0x07, 0x05, f, d ++ sa ++ sb ++ (0 : BitVec 16))
  | .fabs f d sa => some (0x07, 0x06, f, d ++ sa ++ (0 : BitVec 24))
  | .fneg f d sa => some (0x07, 0x07, f, d ++ sa ++ (0 : BitVec 24))
  | .fdiv f d sa sb rm => some (0x07, 0x08, f, d ++ sa ++ sb ++ (0 : BitVec 14) ++ rm)
  | .hadd2 f d sa sb bf rm => some (0x08, 0x00, f, d ++ sa ++ sb ++ (0 : BitVec 13) ++ bf ++ rm)
  | .hsub2 f d sa sb bf rm => some (0x08, 0x01, f, d ++ sa ++ sb ++ (0 : BitVec 13) ++ bf ++ rm)
  | .hmul2 f d sa sb bf rm => some (0x08, 0x02, f, d ++ sa ++ sb ++ (0 : BitVec 13) ++ bf ++ rm)
  | .hfma2 f d sa sb sc bf rm => some (0x08, 0x03, f, d ++ sa ++ sb ++ sc ++ (0 : BitVec 5) ++ bf ++ rm)
  | .hmin2 f d sa sb bf => some (0x08, 0x04, f, d ++ sa ++ sb ++ (0 : BitVec 13) ++ bf ++ (0 : BitVec 2))
  | .hmax2 f d sa sb bf => some (0x08, 0x05, f, d ++ sa ++ sb ++ (0 : BitVec 13) ++ bf ++ (0 : BitVec 2))
  | .dadd f d sa sb rm => some (0x09, 0x00, f, d ++ sa ++ sb ++ (0 : BitVec 14) ++ rm)
  | .dsub f d sa sb rm => some (0x09, 0x01, f, d ++ sa ++ sb ++ (0 : BitVec 14) ++ rm)
  | .dmul f d sa sb rm => some (0x09, 0x02, f, d ++ sa ++ sb ++ (0 : BitVec 14) ++ rm)
  | .dfma f d sa sb sc rm => some (0x09, 0x03, f, d ++ sa ++ sb ++ sc ++ (0 : BitVec 6) ++ rm)
  | .dmin f d sa sb => some (0x09, 0x04, f, d ++ sa ++ sb ++ (0 : BitVec 16))
  | .dmax f d sa sb => some (0x09, 0x05, f, d ++ sa ++ sb ++ (0 : BitVec 16))
  | .ddiv f d sa sb rm => some (0x09, 0x06, f, d ++ sa ++ sb ++ (0 : BitVec 14) ++ rm)
  | .dsqrt f d sa rm => some (0x09, 0x07, f, d ++ sa ++ (0 : BitVec 22) ++ rm)
  | .rcp f d sa => some (0x0A, 0x00, f, d ++ sa ++ (0 : BitVec 24))
  | .rsq f d sa => some (0x0A, 0x01, f, d ++ sa ++ (0 : BitVec 24))
  | .sqrt f d sa => some (0x0A, 0x02, f, d ++ sa ++ (0 : BitVec 24))
  | .exp2 f d sa => some (0x0A, 0x03, f, d ++ sa ++ (0 : BitVec 24))
  | .log2 f d sa => some (0x0A, 0x04, f, d ++ sa ++ (0 : BitVec 24))
  | .sin f d sa => some (0x0A, 0x05, f, d ++ sa ++ (0 : BitVec 24))
  | .cos f d sa => some (0x0A, 0x06, f, d ++ sa ++ (0 : BitVec 24))
  | .tanh f d sa => some (0x0A, 0x07, f, d ++ sa ++ (0 : BitVec 24))
  | .cvt f d sa df sf sat rm => some (0x0B, 0x00, f, d ++ sa ++ (0 : BitVec 11) ++ df ++ sf ++ sat ++ rm)
  | .cvts f d sa sb e8 df sf sat rm => some (0x0B, 0x01, f, d ++ sa ++ sb ++ (0 : BitVec 2) ++ e8 ++ df ++ sf ++ sat ++ rm)
  | .cvtpk f d sa sb sc df sat rm => some (0x0B, 0x02, f, d ++ sa ++ sb ++ sc ++ df ++ sat ++ rm)
  | .cvtupk f d sa sf idx => some (0x0B, 0x03, f, d ++ sa ++ (0 : BitVec 16) ++ sf ++ (0 : BitVec 1) ++ idx)
  | .bra f off => some (0x0C, 0x00, f, (0 : BitVec 8) ++ off)
  | .brx f sa => some (0x0C, 0x01, f, (0 : BitVec 8) ++ sa ++ (0 : BitVec 24))
  | .call f d off => some (0x0C, 0x02, f, d ++ off)
  | .callx f d sa => some (0x0C, 0x03, f, d ++ sa ++ (0 : BitVec 24))
  | .ret f sa => some (0x0C, 0x04, f, (0 : BitVec 8) ++ sa ++ (0 : BitVec 24))
  | .enrol f j => some (0x0D, 0x00, f, (0 : BitVec 24) ++ j ++ (0 : BitVec 8))
  | .strike f j => some (0x0D, 0x01, f, (0 : BitVec 24) ++ j ++ (0 : BitVec 8))
  | .park f j => some (0x0D, 0x02, f, (0 : BitVec 24) ++ j ++ (0 : BitVec 8))
  | .xread f d sa sb j b64 => some (0x0D, 0x03, f, d ++ sa ++ sb ++ j ++ (0 : BitVec 7) ++ b64)
  | .xvote f d pa j op => some (0x0D, 0x04, f, d ++ pa ++ (0 : BitVec 8) ++ j ++ (0 : BitVec 6) ++ op)
  | .xred f d sa j op ty => some (0x0D, 0x05, f, d ++ sa ++ (0 : BitVec 8) ++ j ++ (0 : BitVec 3) ++ ty ++ op)
  | .matchw f d sa j b64 => some (0x0D, 0x06, f, d ++ sa ++ (0 : BitVec 8) ++ j ++ (0 : BitVec 7) ++ b64)
  | .matchf f d sa j => some (0x0D, 0x07, f, d ++ sa ++ (0 : BitVec 8) ++ j ++ (0 : BitVec 8))
  | .elect f pd j => some (0x0D, 0x08, f, pd ++ (0 : BitVec 16) ++ j ++ (0 : BitVec 8))
  | .spawn f sa sb sc count => some (0x0E, 0x00, f, (0 : BitVec 8) ++ sa ++ sb ++ sc ++ (0 : BitVec 5) ++ count)
  | .waitj f sa => some (0x0E, 0x01, f, (0 : BitVec 8) ++ sa ++ (0 : BitVec 24))
  | .launch f d sa queue => some (0x0E, 0x02, f, d ++ sa ++ (0 : BitVec 17) ++ queue)
  | .ldGI8 f d sa kind scope off => some (0x0F, 0x00, f, d ++ sa ++ (0 : BitVec 2) ++ scope ++ kind ++ off)
  | .ldGUi8 f d sa kind scope off => some (0x0F, 0x01, f, d ++ sa ++ (0 : BitVec 2) ++ scope ++ kind ++ off)
  | .ldGI16 f d sa kind scope off => some (0x0F, 0x02, f, d ++ sa ++ (0 : BitVec 2) ++ scope ++ kind ++ off)
  | .ldGUi16 f d sa kind scope off => some (0x0F, 0x03, f, d ++ sa ++ (0 : BitVec 2) ++ scope ++ kind ++ off)
  | .ldGB32 f d sa kind scope off => some (0x0F, 0x04, f, d ++ sa ++ (0 : BitVec 2) ++ scope ++ kind ++ off)
  | .ldGB64 f d sa kind scope off => some (0x0F, 0x05, f, d ++ sa ++ (0 : BitVec 2) ++ scope ++ kind ++ off)
  | .ldGB128 f d sa kind scope off => some (0x0F, 0x06, f, d ++ sa ++ (0 : BitVec 2) ++ scope ++ kind ++ off)
  | .stGB8 f d sa kind scope off => some (0x10, 0x00, f, d ++ sa ++ (0 : BitVec 2) ++ scope ++ kind ++ off)
  | .stGB16 f d sa kind scope off => some (0x10, 0x01, f, d ++ sa ++ (0 : BitVec 2) ++ scope ++ kind ++ off)
  | .stGB32 f d sa kind scope off => some (0x10, 0x02, f, d ++ sa ++ (0 : BitVec 2) ++ scope ++ kind ++ off)
  | .stGB64 f d sa kind scope off => some (0x10, 0x03, f, d ++ sa ++ (0 : BitVec 2) ++ scope ++ kind ++ off)
  | .stGB128 f d sa kind scope off => some (0x10, 0x04, f, d ++ sa ++ (0 : BitVec 2) ++ scope ++ kind ++ off)
  | .ldSI8 f d sa hd kind scope off => some (0x11, 0x00, f, d ++ sa ++ hd ++ kind ++ scope ++ off)
  | .ldSUi8 f d sa hd kind scope off => some (0x11, 0x01, f, d ++ sa ++ hd ++ kind ++ scope ++ off)
  | .ldSI16 f d sa hd kind scope off => some (0x11, 0x02, f, d ++ sa ++ hd ++ kind ++ scope ++ off)
  | .ldSUi16 f d sa hd kind scope off => some (0x11, 0x03, f, d ++ sa ++ hd ++ kind ++ scope ++ off)
  | .ldSB32 f d sa hd kind scope off => some (0x11, 0x04, f, d ++ sa ++ hd ++ kind ++ scope ++ off)
  | .ldSB64 f d sa hd kind scope off => some (0x11, 0x05, f, d ++ sa ++ hd ++ kind ++ scope ++ off)
  | .ldSB128 f d sa hd kind scope off => some (0x11, 0x06, f, d ++ sa ++ hd ++ kind ++ scope ++ off)
  | .stSB8 f d sa hd kind scope off => some (0x12, 0x00, f, d ++ sa ++ hd ++ kind ++ scope ++ off)
  | .stSB16 f d sa hd kind scope off => some (0x12, 0x01, f, d ++ sa ++ hd ++ kind ++ scope ++ off)
  | .stSB32 f d sa hd kind scope off => some (0x12, 0x02, f, d ++ sa ++ hd ++ kind ++ scope ++ off)
  | .stSB64 f d sa hd kind scope off => some (0x12, 0x03, f, d ++ sa ++ hd ++ kind ++ scope ++ off)
  | .stSB128 f d sa hd kind scope off => some (0x12, 0x04, f, d ++ sa ++ hd ++ kind ++ scope ++ off)
  | .atomAddI32 f d sa sb kind scope => some (0x13, 0x00, f, d ++ sa ++ sb ++ (0 : BitVec 10) ++ scope ++ kind)
  | .atomsAddI32 f d sa sb hd kind scope => some (0x14, 0x00, f, d ++ sa ++ sb ++ (0 : BitVec 8) ++ hd ++ kind ++ scope)
  | .atomAddI64 f d sa sb kind scope => some (0x13, 0x01, f, d ++ sa ++ sb ++ (0 : BitVec 10) ++ scope ++ kind)
  | .atomsAddI64 f d sa sb hd kind scope => some (0x14, 0x01, f, d ++ sa ++ sb ++ (0 : BitVec 8) ++ hd ++ kind ++ scope)
  | .atomAndB32 f d sa sb kind scope => some (0x13, 0x02, f, d ++ sa ++ sb ++ (0 : BitVec 10) ++ scope ++ kind)
  | .atomsAndB32 f d sa sb hd kind scope => some (0x14, 0x02, f, d ++ sa ++ sb ++ (0 : BitVec 8) ++ hd ++ kind ++ scope)
  | .atomOrB32 f d sa sb kind scope => some (0x13, 0x03, f, d ++ sa ++ sb ++ (0 : BitVec 10) ++ scope ++ kind)
  | .atomsOrB32 f d sa sb hd kind scope => some (0x14, 0x03, f, d ++ sa ++ sb ++ (0 : BitVec 8) ++ hd ++ kind ++ scope)
  | .atomXorB32 f d sa sb kind scope => some (0x13, 0x04, f, d ++ sa ++ sb ++ (0 : BitVec 10) ++ scope ++ kind)
  | .atomsXorB32 f d sa sb hd kind scope => some (0x14, 0x04, f, d ++ sa ++ sb ++ (0 : BitVec 8) ++ hd ++ kind ++ scope)
  | .atomMinI32 f d sa sb kind scope => some (0x13, 0x05, f, d ++ sa ++ sb ++ (0 : BitVec 10) ++ scope ++ kind)
  | .atomsMinI32 f d sa sb hd kind scope => some (0x14, 0x05, f, d ++ sa ++ sb ++ (0 : BitVec 8) ++ hd ++ kind ++ scope)
  | .atomMaxI32 f d sa sb kind scope => some (0x13, 0x06, f, d ++ sa ++ sb ++ (0 : BitVec 10) ++ scope ++ kind)
  | .atomsMaxI32 f d sa sb hd kind scope => some (0x14, 0x06, f, d ++ sa ++ sb ++ (0 : BitVec 8) ++ hd ++ kind ++ scope)
  | .atomMinUi32 f d sa sb kind scope => some (0x13, 0x07, f, d ++ sa ++ sb ++ (0 : BitVec 10) ++ scope ++ kind)
  | .atomsMinUi32 f d sa sb hd kind scope => some (0x14, 0x07, f, d ++ sa ++ sb ++ (0 : BitVec 8) ++ hd ++ kind ++ scope)
  | .atomMaxUi32 f d sa sb kind scope => some (0x13, 0x08, f, d ++ sa ++ sb ++ (0 : BitVec 10) ++ scope ++ kind)
  | .atomsMaxUi32 f d sa sb hd kind scope => some (0x14, 0x08, f, d ++ sa ++ sb ++ (0 : BitVec 8) ++ hd ++ kind ++ scope)
  | .atomExchB32 f d sa sb kind scope => some (0x13, 0x09, f, d ++ sa ++ sb ++ (0 : BitVec 10) ++ scope ++ kind)
  | .atomsExchB32 f d sa sb hd kind scope => some (0x14, 0x09, f, d ++ sa ++ sb ++ (0 : BitVec 8) ++ hd ++ kind ++ scope)
  | .atomExchB64 f d sa sb kind scope => some (0x13, 0x0A, f, d ++ sa ++ sb ++ (0 : BitVec 10) ++ scope ++ kind)
  | .atomsExchB64 f d sa sb hd kind scope => some (0x14, 0x0A, f, d ++ sa ++ sb ++ (0 : BitVec 8) ++ hd ++ kind ++ scope)
  | .atomCasB32 f d sa sb sc kind scope => some (0x13, 0x0B, f, d ++ sa ++ sb ++ sc ++ (0 : BitVec 2) ++ scope ++ kind)
  | .atomsCasB32 f d sa sb sc hd kind scope => some (0x14, 0x0B, f, d ++ sa ++ sb ++ sc ++ hd ++ kind ++ scope)
  | .atomCasB64 f d sa sb sc kind scope => some (0x13, 0x0C, f, d ++ sa ++ sb ++ sc ++ (0 : BitVec 2) ++ scope ++ kind)
  | .atomsCasB64 f d sa sb sc hd kind scope => some (0x14, 0x0C, f, d ++ sa ++ sb ++ sc ++ hd ++ kind ++ scope)
  | .atomAddF32 f d sa sb kind scope => some (0x13, 0x0D, f, d ++ sa ++ sb ++ (0 : BitVec 10) ++ scope ++ kind)
  | .atomsAddF32 f d sa sb hd kind scope => some (0x14, 0x0D, f, d ++ sa ++ sb ++ (0 : BitVec 8) ++ hd ++ kind ++ scope)
  | .atomMinF32 f d sa sb kind scope => some (0x13, 0x0E, f, d ++ sa ++ sb ++ (0 : BitVec 10) ++ scope ++ kind)
  | .atomsMinF32 f d sa sb hd kind scope => some (0x14, 0x0E, f, d ++ sa ++ sb ++ (0 : BitVec 8) ++ hd ++ kind ++ scope)
  | .atomMaxF32 f d sa sb kind scope => some (0x13, 0x0F, f, d ++ sa ++ sb ++ (0 : BitVec 10) ++ scope ++ kind)
  | .atomsMaxF32 f d sa sb hd kind scope => some (0x14, 0x0F, f, d ++ sa ++ sb ++ (0 : BitVec 8) ++ hd ++ kind ++ scope)
  | .fence f order scope => some (0x15, 0x00, f, (0 : BitVec 35) ++ scope ++ order)
  | .pref f sa => some (0x15, 0x01, f, (0 : BitVec 8) ++ sa ++ (0 : BitVec 24))
  | .ldrop f sa => some (0x15, 0x02, f, (0 : BitVec 8) ++ sa ++ (0 : BitVec 24))
  | .qpop f d q pe => some (0x16, 0x00, f, d ++ q ++ pe ++ (0 : BitVec 16))
  | .lmsg f d sa sb len sel => some (0x16, 0x01, f, d ++ sa ++ sb ++ (0 : BitVec 9) ++ sel ++ len)
  | .hgive f hd sb tag => some (0x16, 0x02, f, (0 : BitVec 8) ++ hd ++ sb ++ tag)
  | .htake f hd tag => some (0x16, 0x03, f, (0 : BitVec 8) ++ hd ++ (0 : BitVec 8) ++ tag)
  | .barv f d b => some (0x17, 0x00, f, d ++ (0 : BitVec 16) ++ b ++ (0 : BitVec 8))
  | .bwait f b sa => some (0x17, 0x01, f, (0 : BitVec 8) ++ sa ++ (0 : BitVec 8) ++ b ++ (0 : BitVec 8))
  | .bsync f b => some (0x17, 0x02, f, (0 : BitVec 24) ++ b ++ (0 : BitVec 8))
  | .bsign f d b => some (0x17, 0x03, f, d ++ (0 : BitVec 16) ++ b ++ (0 : BitVec 8))
  | .bexp f b sa => some (0x17, 0x04, f, (0 : BitVec 8) ++ sa ++ (0 : BitVec 8) ++ b ++ (0 : BitVec 8))
  | .batt f b sa j => some (0x17, 0x05, f, (0 : BitVec 8) ++ sa ++ (0 : BitVec 8) ++ b ++ (0 : BitVec 4) ++ j)
  | .gate f idx => some (0x18, 0x00, f, (0 : BitVec 16) ++ idx)
  | .xcopy f d sa bar pm pt arr => some (0x18, 0x01, f, d ++ sa ++ (0 : BitVec 8) ++ bar ++ (0 : BitVec 5) ++ arr ++ pt ++ pm)
  | .publish f sa sb => some (0x18, 0x02, f, (0 : BitVec 8) ++ sa ++ sb ++ (0 : BitVec 16))
  | .fmnx f d sa sb => some (0x19, 0x00, f, d ++ sa ++ sb ++ (0 : BitVec 16))
  | .cvtf8 f d sa => some (0x19, 0x01, f, d ++ sa ++ (0 : BitVec 24))
  | .rdcycl f d => some (0x19, 0x02, f, d ++ (0 : BitVec 32))
  | _ => none

/-- The candidate that the opcode of an S slot less its hint bits (R143, R146) names. -/
def sSlotCandidate (w : BitVec 60) : Option SOp :=
  match (w.extractLsb' 0 6).toNat with
  | 0x00 => some (.snop)
  | 0x01 => some (.addk (w.extractLsb' 6 5) (w.extractLsb' 11 5) (w.extractLsb' 21 1) (w.extractLsb' 16 5) (w.extractLsb' 28 32))
  | 0x02 => some (.subk (w.extractLsb' 6 5) (w.extractLsb' 11 5) (w.extractLsb' 21 1) (w.extractLsb' 16 5) (w.extractLsb' 28 32))
  | 0x03 => some (.mulk (w.extractLsb' 6 5) (w.extractLsb' 11 5) (w.extractLsb' 21 1) (w.extractLsb' 16 5) (w.extractLsb' 28 32))
  | 0x04 => some (.andk (w.extractLsb' 6 5) (w.extractLsb' 11 5) (w.extractLsb' 21 1) (w.extractLsb' 16 5) (w.extractLsb' 28 32))
  | 0x05 => some (.ork (w.extractLsb' 6 5) (w.extractLsb' 11 5) (w.extractLsb' 21 1) (w.extractLsb' 16 5) (w.extractLsb' 28 32))
  | 0x06 => some (.xork (w.extractLsb' 6 5) (w.extractLsb' 11 5) (w.extractLsb' 21 1) (w.extractLsb' 16 5) (w.extractLsb' 28 32))
  | 0x07 => some (.shlk (w.extractLsb' 6 5) (w.extractLsb' 11 5) (w.extractLsb' 21 1) (w.extractLsb' 16 5) (w.extractLsb' 28 32))
  | 0x08 => some (.shrk (w.extractLsb' 6 5) (w.extractLsb' 11 5) (w.extractLsb' 21 1) (w.extractLsb' 16 5) (w.extractLsb' 28 32))
  | 0x09 => some (.sark (w.extractLsb' 6 5) (w.extractLsb' 11 5) (w.extractLsb' 21 1) (w.extractLsb' 16 5) (w.extractLsb' 28 32))
  | 0x0A => some (.mink (w.extractLsb' 6 5) (w.extractLsb' 11 5) (w.extractLsb' 21 1) (w.extractLsb' 16 5) (w.extractLsb' 28 32))
  | 0x0B => some (.maxk (w.extractLsb' 6 5) (w.extractLsb' 11 5) (w.extractLsb' 21 1) (w.extractLsb' 16 5) (w.extractLsb' 28 32))
  | 0x0C => some (.sltk (w.extractLsb' 6 5) (w.extractLsb' 11 5) (w.extractLsb' 21 1) (w.extractLsb' 16 5) (w.extractLsb' 28 32))
  | 0x0D => some (.sltku (w.extractLsb' 6 5) (w.extractLsb' 11 5) (w.extractLsb' 21 1) (w.extractLsb' 16 5) (w.extractLsb' 28 32))
  | 0x0E => some (.seqk (w.extractLsb' 6 5) (w.extractLsb' 11 5) (w.extractLsb' 21 1) (w.extractLsb' 16 5) (w.extractLsb' 28 32))
  | 0x10 => some (.movk (w.extractLsb' 6 5) (w.extractLsb' 21 1) (w.extractLsb' 11 5) (w.extractLsb' 28 32))
  | 0x11 => some (.movhk (w.extractLsb' 6 5) (w.extractLsb' 28 32))
  | 0x12 => some (.addik (w.extractLsb' 6 5) (w.extractLsb' 11 5) (w.extractLsb' 28 32))
  | 0x18 => some (.ldk (w.extractLsb' 6 5) (w.extractLsb' 11 5) (w.extractLsb' 21 2) (w.extractLsb' 23 1) (w.extractLsb' 24 4) (w.extractLsb' 28 32))
  | 0x19 => some (.stk (w.extractLsb' 11 5) (w.extractLsb' 16 5) (w.extractLsb' 21 2) (w.extractLsb' 24 4) (w.extractLsb' 28 32))
  | 0x20 => some (.brk (w.extractLsb' 28 32))
  | 0x21 => some (.bnzk (w.extractLsb' 11 5) (w.extractLsb' 28 32))
  | 0x22 => some (.loop (w.extractLsb' 6 2) (w.extractLsb' 21 1) (w.extractLsb' 11 5) (w.extractLsb' 28 16) (w.extractLsb' 44 16))
  | 0x23 => some (.lend (w.extractLsb' 6 2) (w.extractLsb' 28 16))
  | 0x28 => some (.setst (w.extractLsb' 21 1) (w.extractLsb' 11 5) (w.extractLsb' 28 8) (w.extractLsb' 36 24))
  | 0x29 => some (.setbd (w.extractLsb' 6 4) (w.extractLsb' 21 1) (w.extractLsb' 11 5) (w.extractLsb' 28 32))
  | 0x2A => some (.setad (w.extractLsb' 6 4) (w.extractLsb' 11 5) (w.extractLsb' 28 16))
  | 0x2B => some (.setd (w.extractLsb' 6 5) (w.extractLsb' 11 5) (w.extractLsb' 24 4) (w.extractLsb' 28 32))
  | 0x2C => some (.rdsrk (w.extractLsb' 6 5) (w.extractLsb' 28 8))
  | 0x2D => some (.wrsrk (w.extractLsb' 11 5) (w.extractLsb' 28 8))
  | 0x30 => some (.arrk (w.extractLsb' 6 5) (w.extractLsb' 21 4))
  | 0x31 => some (.waitk (w.extractLsb' 21 4) (w.extractLsb' 11 5))
  | 0x32 => some (.sleepk (w.extractLsb' 11 5))
  | 0x33 => some (.gret)
  | _ => none

/-- The bits of an S slot less its hint bits (R143, R146). -/
def sSlotBits (i : SOp) : BitVec 60 :=
  match i with
  | .snop => (0 : BitVec 54) ++ (0x0 : BitVec 6)
  | .addk kd ka i kb imm => imm ++ (0 : BitVec 6) ++ i ++ kb ++ ka ++ kd ++ (0x1 : BitVec 6)
  | .subk kd ka i kb imm => imm ++ (0 : BitVec 6) ++ i ++ kb ++ ka ++ kd ++ (0x2 : BitVec 6)
  | .mulk kd ka i kb imm => imm ++ (0 : BitVec 6) ++ i ++ kb ++ ka ++ kd ++ (0x3 : BitVec 6)
  | .andk kd ka i kb imm => imm ++ (0 : BitVec 6) ++ i ++ kb ++ ka ++ kd ++ (0x4 : BitVec 6)
  | .ork kd ka i kb imm => imm ++ (0 : BitVec 6) ++ i ++ kb ++ ka ++ kd ++ (0x5 : BitVec 6)
  | .xork kd ka i kb imm => imm ++ (0 : BitVec 6) ++ i ++ kb ++ ka ++ kd ++ (0x6 : BitVec 6)
  | .shlk kd ka i kb imm => imm ++ (0 : BitVec 6) ++ i ++ kb ++ ka ++ kd ++ (0x7 : BitVec 6)
  | .shrk kd ka i kb imm => imm ++ (0 : BitVec 6) ++ i ++ kb ++ ka ++ kd ++ (0x8 : BitVec 6)
  | .sark kd ka i kb imm => imm ++ (0 : BitVec 6) ++ i ++ kb ++ ka ++ kd ++ (0x9 : BitVec 6)
  | .mink kd ka i kb imm => imm ++ (0 : BitVec 6) ++ i ++ kb ++ ka ++ kd ++ (0xa : BitVec 6)
  | .maxk kd ka i kb imm => imm ++ (0 : BitVec 6) ++ i ++ kb ++ ka ++ kd ++ (0xb : BitVec 6)
  | .sltk kd ka i kb imm => imm ++ (0 : BitVec 6) ++ i ++ kb ++ ka ++ kd ++ (0xc : BitVec 6)
  | .sltku kd ka i kb imm => imm ++ (0 : BitVec 6) ++ i ++ kb ++ ka ++ kd ++ (0xd : BitVec 6)
  | .seqk kd ka i kb imm => imm ++ (0 : BitVec 6) ++ i ++ kb ++ ka ++ kd ++ (0xe : BitVec 6)
  | .movk kd i ka imm => imm ++ (0 : BitVec 6) ++ i ++ (0 : BitVec 5) ++ ka ++ kd ++ (0x10 : BitVec 6)
  | .movhk kd imm => imm ++ (0 : BitVec 17) ++ kd ++ (0x11 : BitVec 6)
  | .addik kd ka imm => imm ++ (0 : BitVec 12) ++ ka ++ kd ++ (0x12 : BitVec 6)
  | .ldk kd ka size sx hd imm => imm ++ hd ++ sx ++ size ++ (0 : BitVec 5) ++ ka ++ kd ++ (0x18 : BitVec 6)
  | .stk ka kb size hd imm => imm ++ hd ++ (0 : BitVec 1) ++ size ++ kb ++ ka ++ (0 : BitVec 5) ++ (0x19 : BitVec 6)
  | .brk off => off ++ (0 : BitVec 22) ++ (0x20 : BitVec 6)
  | .bnzk ka off => off ++ (0 : BitVec 12) ++ ka ++ (0 : BitVec 5) ++ (0x21 : BitVec 6)
  | .loop n i ka len count => count ++ len ++ (0 : BitVec 6) ++ i ++ (0 : BitVec 5) ++ ka ++ (0 : BitVec 3) ++ n ++ (0x22 : BitVec 6)
  | .lend n len => (0 : BitVec 16) ++ len ++ (0 : BitVec 20) ++ n ++ (0x23 : BitVec 6)
  | .setst i ka mask fc => fc ++ mask ++ (0 : BitVec 6) ++ i ++ (0 : BitVec 5) ++ ka ++ (0 : BitVec 5) ++ (0x28 : BitVec 6)
  | .setbd n i ka imm => imm ++ (0 : BitVec 6) ++ i ++ (0 : BitVec 5) ++ ka ++ (0 : BitVec 1) ++ n ++ (0x29 : BitVec 6)
  | .setad n ka step => (0 : BitVec 16) ++ step ++ (0 : BitVec 12) ++ ka ++ (0 : BitVec 1) ++ n ++ (0x2a : BitVec 6)
  | .setd n ka hd imm => imm ++ hd ++ (0 : BitVec 8) ++ ka ++ n ++ (0x2b : BitVec 6)
  | .rdsrk kd num => (0 : BitVec 24) ++ num ++ (0 : BitVec 17) ++ kd ++ (0x2c : BitVec 6)
  | .wrsrk ka num => (0 : BitVec 24) ++ num ++ (0 : BitVec 12) ++ ka ++ (0 : BitVec 5) ++ (0x2d : BitVec 6)
  | .arrk kd b => (0 : BitVec 35) ++ b ++ (0 : BitVec 10) ++ kd ++ (0x30 : BitVec 6)
  | .waitk b ka => (0 : BitVec 35) ++ b ++ (0 : BitVec 5) ++ ka ++ (0 : BitVec 5) ++ (0x31 : BitVec 6)
  | .sleepk ka => (0 : BitVec 44) ++ ka ++ (0 : BitVec 5) ++ (0x32 : BitVec 6)
  | .gret => (0 : BitVec 54) ++ (0x33 : BitVec 6)

/-- The candidate that the opcode of a V slot (R143, R146) names. -/
def vSlotCandidate (w : BitVec 64) : Option VOp :=
  match (w.extractLsb' 0 6).toNat with
  | 0x00 => some (.vnop ⟨w.extractLsb' 6 1, w.extractLsb' 7 3⟩)
  | 0x01 => some (.vadd ⟨w.extractLsb' 6 1, w.extractLsb' 7 3⟩ (w.extractLsb' 10 7) (w.extractLsb' 17 7) (w.extractLsb' 24 7) (w.extractLsb' 38 5) (w.extractLsb' 43 2) (w.extractLsb' 45 1))
  | 0x02 => some (.vsub ⟨w.extractLsb' 6 1, w.extractLsb' 7 3⟩ (w.extractLsb' 10 7) (w.extractLsb' 17 7) (w.extractLsb' 24 7) (w.extractLsb' 38 5) (w.extractLsb' 43 2) (w.extractLsb' 45 1))
  | 0x03 => some (.vmul ⟨w.extractLsb' 6 1, w.extractLsb' 7 3⟩ (w.extractLsb' 10 7) (w.extractLsb' 17 7) (w.extractLsb' 24 7) (w.extractLsb' 38 5) (w.extractLsb' 43 2) (w.extractLsb' 45 1))
  | 0x04 => some (.vfma ⟨w.extractLsb' 6 1, w.extractLsb' 7 3⟩ (w.extractLsb' 10 7) (w.extractLsb' 17 7) (w.extractLsb' 24 7) (w.extractLsb' 31 7) (w.extractLsb' 38 5) (w.extractLsb' 43 2) (w.extractLsb' 45 1))
  | 0x05 => some (.vmin ⟨w.extractLsb' 6 1, w.extractLsb' 7 3⟩ (w.extractLsb' 10 7) (w.extractLsb' 17 7) (w.extractLsb' 24 7) (w.extractLsb' 38 5))
  | 0x06 => some (.vmax ⟨w.extractLsb' 6 1, w.extractLsb' 7 3⟩ (w.extractLsb' 10 7) (w.extractLsb' 17 7) (w.extractLsb' 24 7) (w.extractLsb' 38 5))
  | 0x07 => some (.vabs ⟨w.extractLsb' 6 1, w.extractLsb' 7 3⟩ (w.extractLsb' 10 7) (w.extractLsb' 17 7) (w.extractLsb' 38 5) (w.extractLsb' 45 1))
  | 0x08 => some (.vneg ⟨w.extractLsb' 6 1, w.extractLsb' 7 3⟩ (w.extractLsb' 10 7) (w.extractLsb' 17 7) (w.extractLsb' 38 5) (w.extractLsb' 45 1))
  | 0x09 => some (.vand ⟨w.extractLsb' 6 1, w.extractLsb' 7 3⟩ (w.extractLsb' 10 7) (w.extractLsb' 17 7) (w.extractLsb' 24 7))
  | 0x0A => some (.vor ⟨w.extractLsb' 6 1, w.extractLsb' 7 3⟩ (w.extractLsb' 10 7) (w.extractLsb' 17 7) (w.extractLsb' 24 7))
  | 0x0B => some (.vxor ⟨w.extractLsb' 6 1, w.extractLsb' 7 3⟩ (w.extractLsb' 10 7) (w.extractLsb' 17 7) (w.extractLsb' 24 7))
  | 0x0C => some (.vshl ⟨w.extractLsb' 6 1, w.extractLsb' 7 3⟩ (w.extractLsb' 10 7) (w.extractLsb' 17 7) (w.extractLsb' 24 7) (w.extractLsb' 38 5))
  | 0x0D => some (.vshr ⟨w.extractLsb' 6 1, w.extractLsb' 7 3⟩ (w.extractLsb' 10 7) (w.extractLsb' 17 7) (w.extractLsb' 24 7) (w.extractLsb' 38 5))
  | 0x0E => some (.vsar ⟨w.extractLsb' 6 1, w.extractLsb' 7 3⟩ (w.extractLsb' 10 7) (w.extractLsb' 17 7) (w.extractLsb' 24 7) (w.extractLsb' 38 5))
  | 0x10 => some (.vcmp ⟨w.extractLsb' 6 1, w.extractLsb' 7 3⟩ (w.extractLsb' 10 7) (w.extractLsb' 17 7) (w.extractLsb' 24 7) (w.extractLsb' 38 5) (w.extractLsb' 46 3))
  | 0x11 => some (.vsel ⟨w.extractLsb' 6 1, w.extractLsb' 7 3⟩ (w.extractLsb' 10 7) (w.extractLsb' 17 7) (w.extractLsb' 24 7) (w.extractLsb' 31 7) (w.extractLsb' 38 5))
  | 0x14 => some (.vrcp ⟨w.extractLsb' 6 1, w.extractLsb' 7 3⟩ (w.extractLsb' 10 7) (w.extractLsb' 17 7) (w.extractLsb' 38 5) (w.extractLsb' 43 2) (w.extractLsb' 45 1))
  | 0x15 => some (.vrsq ⟨w.extractLsb' 6 1, w.extractLsb' 7 3⟩ (w.extractLsb' 10 7) (w.extractLsb' 17 7) (w.extractLsb' 38 5) (w.extractLsb' 43 2) (w.extractLsb' 45 1))
  | 0x16 => some (.vexp2 ⟨w.extractLsb' 6 1, w.extractLsb' 7 3⟩ (w.extractLsb' 10 7) (w.extractLsb' 17 7) (w.extractLsb' 38 5) (w.extractLsb' 43 2) (w.extractLsb' 45 1))
  | 0x17 => some (.vlog2 ⟨w.extractLsb' 6 1, w.extractLsb' 7 3⟩ (w.extractLsb' 10 7) (w.extractLsb' 17 7) (w.extractLsb' 38 5) (w.extractLsb' 43 2) (w.extractLsb' 45 1))
  | 0x18 => some (.vcvt ⟨w.extractLsb' 6 1, w.extractLsb' 7 3⟩ (w.extractLsb' 10 7) (w.extractLsb' 17 7) (w.extractLsb' 38 5) (w.extractLsb' 46 5) (w.extractLsb' 51 2) (w.extractLsb' 43 2) (w.extractLsb' 45 1))
  | 0x19 => some (.vscale ⟨w.extractLsb' 6 1, w.extractLsb' 7 3⟩ (w.extractLsb' 10 7) (w.extractLsb' 17 7) (w.extractLsb' 24 7) (w.extractLsb' 38 5) (w.extractLsb' 46 5) (w.extractLsb' 51 2) (w.extractLsb' 53 1) (w.extractLsb' 54 3) (w.extractLsb' 43 2) (w.extractLsb' 45 1))
  | 0x1C => some (.vredl ⟨w.extractLsb' 6 1, w.extractLsb' 7 3⟩ (w.extractLsb' 10 7) (w.extractLsb' 17 7) (w.extractLsb' 38 5) (w.extractLsb' 46 2) (w.extractLsb' 43 2) (w.extractLsb' 45 1))
  | 0x1D => some (.vredr ⟨w.extractLsb' 6 1, w.extractLsb' 7 3⟩ (w.extractLsb' 10 7) (w.extractLsb' 17 7) (w.extractLsb' 38 5) (w.extractLsb' 46 2) (w.extractLsb' 48 5) (w.extractLsb' 43 2) (w.extractLsb' 45 1))
  | 0x20 => some (.vld ⟨w.extractLsb' 6 1, w.extractLsb' 7 3⟩ (w.extractLsb' 10 7) (w.extractLsb' 46 4) (w.extractLsb' 50 4) (w.extractLsb' 54 1) (w.extractLsb' 55 9))
  | 0x21 => some (.vst ⟨w.extractLsb' 6 1, w.extractLsb' 7 3⟩ (w.extractLsb' 17 7) (w.extractLsb' 46 4) (w.extractLsb' 50 4) (w.extractLsb' 54 1) (w.extractLsb' 55 9))
  | 0x22 => some (.vbcast ⟨w.extractLsb' 6 1, w.extractLsb' 7 3⟩ (w.extractLsb' 10 7) (w.extractLsb' 17 7) (w.extractLsb' 38 5) (w.extractLsb' 62 1) (w.extractLsb' 46 8))
  | 0x23 => some (.vmov ⟨w.extractLsb' 6 1, w.extractLsb' 7 3⟩ (w.extractLsb' 10 7) (w.extractLsb' 17 7))
  | 0x24 => some (.vqpop ⟨w.extractLsb' 6 1, w.extractLsb' 7 3⟩ (w.extractLsb' 10 7) (w.extractLsb' 46 3))
  | _ => none

/-- The bits of a V slot (R143, R146). -/
def vSlotBits (i : VOp) : BitVec 64 :=
  match i with
  | .vnop g => (0 : BitVec 54) ++ g.st ++ g.en ++ (0x0 : BitVec 6)
  | .vadd g vd va vb t rm sat => (0 : BitVec 18) ++ sat ++ rm ++ t ++ (0 : BitVec 7) ++ vb ++ va ++ vd ++ g.st ++ g.en ++ (0x1 : BitVec 6)
  | .vsub g vd va vb t rm sat => (0 : BitVec 18) ++ sat ++ rm ++ t ++ (0 : BitVec 7) ++ vb ++ va ++ vd ++ g.st ++ g.en ++ (0x2 : BitVec 6)
  | .vmul g vd va vb t rm sat => (0 : BitVec 18) ++ sat ++ rm ++ t ++ (0 : BitVec 7) ++ vb ++ va ++ vd ++ g.st ++ g.en ++ (0x3 : BitVec 6)
  | .vfma g vd va vb vc t rm sat => (0 : BitVec 18) ++ sat ++ rm ++ t ++ vc ++ vb ++ va ++ vd ++ g.st ++ g.en ++ (0x4 : BitVec 6)
  | .vmin g vd va vb t => (0 : BitVec 21) ++ t ++ (0 : BitVec 7) ++ vb ++ va ++ vd ++ g.st ++ g.en ++ (0x5 : BitVec 6)
  | .vmax g vd va vb t => (0 : BitVec 21) ++ t ++ (0 : BitVec 7) ++ vb ++ va ++ vd ++ g.st ++ g.en ++ (0x6 : BitVec 6)
  | .vabs g vd va t sat => (0 : BitVec 18) ++ sat ++ (0 : BitVec 2) ++ t ++ (0 : BitVec 14) ++ va ++ vd ++ g.st ++ g.en ++ (0x7 : BitVec 6)
  | .vneg g vd va t sat => (0 : BitVec 18) ++ sat ++ (0 : BitVec 2) ++ t ++ (0 : BitVec 14) ++ va ++ vd ++ g.st ++ g.en ++ (0x8 : BitVec 6)
  | .vand g vd va vb => (0 : BitVec 33) ++ vb ++ va ++ vd ++ g.st ++ g.en ++ (0x9 : BitVec 6)
  | .vor g vd va vb => (0 : BitVec 33) ++ vb ++ va ++ vd ++ g.st ++ g.en ++ (0xa : BitVec 6)
  | .vxor g vd va vb => (0 : BitVec 33) ++ vb ++ va ++ vd ++ g.st ++ g.en ++ (0xb : BitVec 6)
  | .vshl g vd va vb t => (0 : BitVec 21) ++ t ++ (0 : BitVec 7) ++ vb ++ va ++ vd ++ g.st ++ g.en ++ (0xc : BitVec 6)
  | .vshr g vd va vb t => (0 : BitVec 21) ++ t ++ (0 : BitVec 7) ++ vb ++ va ++ vd ++ g.st ++ g.en ++ (0xd : BitVec 6)
  | .vsar g vd va vb t => (0 : BitVec 21) ++ t ++ (0 : BitVec 7) ++ vb ++ va ++ vd ++ g.st ++ g.en ++ (0xe : BitVec 6)
  | .vcmp g vd va vb t cc => (0 : BitVec 15) ++ cc ++ (0 : BitVec 3) ++ t ++ (0 : BitVec 7) ++ vb ++ va ++ vd ++ g.st ++ g.en ++ (0x10 : BitVec 6)
  | .vsel g vd va vb vc t => (0 : BitVec 21) ++ t ++ vc ++ vb ++ va ++ vd ++ g.st ++ g.en ++ (0x11 : BitVec 6)
  | .vrcp g vd va t rm sat => (0 : BitVec 18) ++ sat ++ rm ++ t ++ (0 : BitVec 14) ++ va ++ vd ++ g.st ++ g.en ++ (0x14 : BitVec 6)
  | .vrsq g vd va t rm sat => (0 : BitVec 18) ++ sat ++ rm ++ t ++ (0 : BitVec 14) ++ va ++ vd ++ g.st ++ g.en ++ (0x15 : BitVec 6)
  | .vexp2 g vd va t rm sat => (0 : BitVec 18) ++ sat ++ rm ++ t ++ (0 : BitVec 14) ++ va ++ vd ++ g.st ++ g.en ++ (0x16 : BitVec 6)
  | .vlog2 g vd va t rm sat => (0 : BitVec 18) ++ sat ++ rm ++ t ++ (0 : BitVec 14) ++ va ++ vd ++ g.st ++ g.en ++ (0x17 : BitVec 6)
  | .vcvt g vd va sf df part rm sat => (0 : BitVec 11) ++ part ++ df ++ sat ++ rm ++ sf ++ (0 : BitVec 14) ++ va ++ vd ++ g.st ++ g.en ++ (0x18 : BitVec 6)
  | .vscale g vd va vb sf df part e8 lg rm sat => (0 : BitVec 7) ++ lg ++ e8 ++ part ++ df ++ sat ++ rm ++ sf ++ (0 : BitVec 7) ++ vb ++ va ++ vd ++ g.st ++ g.en ++ (0x19 : BitVec 6)
  | .vredl g vd va t op rm sat => (0 : BitVec 16) ++ op ++ sat ++ rm ++ t ++ (0 : BitVec 14) ++ va ++ vd ++ g.st ++ g.en ++ (0x1c : BitVec 6)
  | .vredr g vd va t op cnt rm sat => (0 : BitVec 11) ++ cnt ++ op ++ sat ++ rm ++ t ++ (0 : BitVec 14) ++ va ++ vd ++ g.st ++ g.en ++ (0x1d : BitVec 6)
  | .vld g vd hd ad use off => off ++ use ++ ad ++ hd ++ (0 : BitVec 29) ++ vd ++ g.st ++ g.en ++ (0x20 : BitVec 6)
  | .vst g va hd ad use off => off ++ use ++ ad ++ hd ++ (0 : BitVec 22) ++ va ++ (0 : BitVec 7) ++ g.st ++ g.en ++ (0x21 : BitVec 6)
  | .vbcast g vd va t usek lane => (0 : BitVec 1) ++ usek ++ (0 : BitVec 8) ++ lane ++ (0 : BitVec 3) ++ t ++ (0 : BitVec 14) ++ va ++ vd ++ g.st ++ g.en ++ (0x22 : BitVec 6)
  | .vmov g vd va => (0 : BitVec 40) ++ va ++ vd ++ g.st ++ g.en ++ (0x23 : BitVec 6)
  | .vqpop g vd q => (0 : BitVec 15) ++ q ++ (0 : BitVec 29) ++ vd ++ g.st ++ g.en ++ (0x24 : BitVec 6)

/-- The candidate that the opcode of an M slot (R143, R146) names. -/
def mSlotCandidate (w : BitVec 48) : Option MOp :=
  match (w.extractLsb' 0 5).toNat with
  | 0x00 => some (.mnop ⟨w.extractLsb' 5 1, w.extractLsb' 6 3⟩)
  | 0x01 => some (.mma ⟨w.extractLsb' 5 1, w.extractLsb' 6 3⟩ (w.extractLsb' 9 8) (w.extractLsb' 17 8) (w.extractLsb' 25 7) (w.extractLsb' 32 4) (w.extractLsb' 36 5) (w.extractLsb' 41 1) (w.extractLsb' 42 1) (w.extractLsb' 43 5))
  | 0x02 => some (.mmaq ⟨w.extractLsb' 5 1, w.extractLsb' 6 3⟩ (w.extractLsb' 9 8) (w.extractLsb' 17 3) (w.extractLsb' 25 7) (w.extractLsb' 32 4) (w.extractLsb' 36 5) (w.extractLsb' 41 1) (w.extractLsb' 42 1) (w.extractLsb' 43 5))
  | 0x03 => some (.bload ⟨w.extractLsb' 5 1, w.extractLsb' 6 3⟩ (w.extractLsb' 9 7) (w.extractLsb' 16 8) (w.extractLsb' 24 5) (w.extractLsb' 29 1) (w.extractLsb' 30 1))
  | 0x04 => some (.bloadq ⟨w.extractLsb' 5 1, w.extractLsb' 6 3⟩ (w.extractLsb' 9 7) (w.extractLsb' 16 3) (w.extractLsb' 24 5) (w.extractLsb' 29 1) (w.extractLsb' 30 1))
  | 0x05 => some (.mclr ⟨w.extractLsb' 5 1, w.extractLsb' 6 3⟩ (w.extractLsb' 9 8) (w.extractLsb' 17 6) (w.extractLsb' 23 1))
  | _ => none

/-- The bits of an M slot (R143, R146). -/
def mSlotBits (i : MOp) : BitVec 48 :=
  match i with
  | .mnop g => (0 : BitVec 39) ++ g.st ++ g.en ++ (0x0 : BitVec 5)
  | .mma g c a unit rows af corr sat cpk => cpk ++ sat ++ corr ++ af ++ rows ++ unit ++ a ++ c ++ g.st ++ g.en ++ (0x1 : BitVec 5)
  | .mmaq g c q unit rows af corr sat cpk => cpk ++ sat ++ corr ++ af ++ rows ++ unit ++ (0 : BitVec 5) ++ q ++ c ++ g.st ++ g.en ++ (0x2 : BitVec 5)
  | .bload g unit src bf corr mx => (0 : BitVec 17) ++ mx ++ corr ++ bf ++ src ++ unit ++ g.st ++ g.en ++ (0x3 : BitVec 5)
  | .bloadq g unit q bf corr mx => (0 : BitVec 17) ++ mx ++ corr ++ bf ++ (0 : BitVec 5) ++ q ++ unit ++ g.st ++ g.en ++ (0x4 : BitVec 5)
  | .mclr g c cnt w => (0 : BitVec 24) ++ w ++ cnt ++ c ++ g.st ++ g.en ++ (0x5 : BitVec 5)

/-- The candidate that the opcode of a C slot (R143, R146) names. -/
def cSlotCandidate (w : BitVec 48) : Option COp :=
  match (w.extractLsb' 0 5).toNat with
  | 0x00 => some (.cnop ⟨w.extractLsb' 5 1, w.extractLsb' 6 3⟩)
  | 0x01 => some (.copy ⟨w.extractLsb' 5 1, w.extractLsb' 6 3⟩ (w.extractLsb' 9 5) (w.extractLsb' 14 5) (w.extractLsb' 19 4) (w.extractLsb' 23 1) (w.extractLsb' 24 4) (w.extractLsb' 28 1) (w.extractLsb' 29 4) (w.extractLsb' 33 1) (w.extractLsb' 34 5) (w.extractLsb' 39 1))
  | 0x02 => some (.copyp ⟨w.extractLsb' 5 1, w.extractLsb' 6 3⟩ (w.extractLsb' 9 5) (w.extractLsb' 14 5) (w.extractLsb' 19 4) (w.extractLsb' 23 1) (w.extractLsb' 24 4) (w.extractLsb' 28 1) (w.extractLsb' 29 4) (w.extractLsb' 33 1) (w.extractLsb' 34 5) (w.extractLsb' 39 1))
  | 0x03 => some (.cpack ⟨w.extractLsb' 5 1, w.extractLsb' 6 3⟩ (w.extractLsb' 9 5) (w.extractLsb' 14 5) (w.extractLsb' 19 4) (w.extractLsb' 23 1) (w.extractLsb' 24 4) (w.extractLsb' 28 1) (w.extractLsb' 29 4) (w.extractLsb' 33 1) (w.extractLsb' 34 5) (w.extractLsb' 39 1) (w.extractLsb' 40 8))
  | 0x04 => some (.cunpk ⟨w.extractLsb' 5 1, w.extractLsb' 6 3⟩ (w.extractLsb' 9 5) (w.extractLsb' 14 5) (w.extractLsb' 19 4) (w.extractLsb' 23 1) (w.extractLsb' 24 4) (w.extractLsb' 28 1) (w.extractLsb' 29 4) (w.extractLsb' 33 1) (w.extractLsb' 34 5) (w.extractLsb' 39 1) (w.extractLsb' 40 8))
  | 0x05 => some (.pub ⟨w.extractLsb' 5 1, w.extractLsb' 6 3⟩ (w.extractLsb' 9 5) (w.extractLsb' 14 5) (w.extractLsb' 29 4) (w.extractLsb' 33 1) (w.extractLsb' 34 5) (w.extractLsb' 39 1))
  | _ => none

/-- The bits of a C slot (R143, R146). -/
def cSlotBits (i : COp) : BitVec 48 :=
  match i with
  | .cnop g => (0 : BitVec 39) ++ g.st ++ g.en ++ (0x0 : BitVec 5)
  | .copy g ds dd ada sae adb dae bar bae kp pt => (0 : BitVec 8) ++ pt ++ kp ++ bae ++ bar ++ dae ++ adb ++ sae ++ ada ++ dd ++ ds ++ g.st ++ g.en ++ (0x1 : BitVec 5)
  | .copyp g ds dd ada sae adb dae bar bae kp pt => (0 : BitVec 8) ++ pt ++ kp ++ bae ++ bar ++ dae ++ adb ++ sae ++ ada ++ dd ++ ds ++ g.st ++ g.en ++ (0x2 : BitVec 5)
  | .cpack g ds dd ada sae adb dae bar bae kp pt fac => fac ++ pt ++ kp ++ bae ++ bar ++ dae ++ adb ++ sae ++ ada ++ dd ++ ds ++ g.st ++ g.en ++ (0x3 : BitVec 5)
  | .cunpk g ds dd ada sae adb dae bar bae kp pt fac => fac ++ pt ++ kp ++ bae ++ bar ++ dae ++ adb ++ sae ++ ada ++ dd ++ ds ++ g.st ++ g.en ++ (0x4 : BitVec 5)
  | .pub g ka kb bar bae kp pt => (0 : BitVec 8) ++ pt ++ kp ++ bae ++ bar ++ (0 : BitVec 10) ++ kb ++ ka ++ g.st ++ g.en ++ (0x5 : BitVec 5)

/-- The candidate that the opcode of an X slot (R143, R146) names. -/
def xSlotCandidate (w : BitVec 24) : Option XOp :=
  match (w.extractLsb' 0 4).toNat with
  | 0x00 => some (.xnop ⟨w.extractLsb' 4 1, w.extractLsb' 5 3⟩)
  | 0x01 => some (.xpose ⟨w.extractLsb' 4 1, w.extractLsb' 5 3⟩ (w.extractLsb' 8 8) (w.extractLsb' 16 8))
  | 0x02 => some (.chain ⟨w.extractLsb' 4 1, w.extractLsb' 5 3⟩ (w.extractLsb' 8 5) (w.extractLsb' 13 5) (w.extractLsb' 18 4))
  | 0x03 => some (.chord ⟨w.extractLsb' 4 1, w.extractLsb' 5 3⟩ (w.extractLsb' 8 5) (w.extractLsb' 13 4) (w.extractLsb' 17 6))
  | 0x04 => some (.chstep ⟨w.extractLsb' 4 1, w.extractLsb' 5 3⟩ (w.extractLsb' 8 6) (w.extractLsb' 14 4) (w.extractLsb' 18 1))
  | 0x05 => some (.chend ⟨w.extractLsb' 4 1, w.extractLsb' 5 3⟩ (w.extractLsb' 8 5))
  | _ => none

/-- The bits of an X slot (R143, R146). -/
def xSlotBits (i : XOp) : BitVec 24 :=
  match i with
  | .xnop g => (0 : BitVec 16) ++ g.st ++ g.en ++ (0x0 : BitVec 4)
  | .xpose g c a => a ++ c ++ g.st ++ g.en ++ (0x1 : BitVec 4)
  | .chain g ka kb n => (0 : BitVec 2) ++ n ++ kb ++ ka ++ g.st ++ g.en ++ (0x2 : BitVec 4)
  | .chord g ka hd cnt => (0 : BitVec 1) ++ cnt ++ hd ++ ka ++ g.st ++ g.en ++ (0x3 : BitVec 4)
  | .chstep g cnt b bae => (0 : BitVec 5) ++ bae ++ b ++ cnt ++ g.st ++ g.en ++ (0x4 : BitVec 4)
  | .chend g kd => (0 : BitVec 11) ++ kd ++ g.st ++ g.en ++ (0x5 : BitVec 4)

/-- The candidate that the opcode of a stream word (R147, R148) names. -/
def streamCandidate (w : BitVec 32) : Option Instr :=
  match (w.extractLsb' 26 6).toNat with
  | 0x00 => some (.pnop)
  | 0x01 => some (.pli (w.extractLsb' 22 4) (w.extractLsb' 0 22))
  | 0x02 => some (.padd (w.extractLsb' 22 4) (w.extractLsb' 18 4) (w.extractLsb' 14 4))
  | 0x03 => some (.psub (w.extractLsb' 22 4) (w.extractLsb' 18 4) (w.extractLsb' 14 4))
  | 0x04 => some (.pand (w.extractLsb' 22 4) (w.extractLsb' 18 4) (w.extractLsb' 14 4))
  | 0x05 => some (.por (w.extractLsb' 22 4) (w.extractLsb' 18 4) (w.extractLsb' 14 4))
  | 0x06 => some (.pshl (w.extractLsb' 22 4) (w.extractLsb' 18 4) (w.extractLsb' 14 4))
  | 0x07 => some (.pshr (w.extractLsb' 22 4) (w.extractLsb' 18 4) (w.extractLsb' 14 4))
  | 0x08 => some (.paddi (w.extractLsb' 22 4) (w.extractLsb' 18 4) (w.extractLsb' 0 14))
  | 0x0A => some (.pjmp (w.extractLsb' 0 22))
  | 0x0B => some (.pbnz (w.extractLsb' 18 4) (w.extractLsb' 0 14))
  | 0x0C => some (.pbeq (w.extractLsb' 18 4) (w.extractLsb' 14 4) (w.extractLsb' 0 14))
  | 0x10 => some (.pchunk (w.extractLsb' 22 4))
  | 0x11 => some (.pbits (w.extractLsb' 22 4) (w.extractLsb' 0 6))
  | 0x12 => some (.ptab (w.extractLsb' 0 4))
  | 0x13 => some (.psym (w.extractLsb' 22 4) (w.extractLsb' 0 4))
  | 0x14 => some (.plit (w.extractLsb' 18 4) (w.extractLsb' 0 14))
  | 0x15 => some (.pbref (w.extractLsb' 18 4) (w.extractLsb' 14 4))
  | 0x16 => some (.palign)
  | 0x18 => some (.pplane (w.extractLsb' 0 4) (w.extractLsb' 4 1))
  | 0x19 => some (.pcvt (w.extractLsb' 18 4) (w.extractLsb' 0 5) (w.extractLsb' 5 5) (w.extractLsb' 10 2) (w.extractLsb' 12 1))
  | 0x1A => some (.pscale (w.extractLsb' 18 4) (w.extractLsb' 14 4) (w.extractLsb' 0 5) (w.extractLsb' 5 5) (w.extractLsb' 10 2) (w.extractLsb' 12 1) (w.extractLsb' 13 1))
  | 0x1C => some (.ppush (w.extractLsb' 0 3))
  | 0x1D => some (.peos (w.extractLsb' 0 8))
  | 0x1E => some (.pmode (w.extractLsb' 0 1) (w.extractLsb' 1 6))
  | 0x1F => some (.pscout (w.extractLsb' 22 4))
  | 0x20 => some (.pend)
  | _ => none

/-- The bits of a stream word (R147, R148). -/
def streamBits (i : Instr) : Option (BitVec 32) :=
  match i with
  | .pnop => some ((0x0 : BitVec 6) ++ (0 : BitVec 26))
  | .pli md imm => some ((0x1 : BitVec 6) ++ md ++ imm)
  | .padd md ma mb => some ((0x2 : BitVec 6) ++ md ++ ma ++ mb ++ (0 : BitVec 14))
  | .psub md ma mb => some ((0x3 : BitVec 6) ++ md ++ ma ++ mb ++ (0 : BitVec 14))
  | .pand md ma mb => some ((0x4 : BitVec 6) ++ md ++ ma ++ mb ++ (0 : BitVec 14))
  | .por md ma mb => some ((0x5 : BitVec 6) ++ md ++ ma ++ mb ++ (0 : BitVec 14))
  | .pshl md ma mb => some ((0x6 : BitVec 6) ++ md ++ ma ++ mb ++ (0 : BitVec 14))
  | .pshr md ma mb => some ((0x7 : BitVec 6) ++ md ++ ma ++ mb ++ (0 : BitVec 14))
  | .paddi md ma imm => some ((0x8 : BitVec 6) ++ md ++ ma ++ (0 : BitVec 4) ++ imm)
  | .pjmp off => some ((0xa : BitVec 6) ++ (0 : BitVec 4) ++ off)
  | .pbnz ma off => some ((0xb : BitVec 6) ++ (0 : BitVec 4) ++ ma ++ (0 : BitVec 4) ++ off)
  | .pbeq ma mb off => some ((0xc : BitVec 6) ++ (0 : BitVec 4) ++ ma ++ mb ++ off)
  | .pchunk md => some ((0x10 : BitVec 6) ++ md ++ (0 : BitVec 22))
  | .pbits md n => some ((0x11 : BitVec 6) ++ md ++ (0 : BitVec 16) ++ n)
  | .ptab n => some ((0x12 : BitVec 6) ++ (0 : BitVec 22) ++ n)
  | .psym md n => some ((0x13 : BitVec 6) ++ md ++ (0 : BitVec 18) ++ n)
  | .plit ma n => some ((0x14 : BitVec 6) ++ (0 : BitVec 4) ++ ma ++ (0 : BitVec 4) ++ n)
  | .pbref ma mb => some ((0x15 : BitVec 6) ++ (0 : BitVec 4) ++ ma ++ mb ++ (0 : BitVec 14))
  | .palign => some ((0x16 : BitVec 6) ++ (0 : BitVec 26))
  | .pplane k corr => some ((0x18 : BitVec 6) ++ (0 : BitVec 21) ++ corr ++ k)
  | .pcvt ma sf df rm sat => some ((0x19 : BitVec 6) ++ (0 : BitVec 4) ++ ma ++ (0 : BitVec 5) ++ sat ++ rm ++ df ++ sf)
  | .pscale ma mb sf df rm sat e8 => some ((0x1a : BitVec 6) ++ (0 : BitVec 4) ++ ma ++ mb ++ e8 ++ sat ++ rm ++ df ++ sf)
  | .ppush q => some ((0x1c : BitVec 6) ++ (0 : BitVec 23) ++ q)
  | .peos mask => some ((0x1d : BitVec 6) ++ (0 : BitVec 18) ++ mask)
  | .pmode sc v => some ((0x1e : BitVec 6) ++ (0 : BitVec 19) ++ v ++ sc)
  | .pscout md => some ((0x1f : BitVec 6) ++ md ++ (0 : BitVec 22))
  | .pend => some ((0x20 : BitVec 6) ++ (0 : BitVec 26))
  | _ => none

/-- The word of a fibre instruction. -/
def encodeFibre (i : Instr) : Option (BitVec 64) :=
  match fibreParts i with
  | some (maj, mi, f, o) => some (packFibre maj mi f o)
  | none => none

/-- A candidate whose own encoding is the word that was read; else a reserved bit was set. -/
def confirm {α : Type} {n : Nat} (enc : α → Option (BitVec n)) (w : BitVec n) (c : Option α) : Except SealCode α :=
  match c with
  | none => .error .opcode
  | some i => if enc i = some w then .ok i else .error .reserved

/-- The fibre instruction that a 64-bit word holds. -/
def decodeFibre (w : BitVec 64) : Except SealCode Instr :=
  confirm encodeFibre w
    (fibreCandidate (w.extractLsb' 58 6).toNat (w.extractLsb' 52 6).toNat (fibreHdr w) (w.extractLsb' 0 40))

/-- The operation of an S slot, its hint bits left out. -/
def decodeS (w : BitVec 60) : Except SealCode SOp := confirm (some ∘ sSlotBits) w (sSlotCandidate w)
/-- The operation of a V slot. -/
def decodeV (w : BitVec 64) : Except SealCode VOp := confirm (some ∘ vSlotBits) w (vSlotCandidate w)
/-- The operation of an M slot. -/
def decodeM (w : BitVec 48) : Except SealCode MOp := confirm (some ∘ mSlotBits) w (mSlotCandidate w)
/-- The operation of a C slot. -/
def decodeC (w : BitVec 48) : Except SealCode COp := confirm (some ∘ cSlotBits) w (cSlotCandidate w)
/-- The operation of an X slot. -/
def decodeX (w : BitVec 24) : Except SealCode XOp := confirm (some ∘ xSlotBits) w (xSlotCandidate w)
/-- The stream word that 32 bits hold. -/
def decodeStream (w : BitVec 32) : Except SealCode Instr := confirm streamBits w (streamCandidate w)

/-- Header bit REP of a bundle (R142). -/
def bundleRep (w : BitVec 256) : Bool := w.getLsbD 5
/-- Header bit NEST of a bundle (R142). -/
def bundleNest (w : BitVec 256) : Bool := w.getLsbD 6

/-- The S slot of a bundle less its hint bits (R143). -/
def bundleS (w : BitVec 256) : BitVec 60 := w.extractLsb' 8 60
/-- The V slot of a bundle (R143). -/
def bundleV (w : BitVec 256) : BitVec 64 := w.extractLsb' 72 64
/-- The M slot of a bundle (R143). -/
def bundleM (w : BitVec 256) : BitVec 48 := w.extractLsb' 136 48
/-- The C slot of a bundle (R143). -/
def bundleC (w : BitVec 256) : BitVec 48 := w.extractLsb' 184 48
/-- The X slot of a bundle (R143). -/
def bundleX (w : BitVec 256) : BitVec 24 := w.extractLsb' 232 24

/-- The event that issues a bundle: a loop-nest bundle, a repeat prefix or an ordinary bundle (R142). -/
def decodeBundle (w : BitVec 256) : Except SealCode Instr :=
  if w.getLsbD 7 then .error .reserved
  else if bundleNest w then (if bundleRep w then .error .repeat else .ok (.loopNestBundle w))
  else if bundleRep w then .ok (.repeatPrefix w)
  else .ok (.bundleIssue w)

/-- A bundle that holds one X-slot operation and nothing else. -/
def xBundle (x : BitVec 24) : BitVec 256 := x ++ (0 : BitVec 232)

/-- The words of an instruction, whichever set it belongs to: its width and its bits. Events have none. -/
def encode (i : Instr) : Option (Nat × Nat) :=
  match encodeFibre i with
  | some w => some (64, w.toNat)
  | none => match streamBits i with
    | some w => some (32, w.toNat)
    | none => match i.toS, i.toV, i.toM, i.toC, i.toX with
      | some o, _, _, _, _ => some (60, (sSlotBits o).toNat)
      | _, some o, _, _, _ => some (64, (vSlotBits o).toNat)
      | _, _, some o, _, _ => some (48, (mSlotBits o).toNat)
      | _, _, _, some o, _ => some (48, (cSlotBits o).toNat)
      | _, _, _, _, some o => some (24, (xSlotBits o).toNat)
      | _, _, _, _, _ => none

end Sys2Proof.Decode

namespace Sys2Proof

/-- What the decoder reads from a word of the opcode table: 24 bits are an X slot, 32 a stream word, 64 a fibre word,
256 a bundle. -/
def decodeTableWord (nbits w : Nat) : Option Instr :=
  if nbits ≤ 24 then ((Decode.decodeX (BitVec.ofNat 24 w)).toOption.map XOp.toInstr)
  else if nbits ≤ 32 then (Decode.decodeStream (BitVec.ofNat 32 w)).toOption
  else if nbits ≤ 64 then (Decode.decodeFibre (BitVec.ofNat 64 w)).toOption
  else (Decode.decodeBundle (BitVec.ofNat 256 w)).toOption

end Sys2Proof
end

