-- ==== Sys2Proof/Machine/Operands.lean ====
section
/-!
DEFINITION. The operand forms of fibre instructions and the steps that every fibre instruction is taken through at issue
(R136 to R139, R153 to R155, R188): sources, destinations, guard, waits, traps, and the writing back of results.
-/
namespace Sys2Proof.Machine

/-- A register source: INFO0's code of its field (R362), its first register and its count of registers; a run, unlike a pair
or quad, has registers after g0 too (R182, R198). -/
structure Src where
  field : Nat
  reg : Nat
  n : Nat := 1
  run : Bool := false
deriving DecidableEq, Repr

/-- Who issues, and with what: core, slot, fibre, its block and itself, its header and whether its guard holds. -/
structure FCtx where
  c : Nat
  b : Nat
  f : Nat
  k : Block
  x : Fibre
  h : FHdr
  guard : Bool
deriving Repr

/-- The parts of a fibre instruction that R138 looks at, and its own step 6. -/
structure FSem where
  srcs : List Src := []
  psrcs : List Nat := []
  dsts : List (Nat × Nat) := []
  rendezvous : Bool := false
  act : FCtx → State → State

/-- The value of a register of the issuing fibre. -/
def FCtx.g (q : FCtx) (n : BitVec 8) : Word := q.x.g q.k.win n.toNat
/-- The value of a pair of the issuing fibre. -/
def FCtx.gg (q : FCtx) (n : BitVec 8) : DWord := q.x.gg q.k.win n.toNat

/-- The registers of a source; a pair or quad of field 0 names none (R153). -/
def Src.regs (r : Src) : List Nat := if r.reg = 0 ∧ !r.run then [] else (List.range r.n).map (r.reg + ·)

/-- The E bit that covers a field (R136). -/
def eBit (h : FHdr) (field : Nat) : Bool :=
  if field = 0 then h.e.getLsbD 0 else if field = 2 then h.e.getLsbD 2 else h.e.getLsbD 1

/-- guard() of R152. -/
def guardOf (h : FHdr) (x : Fibre) : Bool := if h.gs = 0 then x.pred h.gp.toNat else !x.pred h.gp.toNat

/-- Whether a FIXLAT hold keeps one of the keys from being read in this cycle (R155). -/
def heldBack (x : Fibre) (cycle : Nat) (keys : List Nat) : Bool := keys.any fun n => decide (cycle < x.hold.get n 0)

/-- Whether a source is empty. -/
def Src.empty (r : Src) (x : Fibre) (win : Nat) : Bool := r.regs.any fun n => !(x.reg win n).full
/-- The first poisoned register of a source. -/
def Src.poisoned (r : Src) (x : Fibre) (win : Nat) : Option Nat := r.regs.find? fun n => (x.reg win n).poison

/-- The destination registers that are empty hold the issue (R188). -/
def dstEmpty (ds : List (Nat × Nat)) (x : Fibre) (win : Nat) : Bool :=
  ds.any fun p => decide (p.1 ≠ 0) && (List.range p.2).any fun j => !(x.reg win (p.1 + j)).full

/-- The word at a code address as it reads back (R151, R362). -/
def wordAt (s : State) (ctx : Nat) (pc : VAddr) : BitVec 64 :=
  match readVirtGo s ctx 3 2 pc.toNat 8 with
  | .ok l => BitVec.ofNat 64 (ofBytes l)
  | _ => 0

/-- Whether the sealer marked the code at an address trap-on-execute (R151). -/
def marked (s : State) (ctx : Nat) (pc : VAddr) : Bool :=
  match translate s ctx 3 pc.toNat with
  | .ok t => match s.seals.find? t.frame with
    | some m => hasN m.marks (pc.toNat % 4096)
    | none => false
  | .error _ => false

/-- A precise trap of the issuing fibre (R362): its PC is the instruction's, plus 8 where `next` says so. -/
def FCtx.trapAt (q : FCtx) (s : State) (code : BitVec 8) (addr info0 info1 : BitVec 64) (next : Bool := false) : State :=
  takeTrap s q.c q.b q.f
    { code := code, pc := (if next then q.x.pc + 8 else q.x.pc).setWidth 64, word := wordAt s q.k.ctx q.x.pc,
      addr := addr, info0 := info0, info1 := info1 }

/-- ILLEGAL_INSTRUCTION of the issuing fibre. -/
def FCtx.illegal (q : FCtx) (s : State) (why : BitVec 64) : State := q.trapAt s 0x01 0 why 0
/-- PAGE_FAULT of the issuing fibre: reason in INFO0[7:0], access in INFO0[15:8], level in INFO1 (R362). -/
def FCtx.pageFault (q : FCtx) (s : State) (e : PFault) (acc va : Nat) : State :=
  q.trapAt s 0x04 (BitVec.ofNat 64 va) (BitVec.ofNat 64 (e.reason + 256 * acc)) (BitVec.ofNat 64 e.level)
/-- ALIGN of the issuing fibre. -/
def FCtx.align (q : FCtx) (s : State) (addr size : Nat) : State :=
  q.trapAt s 0x05 (BitVec.ofNat 64 addr) (BitVec.ofNat 64 size) 0
/-- BOUNDS of the issuing fibre (R362): ADDR is the value that failed, INFO0 the field that held it, in the code of
EMPTY_READ where the field has one, else a free value (log 14). -/
def FCtx.bounds (q : FCtx) (s : State) (value field : Nat) : State :=
  q.trapAt s 0x06 (BitVec.ofNat 64 value) (if field < 4 then BitVec.ofNat 64 field else Config.fieldCode field) 0
/-- OWNERSHIP of the issuing fibre. -/
def FCtx.ownership (q : FCtx) (s : State) (handle : Nat) : State := q.trapAt s 0x07 0 (BitVec.ofNat 64 handle) 0

/-- The issuing fibre after it has issued: ready at its next word, no longer urgent (R349). -/
def Fibre.issued (x : Fibre) (cycle : Nat) : Fibre :=
  { x with pc := x.pc + 8, status := .ready, readyAt := cycle, urgentAt := none }

/-- The issuing fibre goes on to its next word with new contents. -/
def FCtx.retire (q : FCtx) (s : State) (x : Fibre) : State := s.setFibre q.c q.b q.f (x.issued s.cycle)

/-- Whether a fibre is in a wait of R54. -/
def Fibre.waits (x : Fibre) : Bool :=
  match x.status with
  | .waiting _ => true
  | _ => false

/-- The issuing fibre waits at its instruction (R54); `readyAt` then holds the cycle in which the wait began (R423). -/
def FCtx.wait (q : FCtx) (s : State) (w : Wait) : State :=
  s.setFibre q.c q.b q.f
    { q.x with status := .waiting w, readyAt := if q.x.waits then q.x.readyAt else s.cycle }

/-- A fixed-latency result in a register (R155). -/
def FCtx.putReg (q : FCtx) (s : State) (d : Nat) (v : Word) (lat : Nat) : State :=
  q.retire s ((q.x.setReg q.k.win d v).holdKey d (s.cycle + lat))

/-- A fixed-latency result in a pair (R155). -/
def FCtx.putPair (q : FCtx) (s : State) (d : Nat) (v : DWord) (lat : Nat) : State :=
  let y := q.x.setPair q.k.win d v
  q.retire s (if d = 0 then y else (y.holdKey d (s.cycle + lat)).holdKey (d + 1) (s.cycle + lat))

/-- A fixed-latency result in a predicate (R155). -/
def FCtx.putPred (q : FCtx) (s : State) (p : Nat) (v : Bool) (lat : Nat) : State :=
  q.retire s ((q.x.setPred p v).holdKey (256 + p) (s.cycle + lat))

/-- Waits that are looked at again when the fibre's turn comes; the others end by the event that R54 names. -/
def Wait.polls : Wait → Bool
  | .rejoin _ | .barrier _ _ | .gate | .lamp => false
  | _ => true

/-- Whether a fibre may be given a turn to issue (R349). -/
def Fibre.canIssue (x : Fibre) : Bool :=
  match x.status with
  | .ready => true
  | .waiting w => w.polls
  | _ => false

/-- The keys of R155 that an instruction reads when its guard holds. -/
def FSem.keys (q : FSem) : List Nat := q.srcs.flatMap Src.regs ++ q.psrcs.map (256 + ·)

/-- The source that EMPTY_READ names where an empty source has E bit 1: the empty source field of lowest code (R138, R362). -/
def emptyTrap (z : FCtx) (srcs : List Src) : Option Src :=
  if (srcs.any fun r => eBit z.h r.field && r.empty z.x z.k.win) then
    (srcs.filter fun r => r.empty z.x z.k.win).foldl (fun (m : Option Src) r => match m with
      | some x => if r.field < x.field then some r else m
      | none => some r) none
  else none

/-- The empty registers for which an instruction waits. -/
def emptyRegs (z : FCtx) (q : FSem) : List Nat :=
  (q.srcs.flatMap Src.regs ++ q.dsts.flatMap fun p => if p.1 = 0 then [] else (List.range p.2).map (p.1 + ·)).filter fun n =>
    !(z.x.reg z.k.win n).full

/-- Steps 3 to 6 of R138 for an instruction whose guard holds. The wait for an empty destination (R188) stands after step 4's,
before step 5's look for poison (log 79). -/
def issueActive (z : FCtx) (q : FSem) (s : State) : State :=
  if heldBack z.x s.cycle q.keys then s else
  match emptyTrap z q.srcs with
  | some r => z.trapAt s 0x02 0 (BitVec.ofNat 64 r.field) (BitVec.ofNat 64 r.reg)
  | none =>
    if (q.srcs.any fun r => r.empty z.x z.k.win) || dstEmpty q.dsts z.x z.k.win then z.wait s (.emptyReg (emptyRegs z q)) else
    match q.srcs.findSome? fun r => r.poisoned z.x z.k.win with
    | some n => z.trapAt s 0x03 0 (BitVec.ofNat 64 n) 0
    | none => q.act z s

/-- The lead fibre of a block (R359). -/
def leadFibre (k : Block) : Option Nat := (List.find? (fun p => p.2.status ≠ .ended) k.fibres).map (·.1)

/-- The pending trap that a fibre at DEPTH 0 takes before its next issue, and its block without it: the oldest of its own and,
for the lead fibre, of its block's (R356, R446). -/
def duePending (k : Block) (x : Fibre) (f : Nat) : Option (Trap × Block) :=
  if x.depth ≠ 0 then none
  else
    let ofBlock := if leadFibre k = some f then k.pending else []
    match x.pending, ofBlock with
    | t :: rest, [] => some (t, { k with fibres := k.fibres.set f { x with pending := rest } })
    | t :: rest, u :: more =>
      if t.since ≤ u.since then some (t, { k with fibres := k.fibres.set f { x with pending := rest } })
      else some (u, { k with pending := more, owed := some (f, u) })
    | [], u :: more => some (u, { k with pending := more, owed := some (f, u) })
    | [], [] => none

/-- The pending trap of the issuing fibre is taken (R356). -/
def FCtx.takePending (q : FCtx) (s : State) (t : Trap) (k : Block) : State :=
  takeTrap (s.setBlock q.c q.b k) q.c q.b q.f { t with pc := q.x.pc.setWidth 64 }

/-- The steps of R138 for the issuing fibre, a trap that has become pending first (R356). -/
def issueSteps (z : FCtx) (q : FSem) (s : State) : State :=
  match duePending z.k z.x z.f with
  | some (t, k) => z.takePending s t k
  | none =>
    if z.h.m ≠ 0 ∨ marked s z.k.ctx z.x.pc then z.illegal s 0
    else if heldBack z.x s.cycle [256 + z.h.gp.toNat] then s
    else if z.guard then issueActive z q s
    else if q.rendezvous then q.act z s
    else z.retire s z.x

/-- A fibre instruction: the steps of R138 for the fibre whose turn it is. -/
def fibreExec (h : FHdr) (q : FSem) (s : State) : Host.Outcome State Fault Refusal :=
  match s.cur with
  | .fibre c b f =>
    match s.block c b, s.fibre c b f with
    | some k, some x =>
      if x.canIssue then .next (issueSteps ⟨c, b, f, k, x, h, guardOf h x⟩ q s) else .fault .noAgent
    | _, _ => .fault .noAgent
  | _ => .fault .noAgent

-- Operand forms

/-- Source of one register in field [31:24]. -/
def srcA (n : BitVec 8) (k : Nat := 1) : Src := ⟨0, n.toNat, k, false⟩
/-- Source in field [23:16]. -/
def srcB (n : BitVec 8) (k : Nat := 1) : Src := ⟨1, n.toNat, k, false⟩
/-- Source of a run of registers from field [23:16] on (R182, R198). -/
def runB (n : BitVec 8) (k : Nat) : Src := ⟨1, n.toNat, k, true⟩
/-- Source in field [15:8]. -/
def srcC (n : BitVec 8) (k : Nat := 1) : Src := ⟨2, n.toNat, k, false⟩
/-- Source in field [39:32]. -/
def srcD (n : BitVec 8) (k : Nat := 1) : Src := ⟨3, n.toNat, k, false⟩

/-- A fixed-latency instruction with a 32-bit result. -/
def fix32 (srcs : List Src) (d : BitVec 8) (lat : Nat) (v : FCtx → Word) : FSem :=
  { srcs := srcs, dsts := [(d.toNat, 1)], act := fun q s => q.putReg s d.toNat (v q) lat }

/-- A fixed-latency instruction with a 64-bit result. -/
def fix64 (srcs : List Src) (d : BitVec 8) (lat : Nat) (v : FCtx → DWord) : FSem :=
  { srcs := srcs, dsts := [(d.toNat, 2)], act := fun q s => q.putPair s d.toNat (v q) lat }

/-- A fixed-latency instruction with a predicate result. -/
def fixPred (srcs : List Src) (psrcs : List Nat) (p : BitVec 8) (lat : Nat) (v : FCtx → Bool) : FSem :=
  { srcs := srcs, psrcs := psrcs, act := fun q s => q.putPred s p.toNat (v q) lat }

/-- Form A with one source. -/
def form1 (sa d : BitVec 8) (lat : Nat) (v : Word → Word) : FSem := fix32 [srcA sa] d lat fun q => v (q.g sa)
/-- Form A with two sources. -/
def form2 (sa sb d : BitVec 8) (lat : Nat) (v : Word → Word → Word) : FSem :=
  fix32 [srcA sa, srcB sb] d lat fun q => v (q.g sa) (q.g sb)
/-- Form A with three sources. -/
def form3 (sa sb sc d : BitVec 8) (lat : Nat) (v : Word → Word → Word → Word) : FSem :=
  fix32 [srcA sa, srcB sb, srcC sc] d lat fun q => v (q.g sa) (q.g sb) (q.g sc)
/-- Form A over pairs with one source. -/
def pair1 (sa d : BitVec 8) (lat : Nat) (v : DWord → DWord) : FSem := fix64 [srcA sa 2] d lat fun q => v (q.gg sa)
/-- Form A over pairs with two sources. -/
def pair2 (sa sb d : BitVec 8) (lat : Nat) (v : DWord → DWord → DWord) : FSem :=
  fix64 [srcA sa 2, srcB sb 2] d lat fun q => v (q.gg sa) (q.gg sb)
/-- Form A over pairs with three sources. -/
def pair3 (sa sb sc d : BitVec 8) (lat : Nat) (v : DWord → DWord → DWord → DWord) : FSem :=
  fix64 [srcA sa 2, srcB sb 2, srcC sc 2] d lat fun q => v (q.gg sa) (q.gg sb) (q.gg sc)

end Sys2Proof.Machine
end

