-- ==== Sys2Proof/Machine/Slices.lean ====
section
/-!
DEFINITION. L2 slices: which line each holds, and the events that a slice raises to its Lantern's handler sets (R72, R73,
R389 to R395).
-/
namespace Sys2Proof.Machine

/-- A register of handler set `k` of a slice. -/
def lhBits (s : State) (sl k r hi lo : Nat) : Nat := devBits s (offLH sl k r) hi lo

/-- Whether a handler set is enabled (R389). -/
def setOn (s : State) (sl k : Nat) : Bool := lhBits s sl k 0 0 0 = 1

/-- Whether a set's range holds a physical address (R390). -/
def inRange (s : State) (sl k pa : Nat) : Bool :=
  decide (lhBits s sl k 0x10 51 12 ≤ pa / 4096) && decide (pa / 4096 ≤ lhBits s sl k 0x18 51 12)

/-- Whether an enabled set is the one of an event of a kind for a context (R391); MSG has no range. -/
def setTakes (s : State) (sl k kind ctx pa : Nat) : Bool :=
  setOn s sl k && decide (lhBits s sl k 0 6 1 = ctx) && (lhBits s sl k 0 11 8).testBit kind && (kind = 3 || inRange s sl k pa)

/-- The set of a slice that receives an event of a kind for a context: none while its DIS is 1 (R391, R397). -/
def setFor (s : State) (sl kind ctx pa : Nat) : Option Nat :=
  (List.range 8).find? fun k => setTakes s sl k kind ctx pa && decide (lhBits s sl k 0x20 2 2 = 0)

/-- A count of a slice's flash record raised (R431): 0 invocations, 1 Lantern cycles, 2 aborts, 3 drops. -/
def bumpCount (s : State) (sl k i n : Nat) : State :=
  s.modSlice sl fun x => { x with counts := x.counts.set (4 * k + i) (x.counts.get (4 * k + i) 0 + n) }

/-- A 16-bit saturating count of LHSTAT raised by one (R389): DROP at bit 16, ABORT at bit 32. -/
def bumpStat (s : State) (sl k lo : Nat) : State :=
  let v := devBits s (offLH sl k 0x20) (lo + 15) lo
  bumpCount (devPut s (offLH sl k 0x20) (lo + 15) lo (min (v + 1) 0xFFFF)) sl k (if lo = 16 then 3 else 2) 1

/-- The eight words of an event record (R394). -/
def eventWords (kind flags src len sel pa cf block : Nat) (payload : List Word) : List (BitVec 64) :=
  let pay (n : Nat) : Nat := (payload.getD n 0).toNat
  [BitVec.ofNat 64 (kind + flags * 2 ^ 8 + src * 2 ^ 16 + len * 2 ^ 32 + sel * 2 ^ 40), BitVec.ofNat 64 pa,
   BitVec.ofNat 64 (2 ^ 63 + pa), BitVec.ofNat 64 (cf + block * 2 ^ 32)] ++
    (List.range 4).map fun i => BitVec.ofNat 64 (pay (2 * i) + 2 ^ 32 * pay (2 * i + 1))

/-- An event other than MSG raised at a slice (R391, R392): whether a handler will have it. -/
def raiseEvent (s : State) (sl : Nat) (e : LEvent) : State × Bool :=
  match setFor s sl e.kind e.ctx e.addr with
  | none => (s, false)
  | some k =>
    if 32 ≤ (s.slice' sl).events.length then (bumpStat s sl k 16, false)
    else (s.modSlice sl fun x => { x with events := x.events ++ [e] }, true)

/-- A MISS at a slice (R391, R394). -/
def raiseMiss (s : State) (sl line key src : Nat) (write : Bool) : State :=
  (raiseEvent s sl {
    kind := 0, addr := line * 128, ctx := key
    words := eventWords 0 (if write then 4 else 0) src 0 0 (line * 128) 0 0 [] }).1

/-- A FILL at a slice (R391, R394): whether delivery waits for its handler. -/
def raiseFill (s : State) (sl line key src flags cookie : Nat) : State × Bool :=
  raiseEvent s sl {
    kind := 1, addr := line * 128, ctx := key
    words := eventWords 1 flags src 0 0 (line * 128) cookie 0 [] }

/-- The 128 bytes of a line, of a view too, as eight-byte words under the key of its fill. -/
def lineWords (s : State) (key line : Nat) : List (BitVec 64) :=
  let bytes := (physRead s key (line * 128) 128).getD []
  (List.range 16).map fun i => BitVec.ofNat 64 (ofBytes (slice bytes (8 * i) 8))

/-- Lines that a slice of 2 MiB holds (R12). -/
def sliceLines : Nat := 16384

/-- A line leaves a slice by replacement, with its EVICT event (R391, R395). -/
def evictOne (s : State) (sl : Nat) : State :=
  let ls := (s.slice' sl).lines
  match ls[Config.victimChoice s.free % ls.length]? with
  | none => s
  | some (line, x) =>
    let w := eventWords 2 (if x.dirty then 1 else 0) 0 0 0 (line * 128) 0 0 [] ++ lineWords s x.key line
    let s := s.draw.modSlice sl fun y => { y with lines := y.lines.del line }
    (raiseEvent s sl { kind := 2, addr := line * 128, ctx := x.key, words := w }).1

/-- A line enters a slice (R72); a full slice replaces one. -/
def l2Insert (s : State) (sl line key : Nat) (dirty : Bool) : State :=
  match (s.slice' sl).lines.find? line with
  | some x => s.modSlice sl fun y => { y with lines := y.lines.set line { x with dirty := x.dirty || dirty } }
  | none =>
    let s := if sliceLines ≤ (s.slice' sl).lines.length then evictOne s sl else s
    s.modSlice sl fun y => { y with lines := y.lines.set line { dirty := dirty, key := key } }

/-- A write to a line takes its ownership: the copies on other dies go (R72, R398). -/
def l2Own (s : State) (sl line key : Nat) : State :=
  let s := (List.range 4).foldl (fun s d =>
    let o := sliceOf d (line * 128)
    if o = sl then s else s.modSlice o fun y => { y with lines := y.lines.del line }) s
  l2Insert s sl line key true

end Sys2Proof.Machine
end

