-- ==== Sys2Proof/Machine/Spm.lean ====
section
/-!
DEFINITION. Scratchpad bytes (R33, R60, R61, R94): a byte that nothing has written since its block's placement is a free
value (log 3).
-/
namespace Sys2Proof.Machine

/-- The placement number of the block whose allocation holds an SPM byte of a core. -/
def Core.spmEpoch (k : Core) (a : Nat) : Nat :=
  match k.blocks.vals.find? fun b => decide (b.spmBase ≤ a) && decide (a < b.spmBase + b.spmLen) with
  | some b => b.epoch
  | none => 0

/-- A byte of a core's SPM. -/
def Core.spmGet (k : Core) (a : Nat) : Byte :=
  match k.spm.find? a with
  | some v => v
  | none => Config.spmByte (k.spmEpoch a) a

/-- `n` bytes of a core's SPM from an address on. -/
def Core.spmBytes (k : Core) (a : Nat) : Nat → List Byte
  | 0 => []
  | n + 1 => k.spmGet a :: k.spmBytes (a + 1) n

/-- An SPM table with bytes written from an address on. -/
def spmPut (m : FMap Byte) (a : Nat) : List Byte → FMap Byte
  | [] => m
  | b :: t => spmPut (m.set a b) (a + 1) t

/-- The writes of a cycle with those of `n` bytes by agent `w` added, each with the byte before it (R94, R95). -/
def Core.noteSpm (k : Core) (now w a n : Nat) : FMap (List (Nat × Byte)) :=
  (List.range n).foldl (fun m i => m.set (a + i) (m.get (a + i) [] ++ [(w, k.spmGet (a + i))]))
    (if k.spmNow.1 = now then k.spmNow.2 else [])

/-- A core with bytes of its SPM written by agent `w` in a cycle; a unit that they fill holds no error any more (R440). -/
def Core.spmWritten (k : Core) (now w a : Nat) (bytes : List Byte) : Core :=
  { k with
    spm := spmPut k.spm a bytes
    spmNow := (now, k.noteSpm now w a bytes.length)
    spmBad := k.spmBad.filter fun u => !(decide (a ≤ 8 * u) && decide (8 * u + 8 ≤ a + bytes.length)) }

/-- The state with bytes written to a core's SPM by agent `w`. -/
def State.spmWrite (s : State) (c w a : Nat) (bytes : List Byte) : State :=
  s.modCore c fun k => k.spmWritten s.cycle w a bytes

/-- The byte before the first of a cycle's writes that follow the latest of agent `w`, if there is one (R94, R95). -/
def beforeOthers (w : Nat) (l : List (Nat × Byte)) : Option Byte := ((l.reverse.takeWhile fun e => e.1 != w).getLast?).map (·.2)

/-- A byte of SPM as agent `w` reads it in a cycle: the value before the cycle's writes of other agents, but no older than its
own latest write (R94, R95). -/
def Core.spmSeen (k : Core) (now w a : Nat) : Byte :=
  if k.spmNow.1 ≠ now then k.spmGet a else
  match k.spmNow.2.find? a with
  | some l => (beforeOthers w l).getD (k.spmGet a)
  | none => k.spmGet a

/-- A byte after agent `w`'s latest write of a cycle, from the cycle's writes and the byte as it stands; where it made none, the
byte before the cycle's writes (R94, R95). -/
def afterOwn (w : Nat) (l : List (Nat × Byte)) (v : Byte) : Byte := (beforeOthers w l).getD v

/-- Whether another agent has written some of `n` bytes in a cycle. -/
def Core.spmRaced (k : Core) (now w a n : Nat) : Bool :=
  decide (k.spmNow.1 = now) && (List.range n).any fun i => (k.spmNow.2.get (a + i) []).any fun v => v.1 != w

/-- Whether bytes hold an uncorrectable error of a list of 8-byte units (R440). -/
def unitBad (l : List Nat) (a n : Nat) : Bool := l.any fun u => decide (8 * u < a + n) && decide (a < 8 * u + 8)

/-- `n` bytes of SPM as agent `w` reads them, or POISON (R95, R99, R440). -/
def State.spmRead (s : State) (c w a n : Nat) : Option (List Byte) :=
  if unitBad (s.core c).spmBad a n then none else some ((List.range n).map fun i => (s.core c).spmSeen s.cycle w (a + i))

/-- The number of a tile program, of a fibre and of a copy command among the agents that write SPM (R81); 0 is the part. -/
def tileAgent (c : Nat) : Nat := 4 * c + 1
/-- The number of a fibre among the agents that write SPM. -/
def fibreAgent (c b f : Nat) : Nat := 4 * ((c * 1024 + b) * 1024 + f) + 2
/-- The number of a copy command among the agents that write SPM. -/
def copyAgent (c id : Nat) : Nat := 4 * (2048 * id + c) + 3

/-- The checks of R61 on an access of `n` bytes at an offset of a handle, given as an exact integer: the buffer, or the
trap with its value. -/
inductive SpmCheck where
  | null
  | bounds
  | align
  | ok (buf : Buf) (addr : Nat)
deriving DecidableEq, Repr

/-- R61's checks, in order. -/
def spmCheck (k : Block) (hd : Nat) (off : Int) (n : Nat) : SpmCheck :=
  match k.handles.find? hd with
  | none => .null
  | some b =>
    if !b.valid then .null
    else if off < 0 ∨ (b.len : Int) < off + n then .bounds
    else if off % (n : Int) ≠ 0 then .align
    else .ok b (b.base + off.toNat)

end Sys2Proof.Machine
end

