-- ==== Sys2Proof/Machine/Access.lean ====
section
/-!
DEFINITION. Outstanding accesses of fibres: when one may be performed (R85, R86, R91, R94), performing it at the L1, the L2
slice or the home SPM (R70 to R73, R87), and the return of its data (R188, R364).
-/
namespace Sys2Proof.Machine

/-- Whether an access is still to be performed. -/
def Access.open_ (a : Access) : Bool :=
  match a.phase with
  | .issued => true
  | .queued => true
  | _ => false

/-- Whether an access writes. -/
def Access.writes (a : Access) : Bool :=
  match a.op with
  | .store | .rmw _ | .joinDec => true
  | _ => false

/-- Whether an access acquires or releases (R85). -/
def Access.acquires (a : Access) : Bool := a.kind = 2 || a.kind = 4
/-- Whether an access releases (R85). -/
def Access.releases (a : Access) : Bool := a.kind = 3 || a.kind = 4

/-- Whether two accesses touch a common byte. -/
def Access.overlaps (a b : Access) : Bool :=
  match a.spm, b.spm with
  | some x, some y => decide (x.home = y.home) && decide (a.pa < b.pa + b.size) && decide (b.pa < a.pa + a.size)
  | none, none => decide (a.pa < b.pa + b.size) && decide (b.pa < a.pa + a.size)
  | _, _ => false

/-- Whether an access reads: a load or a read-modify-write. -/
def Access.loads (a : Access) : Bool :=
  match a.op with
  | .load _ _ | .rmw _ | .joinDec => true
  | _ => false

/-- Whether an entry is a mark of program order: a fence or an arrival. -/
def Access.mark (a : Access) : Bool :=
  match a.op with
  | .fence _ | .arrive _ _ => true
  | _ => false

/-- Whether an earlier access of the same fibre, still to be performed, holds an access back (R85, R91, R94), as at system
scope whatever the two name (R83, log 72). A .acq fence waits for loads, the others and an arrival for every access; what
follows a fence waits for it (R88). A prefetch orders nothing, and an arrival holds back nothing. -/
def Access.heldBy (a b : Access) : Bool :=
  match a.op, b.op with
  | _, .pref _ | _, .arrive _ _ => false
  | _, .fence _ => true
  | .fence o, _ => o != 1 || b.loads
  | .arrive _ _, _ => true
  | _, _ => a.releases || b.acquires || (a.kind ≠ 0 && b.kind ≠ 0) ||
    (a.overlaps b && (a.writes || b.writes || a.spm.isSome))

/-- Whether an access of a core may be performed now. -/
def mayPerform (k : Core) (a : Access) : Bool :=
  a.open_ && !(k.pend.any fun b => b.open_ && decide (b.id < a.id) && decide (b.slot = a.slot) && decide (b.fib = a.fib) && a.heldBy b)

/-- An access of a core by its number. -/
def findAccess (s : State) (c id : Nat) : Option Access := (s.core c).pend.find? fun a => a.id = id
/-- An access replaced. -/
def setAccess (s : State) (c : Nat) (a : Access) : State :=
  s.modCore c fun k => { k with pend := k.pend.map fun b => if b.id = a.id then a else b }
/-- An access is over. -/
def dropAccess (s : State) (c id : Nat) : State := s.modCore c fun k => { k with pend := k.pend.filter fun b => b.id ≠ id }

/-- The value that a read-modify-write writes (R192), by minor code; none where CAS writes nothing. -/
def rmwNew (op : Nat) (old data cmp : Nat) (size : Nat) : Option Nat :=
  let w := 8 * size
  match op with
  | 0x00 | 0x01 => some ((old + data) % 2 ^ w)
  | 0x02 => some (old &&& data)
  | 0x03 => some (old ||| data)
  | 0x04 => some (old ^^^ data)
  | 0x05 => some (if sextN old 32 ≤ sextN data 32 then old else data)
  | 0x06 => some (if sextN old 32 ≤ sextN data 32 then data else old)
  | 0x07 => some (min old data)
  | 0x08 => some (max old data)
  | 0x09 | 0x0A => some data
  | 0x0B | 0x0C => if old = cmp then some data else none
  | 0x0D => some (fAdd 0x11 0 old data)
  | 0x0E => some (fminmax false 0x11 old data)
  | _ => some (fminmax true 0x11 old data)

-- L1 (R70, R71)

/-- The core whose L1 holds a line for accesses of a core (R71). -/
def l1Core (s : State) (c pa : Nat) : Nat :=
  if (s.cluster (clusterOf c)).fused then clusterOf c * Config.coresPerCluster + pa / 128 % Config.coresPerCluster else c

/-- A store updates the local copy of its line, if present (R70). -/
def l1Update (s : State) (c pa : Nat) (bytes : List Byte) : State :=
  s.modCore (l1Core s c pa) fun k =>
    match k.l1.find? (pa / 128) with
    | some l => { k with l1 := k.l1.set (pa / 128) { l with bytes := patch l.bytes (pa % 128) bytes } }
    | none => k

/-- The bytes that a weak load of a fibre finds in its L1 under a current lease no older than its latest acquire (R70). -/
def l1Hit (s : State) (c : Nat) (a : Access) (acq : Nat) : Option (List Byte) :=
  match (s.core (l1Core s c a.pa)).l1.find? (a.pa / 128) with
  | some l => if s.cycle < l.ends ∧ acq ≤ l.leased then some (slice l.bytes (a.pa % 128) a.size) else none
  | none => none

/-- Lines that one core's L1 of 256 KiB holds (R15, R17, R70). -/
def l1Lines : Nat := 2048

/-- An L1 with room for a line that it lacks: a full one gives up a line of the part's choice (log 73). -/
def l1Room (m : FMap L1Line) (line n : Nat) : FMap L1Line :=
  if (m.find? line).isSome ∨ m.length < l1Lines then m
  else match m[Config.l1Victim n % m.length]? with
    | some v => m.del v.1
    | none => m

/-- A line enters the L1 under a lease taken at `at_`, of at most 4,096 cycles (R70, R87). -/
def l1Put (s : State) (c line at_ : Nat) (bytes : List Byte) : State :=
  s.modCore (l1Core s c (128 * line)) fun k =>
    { k with l1 := (l1Room k.l1 line s.cycle).set line { leased := at_, ends := at_ + 4096, bytes := bytes } }

/-- A line enters the L1 as it stands in memory, under a new lease. -/
def l1Fill (s : State) (c key pa : Nat) : State :=
  match physRead s key (pa / 128 * 128) 128 with
  | none => s
  | some bytes => l1Put s c (pa / 128) s.cycle bytes

-- Performing

/-- Poison or bytes of an access's location, now. -/
def locationBytes (s : State) (c : Nat) (a : Access) : Option (List Byte) :=
  match a.spm with
  | some b => s.spmRead b.home (fibreAgent c a.slot a.fib) a.pa a.size
  | none => physRead s a.key a.pa a.size

/-- A fibre has written a line: what its slice's merge entry took before no longer serves it (R73, R93). -/
def noteWriter (s : State) (c : Nat) (a : Access) : State :=
  let sl := sliceOf (dieOf c) a.pa
  match (s.slice' sl).merges.find? (a.pa / 128) with
  | some m => s.modSlice sl fun x => { x with merges := x.merges.set (a.pa / 128) { m with writers := (c, a.slot, a.fib) :: m.writers } }
  | none => s

/-- Bytes written at an access's location. A store to an alias address, which is discarded (R79), updates a leased copy of its
line all the same (R70, log 74). -/
def locationWrite (s : State) (c : Nat) (a : Access) (bytes : List Byte) : State :=
  match a.spm with
  | some b => s.spmWrite b.home (fibreAgent c a.slot a.fib) a.pa bytes
  | none =>
    let s := physWrite s a.ctx a.key a.pa bytes
    let s := l1Update s c a.pa bytes
    if backed a.pa then noteWriter (l2Own s (sliceOf (dieOf c) a.pa) (a.pa / 128) a.key) c a else s

/-- An access with its value fixed; one without a destination is over (R188). -/
def settle (s : State) (c : Nat) (a : Access) (v : Option (List Byte)) : State :=
  if a.dst = 0 then dropAccess s c a.id
  else setAccess s c { a with phase := .performed, val := v.getD [], poison := v.isNone }

/-- The fault-log entry of a join word whose decrement failed (R21, R369). -/
def joinLog (s : State) (c : Nat) (a : Access) : State :=
  faultLog s a.ctx 6 c a.fib a.slot a.va (List.replicate 32 0) zero64

/-- What a read-modify-write reads, now: at SPM the write that immediately precedes its own (R91). -/
def rmwBytes (s : State) (c : Nat) (a : Access) : Option (List Byte) :=
  match a.spm with
  | some b => if unitBad (s.core b.home).spmBad a.pa a.size then none else some ((s.core b.home).spmBytes a.pa a.size)
  | none => locationBytes s c a

/-- An access is performed (R87, R92, R97, R99): a load takes its value, a store writes, a read-modify-write does both and
writes nothing over POISON. Each is performed whole, never in part, though R97 lets one be seen in part beyond a unit
(log 75). `copy` is the L1 copy that serves a weak load. -/
def performAccess (s : State) (c : Nat) (a : Access) (copy : Option (List Byte) := none) : State :=
  match a.op with
  | .load _ _ =>
    match copy with
    | some l => settle s c a (some l)
    | none =>
      let s := if a.kind = 0 ∧ a.spm.isNone ∧ a.hint ≠ 1 then l1Fill s c a.key a.pa else s
      settle s c a (locationBytes s c a)
  | .store => dropAccess (locationWrite s c a a.data) c a.id
  | .rmw op =>
    match rmwBytes s c a with
    | none => settle s c a none
    | some old =>
      let s := settle s c a (some old)
      match rmwNew op (ofBytes old) (ofBytes a.data) (ofBytes a.cmp) a.size with
      | some v => locationWrite s c a (toBytes a.size v)
      | none => s
  | .joinDec =>
    match translate s a.ctx 2 a.va with
    | .error _ => dropAccess (joinLog s c a) c a.id
    | .ok t =>
      match physRead s t.key (t.pa a.va) 4 with
      | none => dropAccess (joinLog (badRead s a.ctx (t.pa a.va) 4) c a) c a.id
      | some old =>
        dropAccess (locationWrite s c { a with key := t.key, pa := t.pa a.va } (toBytes 4 ((ofBytes old + 2 ^ 32 - 1) % 2 ^ 32))) c a.id
  | .pref alloc => dropAccess (if alloc then l1Fill s c a.key a.pa else s) c a.id
  | .fence _ | .arrive _ _ => dropAccess s c a.id
  | _ => s

/-- The fibre's latest acquire moves to now (R70): no L1 copy leased up to now serves its later weak loads. -/
def Fibre.acquire (x : Fibre) (cycle : Nat) : Fibre := { x with acqTime := cycle + 1 }

/-- A strong access that no entry of the list stands for is performed: it takes the next logical timestamp (R92, log 76). -/
def State.stampNext (s : State) : State := { s with stamp := s.stamp + 1 }

/-- A strong access, or a .sc fence, takes the next logical timestamp as it is performed, so no two are equal (R92, log 76). -/
def stamped (s : State) (a : Access) : State × Access :=
  if a.kind = 0 ∧ a.op ≠ .fence 3 then (s, a) else (s.stampNext, { a with stamp := s.stamp + 1 })

-- Barriers' phases and marks (R41, R88)

/-- A core's barrier. -/
def State.bar (s : State) (c n : Nat) : Bar := (s.core c).bars.get n {}
/-- A core's barrier replaced. -/
def State.setBar (s : State) (c n : Nat) (x : Bar) : State := s.modCore c fun k => { k with bars := k.bars.set n x }
/-- The number that a phase has (R40). -/
def phaseNum (p : Bool) : Nat := if p then 1 else 0

/-- The number of the completion that ends the phase of a barrier now. -/
def Bar.next (x : Bar) : Nat := x.done + 1

/-- The number of the completion that ends a wait on phase `p`: the next one in that phase, else the latest (R201). -/
def Bar.target (x : Bar) (p : Bool) : Nat := if x.phase = p then x.next else x.done

/-- Whether accesses that precede an arrival counted to a barrier's `m`-th completion are still to be performed (R41, R85): until
they are, no wait for it ends. -/
def arrivalOwed (k : Core) (n m : Nat) : Bool := k.pend.any fun a => decide (a.op = .arrive n m)

/-- Whether a barrier has completed its `m`-th phase and the waits for it may end. -/
def phaseOver (k : Core) (n m : Nat) : Bool := decide (m ≤ (k.bars.get n {}).done) && !arrivalOwed k n m

/-- A fibre that waits on a core's barrier goes on (R41). -/
def releaseWaiter (k : Core) (n cycle : Nat) (x : Fibre) : Fibre :=
  match x.status with
  | .waiting (.barrier m i) =>
    if m = n ∧ phaseOver k n i then { (x.issued cycle).acquire cycle with bsynced := x.bsynced.del x.depth } else x
  | _ => x

/-- Every waiter of a phase of a core's barrier that is over is released: fibres, and a tile program in WAITK (R41, R234). -/
def releaseBar (s : State) (c n : Nat) : State :=
  s.modCore c fun k => { k with
    blocks := k.blocks.map fun (b, x) => (b, { x with fibres := x.fibres.map fun (f, y) => (f, releaseWaiter k n s.cycle y) })
    tsq := match k.tsq.wait with
      | some (.barrier m i) => if m = n ∧ phaseOver k n i then { k.tsq with passed := some n } else k.tsq
      | _ => k.tsq }

/-- A mark whose earlier accesses have been performed is passed: no L1 copy leased before a fence serves the fibre's later loads
(R70, R88, log 95), and the waits for an arrival's completion may end (R41). -/
def passMark (c : Nat) (s : State) (a : Access) : State :=
  if a.mark ∧ mayPerform (s.core c) a then
    let s := dropAccess (stamped s a).1 c a.id
    match a.op with
    | .fence _ => s.modFibre c a.slot a.fib fun x => x.acquire s.cycle
    | .arrive n _ => releaseBar s c n
    | _ => s
  else s

/-- The marks of a fibre that may be passed now are, in program order. -/
def passMarks (s : State) (c b f : Nat) : State :=
  ((s.core c).pend.filter fun a => a.mark && decide (a.slot = b) && decide (a.fib = f)).foldl (passMark c) s

/-- What performing an access does to its fibre: an acquire moves its lease time (R70), and its marks may be passed. -/
def performFor (s : State) (c : Nat) (a : Access) (copy : Option (List Byte) := none) : State :=
  let s := performAccess (stamped s a).1 c (stamped s a).2 copy
  let s := if a.acquires then s.modFibre c a.slot a.fib fun x => x.acquire s.cycle else s
  passMarks s c a.slot a.fib

/-- The status that a LAUNCH or LMSG writes to its destination (R184, R198). -/
def settleStatus (s : State) (c id st : Nat) : State :=
  match findAccess s c id with
  | some a => passMarks (settle (stamped s a).1 c (stamped s a).2 (some (toBytes 4 st))) c a.slot a.fib
  | none => s

/-- Whether a scratchpad has left its core with a forced save of the context: what would reach it waits for the restore (R373,
R374). -/
def spmAway (s : State) (ctx : Nat) (b : Option Buf) : Bool :=
  b.any fun b => (s.saves.find? (64 * b.home + ctx)).any (·.forced)

-- L2 requests (R73)

/-- Line numbers of fills outside a merge entry. -/
def aloneBit : Nat := 2 ^ 60

/-- The first fill of a line, in the order of arrival, that waits for its FILL handler (R395). -/
def heldFill (l : FMap Merge) (line : Nat) : Option Nat :=
  (l.foldl (fun (best : Option (Nat × Nat)) p =>
    if p.2.held && decide (p.1 % aloneBit = line) && (best.all fun b => decide (p.2.taken < b.2)) then some (p.1, p.2.taken) else best)
    none).map (·.1)

/-- Whether a slice serves a line: it holds it, and no fill of it waits for a handler's writes (R103). -/
def lineReady (x : Slice) (line : Nat) : Bool := (x.lines.find? line).isSome && (heldFill x.merges line).isNone

/-- Whether a physical address is neither HBM's nor an alias region's (R59). -/
def unbacked (pa : Nat) : Bool := !backed pa && decide (pa < aliasBase)

/-- Whether a merge entry has closed: its window, counted from its opening, has elapsed and its fill has arrived (R73). -/
def Merge.over (m : Merge) (cycle : Nat) : Bool := m.arrived && decide (m.opened / 2 + m.window ≤ cycle / 2)

/-- The open merge entry of a line in a slice (R73). -/
def openEntry (s : State) (sl line : Nat) : Option Merge := ((s.slice' sl).merges.find? line).filter fun m => !m.over s.cycle

/-- A fill opened in a slice, under the line's number for a merge entry. -/
def openFill (s : State) (sl line key : Nat) (merge : Bool) (regs : List (Nat × Nat)) : State :=
  s.modSlice sl fun x =>
    let m : Merge := { opened := s.cycle, window := devBits s (offSlice sl 0) 8 0, key := key, regs := regs }
    if merge then { x with merges := x.merges.set line m }
    else { x with fillNo := x.fillNo + 1, merges := x.merges.set (line + aloneBit * (x.fillNo + 1)) m }

/-- Whether a slice merges the reads of lines for which it opens entries now (R75). -/
def merging (s : State) (sl : Nat) : Bool := devBits s (offSlice sl 0) 9 9 = 1

/-- The number under which a unit of the part with no access of the list registers with a fill. -/
def unitId : Nat := 2 ^ 59

/-- A line that a unit of a core, or for 0xFFFF another agent, asks of its slice on a die with no access of the list: whether the
slice has it, with the fill and the MISS of R74 if it has not (R72, R391, R394). -/
def askAlone (s : State) (die c key pa : Nat) (write : Bool) : State × Bool :=
  let sl := sliceOf die pa
  let line := pa / 128
  if unbacked pa then (s, true)
  else if sliceShut s die pa then (s, false)
  else if lineReady (s.slice' sl) line then (s, true)
  else if (s.slice' sl).merges.any fun p => decide (p.1 % aloneBit = line) && decide (p.2.regs = [(c, unitId)]) then (s, false)
  else (raiseMiss (openFill s sl line key false [(c, unitId)]) sl line key c write, false)

/-- Whether an access waits to be performed and is not on its way to a slice. -/
def Access.waiting (a : Access) : Bool :=
  match a.phase with
  | .issued => true
  | _ => false

/-- A request that misses its slice outside any entry: a fill of its own, with the MISS that R74 gives. -/
def missAlone (s : State) (c : Nat) (a : Access) : State :=
  let sl := sliceOf (dieOf c) a.pa
  let s := setAccess s c { a with phase := .queued }
  raiseMiss (openFill s sl (a.pa / 128) a.key false [(c, a.id)]) sl (a.pa / 128) a.key c a.writes

/-- A weak read that misses with no entry open: it opens one where the slice merges (R73, R74, R75). -/
def missMerged (s : State) (c : Nat) (a : Access) : State :=
  let sl := sliceOf (dieOf c) a.pa
  if merging s sl then
    let s := setAccess s c { a with phase := .queued }
    raiseMiss (openFill s sl (a.pa / 128) a.key true [(c, a.id)]) sl (a.pa / 128) a.key c a.writes
  else missAlone s c a

/-- A speculative request of a core for a line (R74, R150): it may open a merge entry, or a fill of its own where the slice does
not merge (R75), and raises no MISS. -/
def specRequest (s : State) (c key pa : Nat) : State :=
  let sl := sliceOf (dieOf c) pa
  let x := s.slice' sl
  if unbacked pa || (x.lines.find? (pa / 128)).isSome ||
    (x.merges.any fun p => decide (p.1 % aloneBit = pa / 128) && !p.2.over s.cycle) then s
  else openFill s sl (pa / 128) key (merging s sl) []

/-- The line after an access's, requested speculatively where H = 0b10 asks for it and its page may be read (R150). -/
def nextLine (s : State) (c : Nat) (a : Access) : State :=
  if a.hint ≠ 2 then s else
  let va := (a.va / 128 + 1) * 128
  if va % 4096 ≠ 0 then specRequest s c a.key ((a.pa / 128 + 1) * 128)
  else match translate s a.ctx 0 va with
    | .ok t => specRequest s c t.key (t.pa va)
    | .error _ => s

/-- A weak read receives the data of a fill as it arrives, which its L1 may keep under a lease from then on (R73). -/
def performFrom (s : State) (c : Nat) (a : Access) (m : Merge) : State :=
  let keep (s : State) (alloc : Bool) : State :=
    match m.data with
    | some l => if alloc then l1Put s c (a.pa / 128) m.taken l else s
    | none => s
  match a.op with
  | .load _ _ =>
    passMarks (settle (keep s (a.hint ≠ 1)) c a (m.data.map fun l => slice l (a.pa % 128) a.size)) c a.slot a.fib
  | .pref alloc => dropAccess (keep s alloc) c a.id
  | _ => performFor s c a

/-- A weak load that registers after its entry's fill has the data of the fill at once (R73); its L1 keeps no copy of them, and
takes the line as the slice has it now. -/
def performLate (s : State) (c : Nat) (a : Access) (m : Merge) : State :=
  let s := if a.hint ≠ 1 ∧ lineReady (s.slice' (sliceOf (dieOf c) a.pa)) (a.pa / 128) then l1Fill s c a.key a.pa else s
  passMarks (settle s c a (m.data.map fun l => slice l (a.pa % 128) a.size)) c a.slot a.fib

/-- Whether the data of an entry's fill may serve a late load of a fibre: no acquire of it and no write by it has come since
they were taken (R70, R73, R93 conditions 3 and 7). -/
def Merge.serves (m : Merge) (acq c : Nat) (a : Access) : Bool :=
  decide (acq ≤ m.taken) && !(m.writers.any fun w => w = (c, a.slot, a.fib))

/-- A request reaches its slice: a weak load is served by a leased L1 copy; a weak read registers with an open merge entry of
its line and, after the fill, has its data at once; a line that the slice holds serves the others; anything else misses (R70,
R73). -/
def l2Access (s : State) (c : Nat) (a : Access) : State :=
  let s := nextLine s c a
  let sl := sliceOf (dieOf c) a.pa
  let line := a.pa / 128
  let x := s.slice' sl
  let weak := a.kind = 0 && !a.writes
  let acq := ((s.fibre c a.slot a.fib).map (·.acqTime)).getD 0
  match (if weak && a.loads then l1Hit s c a acq else none) with
  | some l => performFor s c a (some l)
  | none =>
    if unbacked a.pa then performFor s c a
    else match (if weak then openEntry s sl line else none) with
      | some m =>
        if !m.arrived then
          (setAccess s c { a with phase := .queued }).modSlice sl fun x =>
            { x with merges := x.merges.set line { m with regs := m.regs ++ [(c, a.id)] } }
        else if a.loads && m.serves acq c a then performLate s c a m
        else if lineReady x line then performFor s c a else missAlone s c a
      | none =>
        if lineReady x line then performFor s c a else if weak then missMerged s c a else missAlone s c a

/-- The scale line that a view read brings with its line, where the window has scales (R78). -/
def scaleLine (s : State) (pa : Nat) : Option Nat :=
  if pa < aliasBase then none else
  let x := pa - aliasBase
  let st := x / 2 ^ 40
  let w := x % 2 ^ 40 / 2 ^ 36
  let k := x % 2 ^ 36 / 2 ^ 33 + 1
  if devBits s (offFW st w 8) 11 8 = 1 ∧ devBits s (offFW st w 8) 0 0 = 1 then
    some ((devBits s (offFW st w 0x10) 51 0 + x % 2 ^ 33 / (k * 128)) / 128)
  else none

/-- A line enters its slice, with its group's scale line. -/
def insertFill (s : State) (sl line key : Nat) : State :=
  let s := if backed (128 * line) || decide (aliasBase ≤ 128 * line) then l2Insert s sl line key false else s
  match scaleLine s (128 * line) with
  | some l => if backed (128 * l) then l2Insert s (sl / 64 * 64 + sliceOf 0 (128 * l)) l key false else s
  | none => s

/-- A registrant of a fill receives its line: an access, or a copy command, which keeps the data (R73). An access that a publish
has since moved to another frame asks anew (R101). -/
def receive (m : Merge) (line : Nat) (s : State) (r : Nat × Nat) : State :=
  if aloneBit ≤ r.2 then
    s.modCore r.1 fun k => { k with cpe := k.cpe.map fun x =>
      if x.id = r.2 - aloneBit then { x with lines := x.lines.set line m.data, waits := x.waits.filter (· ≠ line) } else x }
  else match findAccess s r.1 r.2 with
    | some a =>
      if !a.open_ then s
      else if a.pa / 128 ≠ line then setAccess s r.1 { a with phase := .issued }
      else if a.kind = 0 ∧ !a.writes then performFrom s r.1 a m else performFor s r.1 a
    | none => s

/-- A fill is taken: its line enters the slice and the registrants receive it; a merge entry keeps its data for reads that
come later in its window (R73, R103, R395). -/
def deliver (s : State) (sl key : Nat) : State :=
  match (s.slice' sl).merges.find? key with
  | none => s
  | some m =>
    let line := key % aloneBit
    let s := insertFill s sl line m.key
    let m := { m with held := false, arrived := true, regs := [], data := physRead s m.key (128 * line) 128, taken := s.cycle,
                      writers := [] }
    let regs := (((s.slice' sl).merges.find? key).map (·.regs)).getD []
    let s := s.modSlice sl fun x => { x with merges := if key < aloneBit then x.merges.set key m else x.merges.del key }
    regs.foldl (receive m line) s

/-- A fill arrives (R73, R391, R395): FILL is raised for one with a registrant that is not speculative, and delivery waits for
the handler that will have the event. -/
def fillArrives (s : State) (sl key : Nat) : State :=
  match (s.slice' sl).merges.find? key with
  | none => s
  | some m =>
    if m.arrived ∨ m.held then s
    else match m.regs with
      | [] => deliver s sl key
      | r :: _ =>
        let (s, handler) := raiseFill s sl (key % aloneBit) m.key r.1 0 0
        if handler then
          s.modSlice sl fun x => { x with merges := x.merges.set key { m with held := true, taken := s.cycle } }
        else deliver s sl key

-- Program order

/-- The open accesses of a fibre, prefetches and passed-on marks apart, in program order. -/
def openOf (s : State) (c b f : Nat) : List Access :=
  (s.core c).pend.filter fun a => a.open_ && decide (a.slot = b) && decide (a.fib = f) && !(match a.op with
    | .pref _ => true
    | _ => false)

/-- Bytes at a physical address as a fibre sees them after its own stores that are still to be performed (R93 condition 3). -/
def ownBytes (s : State) (c b f pa : Nat) (l : List Byte) : List Byte :=
  (openOf s c b f).foldl (fun l a =>
    if a.op = .store ∧ a.spm.isNone then l.zipIdx.map fun (v, i) => if a.pa ≤ pa + i ∧ pa + i < a.pa + a.size then a.data.getD (pa + i - a.pa) v else v
    else l) l

/-- The accesses of a block that are still to be performed, but for its messages. -/
def openOfBlock (k : Core) (b : Nat) : List Access := k.pend.filter fun a => a.open_ && decide (a.slot = b) && (match a.op with
  | .pref _ | .lmsg _ | .launch _ => false
  | _ => true)

/-- An instruction that releases as it issues: the fibre waits until its earlier accesses have been performed (R24, R46, R62, R85,
R88, log 96). -/
def FCtx.released (q : FCtx) (s : State) (w : Wait) (act : FCtx → State → State) : State :=
  if (openOf s q.c q.b q.f).isEmpty then act q s else q.wait s w

/-- The issuing fibre leaves a mark in its program order, if an access of it is outstanding (R41, R194). -/
def FCtx.leaveMark (q : FCtx) (s : State) (op : AOp) : State :=
  if (openOf s q.c q.b q.f).isEmpty then s else
  let s := s.modCore q.c fun k => { k with
    pendId := k.pendId + 1
    pend := k.pend ++ [{ id := k.pendId, slot := q.b, fib := q.f, ctx := q.k.ctx, op := op, depth := q.x.depth, cycle := s.cycle }] }
  passMarks s q.c q.b q.f

-- Return of data (R188, R364)

/-- A performed load's words: extended as R189 gives. -/
def loadWords (a : Access) : List Word :=
  match a.op with
  | .load sgn _ =>
    if a.size < 4 then
      let v := ofBytes a.val
      [if sgn then BitVec.ofInt 32 (sextN v (8 * a.size)) else BitVec.ofNat 32 v]
    else (List.range a.nregs).map fun i => BitVec.ofNat 32 (ofBytes (slice a.val (4 * i) 4))
  | _ => (List.range a.nregs).map fun i => BitVec.ofNat 32 (ofBytes (slice a.val (4 * i) 4))

/-- A returned word lands in the live register, if that is still empty with its tag (R364). -/
def landLive (x : Fibre) (win d : Nat) (tag : BitVec 16) (poison : Bool) : List Word → Fibre
  | [] => x
  | v :: t =>
    let r := x.reg win d
    let y := if !r.full ∧ r.tag = tag then { x with regs := x.regs.set d { val := v, poison := poison } } else x
    landLive y win (d + 1) tag poison t

/-- A returned word lands in a register slot of a frame (R364). -/
def landFrame (s : State) (ctx frame d : Nat) (tag : BitVec 16) (poison : Bool) : List Word → State
  | [] => s
  | v :: t =>
    let a := frame + 256 + 8 * d
    let s' := match readVirt s ctx a 8 with
      | .ok l =>
        let r := Reg.ofBytes l
        if !r.full ∧ r.tag = tag then writeVirt s ctx a ({ val := v, poison := poison } : Reg).bytes else s
      | _ => s
    landFrame s' ctx frame (d + 1) tag poison t

/-- The address of the frame that a fibre wrote when it left a depth (R354, R364). -/
def frameAt (s : State) (c ctx : Nat) (x : Fibre) (depth : Nat) : Option Nat :=
  match x.frames[x.depth - depth - 1]? with
  | some n => some (devBits s (offCX ctx 0x10) 55 12 * 4096 + (c * devBits s (offCX ctx 0x18) 10 0 + n) * 2304)
  | none => none

/-- A returned word lands in a register slot of a saved fibre record at a physical address (R364, R376). -/
def landSaved (s : State) (record d : Nat) (tag : BitVec 16) (poison : Bool) : List Word → State
  | [] => s
  | v :: t =>
    let a := record + 256 + 8 * d
    let s' := match physRead s 64 a 8 with
      | some l =>
        let r := Reg.ofBytes l
        if !r.full ∧ r.tag = tag then physWrite s 0 64 a ({ val := v, poison := poison } : Reg).bytes else s
      | none => s
    landSaved s' record (d + 1) tag poison t

/-- The fibres of a core in the order of their context slots: by block slot, then by number. -/
def contextSlots (k : Core) : List (Nat × Nat) := k.blocks.flatMap fun (b, x) => x.fibres.map fun (f, _) => (b, f)

/-- The physical address of a context's save area for a core (R370). -/
def saveArea (s : State) (c ctx : Nat) : Nat := devBits s (offCX ctx 0x38) 51 12 * 4096 + 2 ^ 24 * c

/-- The physical address of a saved fibre record (R376). -/
def fibreRecord (s : State) (c ctx : Nat) (k : Core) (b f : Nat) : Nat :=
  saveArea s c ctx + 0x200000 + 2304 * (contextSlots k).findIdx fun m => m = (b, f)

/-- The data of an access return to a fibre that a forced save holds (R364). -/
def returnSaved (s : State) (c : Nat) (a : Access) : State :=
  match s.saves.find? (64 * c + a.ctx) with
  | none => s
  | some v =>
    match (v.k.blocks.find? a.slot).bind fun k => k.fibres.find? a.fib with
    | none => s
    | some x =>
      if x.depth = a.depth then landSaved s (fibreRecord s c a.ctx v.k a.slot a.fib) a.dst a.tag a.poison (loadWords a)
      else match frameAt s c a.ctx x a.depth with
        | some p => landFrame s a.ctx p a.dst a.tag a.poison (loadWords a)
        | none => s

/-- The data of an access return (R188, R364). -/
def returnData (s : State) (c : Nat) (a : Access) : State :=
  let s := dropAccess s c a.id
  match s.block c a.slot, s.fibre c a.slot a.fib with
  | some k, some x =>
    if x.depth = a.depth then s.setFibre c a.slot a.fib (landLive x k.win a.dst a.tag a.poison (loadWords a))
    else if a.depth < x.depth then
      match frameAt s c k.ctx x a.depth with
      | some p => landFrame s k.ctx p a.dst a.tag a.poison (loadWords a)
      | none => s
    else s
  | _, _ => returnSaved s c a

/-- A walk asked for on a compute die; one walk serves every request of a context for a page (R385). -/
def askWalk (s : State) (die ctx page : Nat) : State :=
  if (s.walks.any fun w => w = (die, ctx, page)) then s else { s with walks := s.walks ++ [(die, ctx, page)] }

/-- Whether a unit must wait for the walk of a page: its translation is not cached, and the unit has not asked for its walk, or that
walk is still to end (R385). -/
def walkNeeded (s : State) (die ctx page : Nat) (asked : Option Nat) : Bool :=
  (tlbFind s ctx page).isNone && (decide (asked ≠ some page) || s.walks.any fun w => w = (die, ctx, page))

-- Issue

/-- A new access of the issuing fibre: it enters the list, its destination is marked empty, and the fibre goes on (R188,
R189, R364). -/
def FCtx.issueAccess (q : FCtx) (s : State) (a : Access) : State :=
  let tag := q.x.tagCtr + 1
  let y := if a.dst = 0 then q.x else { (q.x.markEmpty q.k.win a.dst tag a.nregs) with tagCtr := tag }
  let s := q.retire s y
  s.modCore q.c fun k => { k with
    pendId := k.pendId + 1
    pend := k.pend ++ [{ a with id := k.pendId, slot := q.b, fib := q.f, ctx := q.k.ctx, tag := tag, depth := q.x.depth,
                                hint := q.h.h, cycle := s.cycle, blk := q.k.blk }] }

/-- A cached translation, or a walk to wait for (R187, R385). -/
def FCtx.translated (q : FCtx) (s : State) (acc : Nat) (va : Nat) (act : Tlb → State) : State :=
  if 2 ^ 56 ≤ va then q.pageFault s ⟨0, 0⟩ acc va
  else match tlbFind s q.k.ctx (va / 4096) with
    | some t => match permit s q.k.ctx acc t with
      | .ok t => act t
      | .error e => q.pageFault s e acc va
    | none =>
      askWalk (q.wait s (.xlate acc va)) (dieOf q.c) q.k.ctx (va / 4096)

/-- The three checks of R187 on an access of `n` bytes. -/
def FCtx.globalChecks (q : FCtx) (s : State) (acc va n : Nat) (act : Tlb → State) : State :=
  if 2 ^ 56 ≤ va then q.pageFault s ⟨0, 0⟩ acc va
  else if va % n ≠ 0 then q.align s va n
  else q.translated s acc va act

end Sys2Proof.Machine
end

