-- ==== Sys2Proof/Machine/Fetch.lean ====
section
/-!
DEFINITION. Fetching an instruction's bytes and reading the instruction from them: sealed pages, the faults of a fetch,
and words that no encoding has (R149, R362, R380, R383).
-/
namespace Sys2Proof.Machine

/-- What a fetch gives: an instruction to run, a state in which the fetch itself trapped or nothing is to be issued, or a
refusal. -/
inductive Fetched where
  | run (i : Instr)
  | took (s : State)
  | bad (r : Refusal)

/-- How code bytes read for a context: a page fault, no valid seal, POISON, or the bytes (R380, R383). -/
inductive CodeRead where
  | fault (e : PFault)
  | unsealed
  | poison
  | ok (bytes : List Byte)
deriving DecidableEq, Repr

/-- Whether a frame holds valid seal metadata for a context under a leaf with SEAL (R383). -/
def sealedFor (s : State) (ctx : Nat) (t : Tlb) : Bool :=
  t.sealed_ && (match s.seals.find? t.frame with
    | some m => decide (m.ctx = ctx)
    | none => false)

/-- `n` bytes of code at an address of a context; code words do not cross a page. -/
def readCode (s : State) (ctx : Nat) (va n : Nat) : CodeRead :=
  match translate s ctx 3 va with
  | .error e => .fault e
  | .ok t =>
    if !sealedFor s ctx t then .unsealed
    else match physRead s t.key (t.pa va) n with
      | none => .poison
      | some l => .ok l

/-- A decoded word: well formed, or refused by name (R149, R319). -/
def admitted (r : Except SealCode Instr) : Fetched :=
  match r with
  | .ok i => if i.wf then .run i else .bad .reservedEncoding
  | .error .opcode => .bad .unassigned
  | .error _ => .bad .reservedEncoding

/-- The fetch of a fibre's next word (R362, R385): it waits for a walk of a page that has no cached translation. POISON read as code raises POISON_READ (DESIGN CHOICE, log 13). -/
def fetchFibre (s : State) (c b f : Nat) : Fetched :=
  match s.block c b, s.fibre c b f with
  | some k, some x =>
    let q : FCtx := ⟨c, b, f, k, x, {}, true⟩
    if !x.canIssue then .took s else
    match duePending k x f with
    | some (t, k') => .took (q.takePending s t k')
    | none =>
      if (tlbFind s k.ctx (x.pc.toNat / 4096)).isNone then
        .took (askWalk (q.wait s (.xlate 3 x.pc.toNat)) (dieOf c) k.ctx (x.pc.toNat / 4096))
      else match readCode s k.ctx x.pc.toNat 8 with
      | .fault e => .took (q.pageFault s e 3 x.pc.toNat)
      | .unsealed => .took (q.trapAt s 0x08 (x.pc.setWidth 64) 0 0)
      | .poison => .took (q.trapAt (badVirt s k.ctx x.pc.toNat 8) 0x03 0 0xFFFF 0)
      | .ok l => admitted (Decode.decodeFibre (BitVec.ofNat 64 (ofBytes l)))
  | _, _ => .took s

end Sys2Proof.Machine
end

