-- ==== Sys2Proof/Machine/Flags.lean ====
section
/-!
DEFINITION. The comparisons that set predicates and lanes (R164, R239).
-/
namespace Sys2Proof.Machine

/-- A comparison of integers by its code (R164); codes 6 and 7 are not accepted for integers. -/
def cmpInt (cc : Nat) (a b : Int) : Bool :=
  match cc with
  | 0 => decide (a = b)
  | 1 => decide (a ≠ b)
  | 2 => decide (a < b)
  | 3 => decide (a ≤ b)
  | 4 => decide (b < a)
  | 5 => decide (b ≤ a)
  | _ => false

/-- A comparison of two codes of a float format by its code (R164). -/
def cmpFloat (cc f a b : Nat) : Bool :=
  let x := valueOf a f
  let y := valueOf b f
  let nan := x.isNan || y.isNan
  match cc with
  | 0 => !nan && decide (cmpVal x y = .eq)
  | 1 => nan || decide (cmpVal x y ≠ .eq)
  | 2 => !nan && decide (cmpVal x y = .lt)
  | 3 => !nan && decide (cmpVal x y ≠ .gt)
  | 4 => !nan && decide (cmpVal x y = .gt)
  | 5 => !nan && decide (cmpVal x y ≠ .lt)
  | 6 => !nan
  | _ => nan

/-- SETP's comparison by type code: .I32, .UI32, .F32, .I64, .UI64, .F64 (R164). -/
def cmpTyped (ty cc a b : Nat) : Bool :=
  match ty with
  | 0 => cmpInt cc (sextN a 32) (sextN b 32)
  | 1 => cmpInt cc (a % 2 ^ 32 : Nat) (b % 2 ^ 32 : Nat)
  | 2 => cmpFloat cc 0x11 (a % 2 ^ 32) (b % 2 ^ 32)
  | 3 => cmpInt cc (sextN a 64) (sextN b 64)
  | 4 => cmpInt cc a b
  | _ => cmpFloat cc 0x10 a b

end Sys2Proof.Machine
end

