-- ==== Sys2Proof/Machine/FibreInt.lean ====
section
/-!
DEFINITION. Fibre set: integer, bit-manipulation, 64-bit, move, compare and predicate instructions (R156 to R165).
-/
namespace Sys2Proof.Machine


-- Integer arithmetic (R156)

/-- ADD (R156). -/
def execAdd (f : FHdr) (d sa sb : BitVec 8) (sat : BitVec 1) (s : State) : Out :=
  fibreExec f (form2 sa sb d 4 fun a b => fit32 sat (a.toInt + b.toInt)) s
/-- SUB (R156). -/
def execSub (f : FHdr) (d sa sb : BitVec 8) (sat : BitVec 1) (s : State) : Out :=
  fibreExec f (form2 sa sb d 4 fun a b => fit32 sat (a.toInt - b.toInt)) s
/-- MUL (R156). -/
def execMul (f : FHdr) (d sa sb : BitVec 8) (s : State) : Out :=
  fibreExec f (form2 sa sb d 5 fun a b => wrap32 (a.toInt * b.toInt)) s
/-- MULHI (R156). -/
def execMulhi (f : FHdr) (d sa sb : BitVec 8) (s : State) : Out :=
  fibreExec f (form2 sa sb d 5 fun a b => hi32 (wrap64 (a.toInt * b.toInt))) s
/-- MULHIU (R156). -/
def execMulhiu (f : FHdr) (d sa sb : BitVec 8) (s : State) : Out :=
  fibreExec f (form2 sa sb d 5 fun a b => hi32 (BitVec.ofNat 64 (a.toNat * b.toNat))) s
/-- MAD (R156). -/
def execMad (f : FHdr) (d sa sb sc : BitVec 8) (sat : BitVec 1) (s : State) : Out :=
  fibreExec f (form3 sa sb sc d 5 fun a b c => fit32 sat (a.toInt * b.toInt + c.toInt)) s

/-- Quotient and remainder of R157 on integers: truncation toward zero, with its values for a zero divisor. -/
def divZ (a b q0 : Int) : Int := if b = 0 then q0 else a.tdiv b
/-- The remainder of R157: the dividend for a zero divisor. -/
def remZ (a b : Int) : Int := if b = 0 then a else a - b * a.tdiv b

/-- DIV (R157). -/
def execDiv (f : FHdr) (d sa sb : BitVec 8) (s : State) : Out :=
  fibreExec f (form2 sa sb d 20 fun a b => wrap32 (divZ a.toInt b.toInt (-1))) s
/-- DIVU (R157). -/
def execDivu (f : FHdr) (d sa sb : BitVec 8) (s : State) : Out :=
  fibreExec f (form2 sa sb d 20 fun a b => wrap32 (divZ a.toNat b.toNat (2 ^ 32 - 1))) s
/-- REM (R157). -/
def execRem (f : FHdr) (d sa sb : BitVec 8) (s : State) : Out :=
  fibreExec f (form2 sa sb d 20 fun a b => wrap32 (remZ a.toInt b.toInt)) s
/-- REMU (R157). -/
def execRemu (f : FHdr) (d sa sb : BitVec 8) (s : State) : Out :=
  fibreExec f (form2 sa sb d 20 fun a b => wrap32 (remZ a.toNat b.toNat)) s
/-- MIN (R156). -/
def execMin (f : FHdr) (d sa sb : BitVec 8) (s : State) : Out :=
  fibreExec f (form2 sa sb d 4 fun a b => if a.toInt ≤ b.toInt then a else b) s
/-- MAX (R156). -/
def execMax (f : FHdr) (d sa sb : BitVec 8) (s : State) : Out :=
  fibreExec f (form2 sa sb d 4 fun a b => if a.toInt ≤ b.toInt then b else a) s
/-- MINU (R156). -/
def execMinu (f : FHdr) (d sa sb : BitVec 8) (s : State) : Out :=
  fibreExec f (form2 sa sb d 4 fun a b => if a.toNat ≤ b.toNat then a else b) s
/-- MAXU (R156). -/
def execMaxu (f : FHdr) (d sa sb : BitVec 8) (s : State) : Out :=
  fibreExec f (form2 sa sb d 4 fun a b => if a.toNat ≤ b.toNat then b else a) s
/-- ABS (R156). -/
def execAbs (f : FHdr) (d sa : BitVec 8) (sat : BitVec 1) (s : State) : Out :=
  fibreExec f (form1 sa d 4 fun a => fit32 sat (a.toInt.natAbs : Int)) s
/-- NEG (R156). -/
def execNeg (f : FHdr) (d sa : BitVec 8) (sat : BitVec 1) (s : State) : Out :=
  fibreExec f (form1 sa d 4 fun a => fit32 sat (-a.toInt)) s

/-- ADDI (R158). -/
def execAddi (f : FHdr) (d sa : BitVec 8) (imm : BitVec 16) (s : State) : Out :=
  fibreExec f (form1 sa d 4 fun a => wrap32 (a.toInt + imm.toInt)) s
/-- MULI (R158). -/
def execMuli (f : FHdr) (d sa : BitVec 8) (imm : BitVec 16) (s : State) : Out :=
  fibreExec f (form1 sa d 5 fun a => wrap32 (a.toInt * imm.toInt)) s
/-- MINI (R158). -/
def execMini (f : FHdr) (d sa : BitVec 8) (imm : BitVec 16) (s : State) : Out :=
  fibreExec f (form1 sa d 4 fun a => if a.toInt ≤ imm.toInt then a else imm.signExtend 32) s
/-- MAXI (R158). -/
def execMaxi (f : FHdr) (d sa : BitVec 8) (imm : BitVec 16) (s : State) : Out :=
  fibreExec f (form1 sa d 4 fun a => if a.toInt ≤ imm.toInt then imm.signExtend 32 else a) s

-- Bit manipulation (R159, R160)

/-- AND (R159). -/
def execAnd (f : FHdr) (d sa sb : BitVec 8) (s : State) : Out := fibreExec f (form2 sa sb d 4 fun a b => a &&& b) s
/-- OR (R159). -/
def execOr (f : FHdr) (d sa sb : BitVec 8) (s : State) : Out := fibreExec f (form2 sa sb d 4 fun a b => a ||| b) s
/-- XOR (R159). -/
def execXor (f : FHdr) (d sa sb : BitVec 8) (s : State) : Out := fibreExec f (form2 sa sb d 4 fun a b => a ^^^ b) s
/-- ANDN (R159). -/
def execAndn (f : FHdr) (d sa sb : BitVec 8) (s : State) : Out :=
  fibreExec f (form2 sa sb d 4 fun a b => a &&& ~~~b) s
/-- NOT (R159). -/
def execNot (f : FHdr) (d sa : BitVec 8) (s : State) : Out := fibreExec f (form1 sa d 4 fun a => ~~~a) s
/-- SHL (R159). -/
def execShl (f : FHdr) (d sa sb : BitVec 8) (s : State) : Out :=
  fibreExec f (form2 sa sb d 4 fun a b => if b.toNat < 32 then a <<< b.toNat else 0) s
/-- SHR (R159). -/
def execShr (f : FHdr) (d sa sb : BitVec 8) (s : State) : Out :=
  fibreExec f (form2 sa sb d 4 fun a b => if b.toNat < 32 then a >>> b.toNat else 0) s
/-- SAR (R159). -/
def execSar (f : FHdr) (d sa sb : BitVec 8) (s : State) : Out :=
  fibreExec f (form2 sa sb d 4 fun a b => a.sshiftRight (min b.toNat 32)) s
/-- ROTL (R159). -/
def execRotl (f : FHdr) (d sa sb : BitVec 8) (s : State) : Out :=
  fibreExec f (form2 sa sb d 4 fun a b => a.rotateLeft (b.toNat % 32)) s
/-- ROTR (R159). -/
def execRotr (f : FHdr) (d sa sb : BitVec 8) (s : State) : Out :=
  fibreExec f (form2 sa sb d 4 fun a b => a.rotateRight (b.toNat % 32)) s
/-- POPC (R159). -/
def execPopc (f : FHdr) (d sa : BitVec 8) (s : State) : Out :=
  fibreExec f (form1 sa d 4 fun a => BitVec.ofNat 32 (popcN a.toNat 32)) s
/-- CLZ (R159). -/
def execClz (f : FHdr) (d sa : BitVec 8) (s : State) : Out :=
  fibreExec f (form1 sa d 4 fun a => BitVec.ofNat 32 (clzN a.toNat 32)) s
/-- CTZ (R159). -/
def execCtz (f : FHdr) (d sa : BitVec 8) (s : State) : Out :=
  fibreExec f (form1 sa d 4 fun a => BitVec.ofNat 32 (ctzN a.toNat 32 0)) s
/-- BREV (R159). -/
def execBrev (f : FHdr) (d sa : BitVec 8) (s : State) : Out :=
  fibreExec f (form1 sa d 4 fun a => BitVec.ofNat 32 (revN a.toNat 32)) s

/-- The field of BFE (R160): position and length from the field word. -/
def bfeWord (sgn : BitVec 1) (a w : Word) : Word :=
  let pos := bitsN w.toNat 7 0
  let len := bitsN w.toNat 15 8
  if len = 0 ∨ 32 ≤ pos then 0
  else
    let n := min len (32 - pos)
    let v := (a.toNat >>> pos) % 2 ^ n
    if sgn = 1 then BitVec.ofInt 32 (sextN v n) else BitVec.ofNat 32 v

/-- BFI's result (R160). -/
def bfiWord (a b w : Word) : Word :=
  let pos := bitsN w.toNat 7 0
  let len := bitsN w.toNat 15 8
  if len = 0 ∨ 32 ≤ pos then a
  else
    let n := min len (32 - pos)
    let mask := (BitVec.ofNat 32 (2 ^ n - 1)) <<< pos
    (a &&& ~~~mask) ||| ((b <<< pos) &&& mask)

/-- One byte of BPICK (R160). -/
def bpickByte (a b w : Word) (i : Nat) : Byte :=
  let ctl := (w >>> (8 * i)).toNat % 256
  let v : Byte := BitVec.ofNat 8 ((b.toNat * 2 ^ 32 + a.toNat) >>> (8 * (ctl % 8)))
  match ctl / 64 with
  | 0 => v
  | 1 => 0
  | 2 => 0xFF
  | _ => BitVec.ofNat 8 (revN v.toNat 8)

/-- BLUT3 and PLUT3: bit `a + 2b + 4c` of the table (R160, R165). -/
def lut3 (lut : BitVec 8) (a b c : Bool) : Bool := lut.getLsbD (a.toNat + 2 * b.toNat + 4 * c.toNat)

/-- BFE (R160). -/
def execBfe (f : FHdr) (d sa sb : BitVec 8) (sgn : BitVec 1) (s : State) : Out :=
  fibreExec f (form2 sa sb d 4 (bfeWord sgn)) s
/-- BFI (R160). -/
def execBfi (f : FHdr) (d sa sb sc : BitVec 8) (s : State) : Out := fibreExec f (form3 sa sb sc d 4 bfiWord) s
/-- BPICK (R160). -/
def execBpick (f : FHdr) (d sa sb sc : BitVec 8) (s : State) : Out :=
  fibreExec f (form3 sa sb sc d 4 fun a b w => bpickByte a b w 3 ++ bpickByte a b w 2 ++ bpickByte a b w 1 ++ bpickByte a b w 0) s
/-- BLUT3 (R160). -/
def execBlut3 (f : FHdr) (d sa sb sc lut : BitVec 8) (s : State) : Out :=
  fibreExec f (form3 sa sb sc d 4 fun a b c => BitVec.ofNat 32 ((List.range 32).foldl (fun acc i =>
    acc + (if lut3 lut (a.getLsbD i) (b.getLsbD i) (c.getLsbD i) then 2 ^ i else 0)) 0)) s

/-- ANDI (R159). -/
def execAndi (f : FHdr) (d sa : BitVec 8) (imm : BitVec 16) (s : State) : Out :=
  fibreExec f (form1 sa d 4 fun a => a &&& imm.setWidth 32) s
/-- ORI (R159). -/
def execOri (f : FHdr) (d sa : BitVec 8) (imm : BitVec 16) (s : State) : Out :=
  fibreExec f (form1 sa d 4 fun a => a ||| imm.setWidth 32) s
/-- XORI (R159). -/
def execXori (f : FHdr) (d sa : BitVec 8) (imm : BitVec 16) (s : State) : Out :=
  fibreExec f (form1 sa d 4 fun a => a ^^^ imm.setWidth 32) s
/-- SHLI (R159). -/
def execShli (f : FHdr) (d sa : BitVec 8) (imm : BitVec 5) (s : State) : Out :=
  fibreExec f (form1 sa d 4 fun a => a <<< imm.toNat) s
/-- SHRI (R159). -/
def execShri (f : FHdr) (d sa : BitVec 8) (imm : BitVec 5) (s : State) : Out :=
  fibreExec f (form1 sa d 4 fun a => a >>> imm.toNat) s
/-- SARI (R159). -/
def execSari (f : FHdr) (d sa : BitVec 8) (imm : BitVec 5) (s : State) : Out :=
  fibreExec f (form1 sa d 4 fun a => a.sshiftRight imm.toNat) s

-- 64-bit pairs and addresses (R161, R162)

/-- ADD64 (R161). -/
def execAdd64 (f : FHdr) (d sa sb : BitVec 8) (s : State) : Out := fibreExec f (pair2 sa sb d 4 fun a b => a + b) s
/-- SUB64 (R161). -/
def execSub64 (f : FHdr) (d sa sb : BitVec 8) (s : State) : Out := fibreExec f (pair2 sa sb d 4 fun a b => a - b) s
/-- MUL64 (R161). -/
def execMul64 (f : FHdr) (d sa sb : BitVec 8) (s : State) : Out := fibreExec f (pair2 sa sb d 8 fun a b => a * b) s
/-- MULW (R161). -/
def execMulw (f : FHdr) (d sa sb : BitVec 8) (s : State) : Out :=
  fibreExec f (fix64 [srcA sa, srcB sb] d 5 fun q => wrap64 ((q.g sa).toInt * (q.g sb).toInt)) s
/-- MULWU (R161). -/
def execMulwu (f : FHdr) (d sa sb : BitVec 8) (s : State) : Out :=
  fibreExec f (fix64 [srcA sa, srcB sb] d 5 fun q => BitVec.ofNat 64 ((q.g sa).toNat * (q.g sb).toNat)) s
/-- SHL64 (R161). -/
def execShl64 (f : FHdr) (d sa sb : BitVec 8) (s : State) : Out :=
  fibreExec f (fix64 [srcA sa 2, srcB sb] d 4 fun q =>
    if (q.g sb).toNat < 64 then q.gg sa <<< (q.g sb).toNat else 0) s
/-- SHR64 (R161). -/
def execShr64 (f : FHdr) (d sa sb : BitVec 8) (s : State) : Out :=
  fibreExec f (fix64 [srcA sa 2, srcB sb] d 4 fun q =>
    if (q.g sb).toNat < 64 then q.gg sa >>> (q.g sb).toNat else 0) s
/-- SAR64 (R161). -/
def execSar64 (f : FHdr) (d sa sb : BitVec 8) (s : State) : Out :=
  fibreExec f (fix64 [srcA sa 2, srcB sb] d 4 fun q => (q.gg sa).sshiftRight (min (q.g sb).toNat 64)) s
/-- MIN64 (R161). -/
def execMin64 (f : FHdr) (d sa sb : BitVec 8) (s : State) : Out :=
  fibreExec f (pair2 sa sb d 4 fun a b => if a.toInt ≤ b.toInt then a else b) s
/-- MAX64 (R161). -/
def execMax64 (f : FHdr) (d sa sb : BitVec 8) (s : State) : Out :=
  fibreExec f (pair2 sa sb d 4 fun a b => if a.toInt ≤ b.toInt then b else a) s
/-- ADDI64 (R161). -/
def execAddi64 (f : FHdr) (d sa : BitVec 8) (imm : BitVec 16) (s : State) : Out :=
  fibreExec f (pair1 sa d 4 fun a => a + imm.signExtend 64) s
/-- LEA (R162). -/
def execLea (f : FHdr) (d sa sb : BitVec 8) (shift : BitVec 3) (u : BitVec 1) (s : State) : Out :=
  fibreExec f (fix64 [srcA sa 2, srcB sb] d 4 fun q =>
    q.gg sa + ((if u = 1 then (q.g sb).setWidth 64 else (q.g sb).signExtend 64) <<< shift.toNat)) s

-- Moves, comparisons and predicates (R163 to R165)

/-- A value that is one register, or a pair under .B64, in the field code given. -/
def srcW (field : Nat) (n : BitVec 8) (b64 : Bool) : Src := ⟨field, n.toNat, if b64 then 2 else 1, false⟩
/-- The value of a register, or of a pair under .B64. -/
def FCtx.gw (q : FCtx) (n : BitVec 8) (b64 : Bool) : DWord := if b64 then q.gg n else (q.g n).setWidth 64
/-- A result in a register, or in a pair under .B64. -/
def fixW (srcs : List Src) (psrcs : List Nat) (d : BitVec 8) (b64 : Bool) (lat : Nat) (v : FCtx → DWord) : FSem :=
  { srcs := srcs, psrcs := psrcs, dsts := [(d.toNat, if b64 then 2 else 1)],
    act := fun q s => if b64 then q.putPair s d.toNat (v q) lat else q.putReg s d.toNat (lo32 (v q)) lat }

/-- MOV (R163). -/
def execMov (f : FHdr) (d sa : BitVec 8) (b64 : BitVec 1) (s : State) : Out :=
  fibreExec f (fixW [srcW 0 sa (b64 = 1)] [] d (b64 = 1) 4 fun q => q.gw sa (b64 = 1)) s
/-- MOVI (R163). -/
def execMovi (f : FHdr) (d : BitVec 8) (imm : BitVec 32) (s : State) : Out := fibreExec f (fix32 [] d 4 fun _ => imm) s
/-- SEL (R163). -/
def execSel (f : FHdr) (d sa sb pc : BitVec 8) (b64 : BitVec 1) (s : State) : Out :=
  fibreExec f (fixW [srcW 0 sa (b64 = 1), srcW 1 sb (b64 = 1)] [pc.toNat] d (b64 = 1) 4 fun q =>
    if q.x.pred pc.toNat then q.gw sa (b64 = 1) else q.gw sb (b64 = 1)) s
/-- SETP (R164). -/
def execSetp (f : FHdr) (pd sa sb : BitVec 8) (cc ty : BitVec 3) (s : State) : Out :=
  fibreExec f (fixPred [srcW 0 sa (3 ≤ ty.toNat), srcW 1 sb (3 ≤ ty.toNat)] [] pd 4 fun q =>
    cmpTyped ty.toNat cc.toNat (q.gw sa (3 ≤ ty.toNat)).toNat (q.gw sb (3 ≤ ty.toNat)).toNat) s
/-- SETPI (R164). -/
def execSetpi (f : FHdr) (pd sa : BitVec 8) (cc : BitVec 3) (u : BitVec 1) (imm : BitVec 16) (s : State) : Out :=
  fibreExec f (fixPred [srcA sa] [] pd 4 fun q =>
    if u = 1 then cmpInt cc.toNat (q.g sa).toNat imm.toNat else cmpInt cc.toNat (q.g sa).toInt imm.toInt) s
/-- PLUT3 (R165). -/
def execPlut3 (f : FHdr) (pd pa pb pc : BitVec 8) (lut : BitVec 8) (s : State) : Out :=
  fibreExec f (fixPred [] [pa.toNat, pb.toNat, pc.toNat] pd 2 fun q =>
    lut3 lut (q.x.pred pa.toNat) (q.x.pred pb.toNat) (q.x.pred pc.toNat)) s
/-- P2G (R165). -/
def execP2g (f : FHdr) (d : BitVec 8) (s : State) : Out :=
  fibreExec f ({
    psrcs := List.range 16, dsts := [(d.toNat, 1)],
    act := fun q s => q.putReg s d.toNat ((q.x.preds ||| 1).setWidth 32) 2 }) s

/-- The predicates that G2P writes (R165). -/
def g2pBits (a b : Word) : List Nat := ((List.range 16).drop 1).filter fun i => b.getLsbD i

/-- G2P (R165). -/
def execG2p (f : FHdr) (sa sb : BitVec 8) (s : State) : Out :=
  fibreExec f ({
    srcs := [srcA sa, srcB sb],
    act := fun q s => q.retire s ((g2pBits (q.g sa) (q.g sb)).foldl (fun x i =>
      (x.setPred i ((q.g sa).getLsbD i)).holdKey (256 + i) (s.cycle + 2)) q.x) }) s

end Sys2Proof.Machine
end

