-- ==== Sys2Proof/Machine/Tile.lean ====
section
/-!
DEFINITION. The tile sequencer: a bundle's steps at issue (R220), results on their way (R221, R222), tile traps and the
lead fibre (R358, R359), row names (R66, R225).
-/
namespace Sys2Proof.Machine

/-- What a tile operation sees at issue: core, block slot, its block, the core as it stood, the address of the bundle,
and the vector offsets of a loop-nest iteration. -/
structure TCtx where
  c : Nat
  b : Nat
  k : Block
  q : Core
  pc : VAddr
  ovd : Nat := 0
  ova : Nat := 0
  ovb : Nat := 0
  ovc : Nat := 0
deriving Repr

/-- A failed check (R362). -/
structure TTrap where
  code : BitVec 8
  addr : BitVec 64 := 0
  info0 : BitVec 64 := 0
  info1 : BitVec 64 := 0
deriving DecidableEq, Repr

/-- The parts of a slot operation in the order of R220: its wait, its checks, its effects at issue, and what follows the
rotation; `rows` are the ACM rows that it reads at issue. -/
structure SlotSem where
  wait : TCtx → State → Option Wait := fun _ _ => none
  check : TCtx → State → Option TTrap := fun _ _ => none
  commit : TCtx → State → State := fun _ s => s
  after : TCtx → State → State := fun _ s => s
  rows : TCtx → List Nat := fun _ => []

/-- BOUNDS of a tile operation: the value that failed and the field that held it (log 14). -/
def tBounds (v : Int) (field : Nat) : TTrap := { code := 0x06, addr := BitVec.ofInt 64 v, info0 := Config.fieldCode field }
/-- OWNERSHIP of a tile operation. -/
def tOwner (h : Nat) : TTrap := { code := 0x07, info0 := BitVec.ofNat 64 h }
/-- ALIGN of a tile operation. -/
def tAlign (a : Int) (n : Nat) : TTrap := { code := 0x05, addr := BitVec.ofInt 64 a, info0 := BitVec.ofNat 64 n }

/-- The running context of a core's tile program. -/
def TCtx.ctx (q : TCtx) : Nat := q.k.ctx
/-- The sequencer cycle of issue. -/
def TCtx.t (q : TCtx) : Nat := q.q.seqCyc
/-- A scalar register. -/
def TCtx.kReg (q : TCtx) (n : Nat) : BitVec 64 := q.q.tsq.k.get n 0
/-- The value of an address register (R226). -/
def TCtx.ad (q : TCtx) (n : Nat) : Nat := (q.q.tsq.ad.get n 0).toNat % 2 ^ 32
/-- A bond dimension (R218). -/
def TCtx.bd (q : TCtx) (n : Nat) : Nat := q.q.tsq.bd.get n 1
/-- A descriptor. -/
def TCtx.desc (q : TCtx) (n : Nat) : BitVec 512 := q.q.tsq.d.get n 0
/-- The ACM row that a vector name reads as under a sequencer's rotation (R66). -/
def Tsq.vrow (t : Tsq) (n : Nat) : Nat := t.vbase + (n + t.vrot) % 128
/-- The ACM row that a vector name names (R66). -/
def TCtx.vrow (q : TCtx) (n : Nat) : Nat := q.q.tsq.vrow n
/-- The contents of an ACM row. -/
def Core.row (k : Core) (n : Nat) : BitVec 2048 := k.acm.get n 0

/-- Lane `i` of a row at width `w` (R65). -/
def laneOf (r : BitVec 2048) (w i : Nat) : Nat := (r.toNat >>> (w * i)) % 2 ^ w
/-- A row from its lanes. -/
def rowOfLanes (w : Nat) (l : List Nat) : BitVec 2048 :=
  BitVec.ofNat 2048 (l.foldr (fun v acc => v % 2 ^ w + 2 ^ w * acc) 0)
/-- The lanes of a row. -/
def lanesOf (r : BitVec 2048) (w : Nat) : List Nat := (List.range (2048 / w)).map (laneOf r w)
/-- The 256 bytes of a row. -/
def rowBytes (r : BitVec 2048) : List Byte := toBytes 256 r.toNat
/-- The row that 256 bytes make. -/
def rowOfBytes (l : List Byte) : BitVec 2048 := BitVec.ofNat 2048 (ofBytes l)

/-- A run of `n` rows named by a row operand (R225): the rows, or BOUNDS. -/
def rowRun (t : Tsq) (op n : Nat) : Except TTrap (List Nat) :=
  if op < 128 then
    if 128 < n then .error (tBounds n 16) else .ok ((List.range n).map fun j => t.vrow (op + j))
  else
    let a := (t.ad.get (op % 16) 0).toNat % 2 ^ 32
    if 1024 < a + n then .error (tBounds a 16) else .ok ((List.range n).map (a + ·))

-- Results on their way

/-- A result of the issuing bundle's slot that lands after a latency (R221). -/
def TCtx.land (q : TCtx) (slot lat : Nat) (dst : Dest) (v : Nat) (s : State) : State :=
  s.modCore q.c fun k => { k with landings := k.landings ++ [{ due := q.t + lat, seq := q.q.issueNo, slot := slot, dst := dst, val := v }] }

/-- An SPM read of the issuing bundle's slot, at the next sequencer cycle, landing after 6 (R229, R243). -/
def TCtx.spmRead (q : TCtx) (slot base len : Nat) (sx : Bool) (dst : Dest) (s : State) : State :=
  s.modCore q.c fun k => { k with reads := k.reads ++ [⟨q.t + 1, q.q.issueNo, slot, base, len, sx, dst, q.t + 6⟩] }

/-- A destination written (R221). -/
def writeDest (d : Dest) (v : Nat) (k : Core) : Core :=
  match d with
  | .k n => { k with tsq := { k.tsq with k := k.tsq.k.set n (BitVec.ofNat 64 v) } }
  | .ad n => { k with tsq := { k.tsq with ad := k.tsq.ad.set n (BitVec.ofNat 48 v) } }
  | .bd n => { k with tsq := { k.tsq with bd := k.tsq.bd.set n v } }
  | .d n => { k with tsq := { k.tsq with d := k.tsq.d.set n (BitVec.ofNat 512 v) } }
  | .st => { k with tsq := { k.tsq with st := BitVec.ofNat 8 v } }
  | .fc => { k with tsq := { k.tsq with fc := v } }
  | .sreg n =>
    if n = 0x10 then { k with tsq := { k.tsq with acctype := v } }
    else if n = 0x11 then { k with tsq := { k.tsq with planes := v } }
    else if n = 0x12 then { k with tsq := { k.tsq with vbase := v } }
    else { k with tsq := { k.tsq with vrot := v } }
  | .row n => { k with acm := k.acm.set n (BitVec.ofNat 2048 v) }
  | .rowPart n lo hi =>
    let old := (k.row n).toNat
    let w := 2 ^ (hi - lo)
    { k with acm := k.acm.set n (BitVec.ofNat 2048 (old - (old >>> lo) % w * 2 ^ lo + v % w * 2 ^ lo)) }
  | .spm off len => { k with spm := spmPut k.spm off (toBytes len v) }
  | .prog n =>
    { k with xcu := { k.xcu with prog := (List.range n).map fun i => BitVec.ofNat 64 (v >>> (64 * i)), ptr := 0 } }

/-- Whether a landing goes to state that GRET discards (R218). -/
def Dest.isSeq : Dest → Bool
  | .row _ | .rowPart _ _ _ | .spm _ _ => false
  | _ => true

/-- Landings in the order in which they are applied: by issue, then by slot (R222). -/
def Landing.before (a b : Landing) : Bool := decide (a.seq < b.seq) || (decide (a.seq = b.seq) && decide (a.slot ≤ b.slot))

/-- A landing put into its place. -/
def insLanding (a : Landing) : List Landing → List Landing
  | [] => [a]
  | b :: t => if b.before a then b :: insLanding a t else a :: b :: t

/-- The value of an SPM read (R229); POISON has none (R440). -/
def SpmRead.value (k : Core) (now : Nat) (r : SpmRead) : Nat :=
  let v := if unitBad k.spmBad r.base r.len then Config.poisonBits now r.base else ofBytes (k.spmBytes r.base r.len)
  if r.sx then wrapN (sextN v (8 * r.len)) 64 else v

/-- The result of an SPM read on its way to its destination. -/
def SpmRead.landing (k : Core) (now : Nat) (r : SpmRead) : Landing :=
  { due := r.land, seq := r.seq, slot := r.slot, dst := r.dst, val := r.value k now, bad := unitBad k.spmBad r.base r.len }

/-- The 8-byte units of `n` bytes from an address on. -/
def unitsOf (a n : Nat) : List Nat := (List.range (n / 8)).map (a / 8 + ·)

/-- Whether a row holds an uncorrectable error (R440). -/
def Core.rowBad (k : Core) (n : Nat) : Bool := unitBad k.acmBad (256 * n) 256

/-- What the errors of a core become as a result lands: good bits replace those of the units that they fill; POISON makes the row or
the bytes bad, and where it reaches a register of the sequencer stops the tile program (R440, log 105). -/
def markLanding (l : Landing) (k : Core) : Core :=
  let put (m : List Nat) (a n : Nat) : List Nat :=
    let m := m.filter fun u => !(decide (a ≤ 8 * u) && decide (8 * u + 8 ≤ a + n))
    if l.bad then m ++ unitsOf a n else m
  match l.dst with
  | .row n => { k with acmBad := put k.acmBad (256 * n) 256 }
  | .rowPart n lo hi => { k with acmBad := put k.acmBad (256 * n + lo / 8) ((hi - lo) / 8) }
  | .spm off len => if l.bad then { k with spmBad := k.spmBad ++ unitsOf (off / 8 * 8) (off % 8 + len + 7) } else k
  | _ => if l.bad then { k with tsq := { k.tsq with bad := true } } else k

/-- A result due on core `c` is written in cycle `now`; other agents that read its SPM bytes in this cycle see those from
before (R95). -/
def landOne (now c : Nat) (k : Core) (l : Landing) : Core :=
  markLanding l (match l.dst with
    | .spm off len => k.spmWritten now (tileAgent c) off (toBytes len l.val)
    | d => writeDest d l.val k)

/-- A new sequencer cycle of core `c`: SPM reads of this cycle see the bytes from before its writes (R95), then every
result due is written (R221, R222). -/
def landCycle (cycle c : Nat) (k : Core) : Core :=
  let k := { k with seqCyc := k.seqCyc + 1 }
  let now := k.seqCyc
  let got := (k.reads.filter fun r => r.due ≤ now).map (SpmRead.landing k cycle)
  let all := k.landings ++ got
  let due := (all.filter fun l => l.due ≤ now).foldl (fun acc l => insLanding l acc) []
  let k := { k with
    reads := k.reads.filter fun r => ¬ r.due ≤ now
    landings := all.filter fun l => ¬ l.due ≤ now }
  due.foldl (landOne cycle c) k

-- Tile traps (R358, R359)

/-- A tile trap is delivered to the lead fibre of the lamp's block, and the sequencer stops (R358). -/
def stopTile (s : State) (c b : Nat) (t : Trap) : State :=
  match s.block c b with
  | none => s
  | some k =>
    let t := { t with tile := true, gate := k.gate, pc := (s.core c).tsq.pc.setWidth 64 }
    let s := s.modCore c fun q => { q with tsq := { q.tsq with stopped := some t, wait := none, passed := none } }
    match leadFibre k with
    | some f => takeTrap s c b f t
    | none => s

/-- A failed check of the bundle at the sequencer's PC. -/
def TCtx.trap (q : TCtx) (s : State) (t : TTrap) : State :=
  stopTile s q.c q.b { code := t.code, word := wordAt s q.k.ctx q.pc, addr := t.addr, info0 := t.info0, info1 := t.info1 }

-- The steps of R220

/-- The rotation of R232. -/
def rotate (t : Tsq) : Tsq :=
  { t with
    vrot := (t.vrot + 127) % 128
    st := (t.st <<< 1) ||| (if 0 < t.fc then 1 else 0)
    fc := t.fc - 1 }

/-- Whether a slot's guard is true (R143, R220 step 2). -/
def guardHolds (t : Tsq) (g : SGuard) : Bool := g.en = 0 || t.st.getLsbD g.st.toNat

/-- A slot's effects at issue; what it has computed from a row with an uncorrectable error is POISON (R440, log 105). -/
def SlotSem.run (x : SlotSem) (q : TCtx) (s : State) : State :=
  let t := x.commit q s
  if (x.rows q).any q.q.rowBad then
    let n := (s.core q.c).landings.length
    t.modCore q.c fun k => { k with landings := k.landings.take n ++ (k.landings.drop n).map fun l => { l with bad := true } }
  else t

/-- The commit of a bundle's active slots (R220 step 5), with the next PC and the count of issues. -/
def commitSlots (q : TCtx) (slots : List SlotSem) (rot : Bool) (s : State) : State :=
  let s := s.modCore q.c fun k => { k with
    issueNo := k.issueNo + 1
    tileIssued := some (s.cycle, q.pc.toNat)
    tsq := { k.tsq with pc := k.tsq.pc + 32, bundles := k.tsq.bundles + 1, wait := none, passed := none,
                        holdTill := k.seqCyc + 1, clear := true, jumped := false, prefix_ := none } }
  let s := slots.foldl (fun s x => x.run q s) s
  let s := if rot then s.modCore q.c fun k => { k with tsq := rotate k.tsq } else s
  slots.foldl (fun s x => x.after q s) s

/-- The steps of R220 for the active slots of the bundle at the sequencer's PC. Where several wait at once, the first in the order
S, V, M, C, X gives the charge (log 89). -/
def issueSlots (q : TCtx) (slots : List SlotSem) (rot : Bool) (s : State) : State :=
  match slots.findSome? fun x => x.wait q s with
  | some w => s.modCore q.c fun k => { k with tsq := { k.tsq with wait := some w } }
  | none =>
    match slots.findSome? fun x => x.check q s with
    | some t => q.trap s t
    | none => commitSlots q slots rot s

/-- The number of commands that a tile program has issued to an engine since its grant (R223). -/
def Tsq.cmdCount (t : Tsq) (engine : Nat) : Nat := t.cmds.get engine 0
/-- One more command of a tile program to an engine. -/
def Tsq.countCmd (t : Tsq) (engine : Nat) : Tsq := { t with cmds := t.cmds.set engine (t.cmdCount engine + 1) }

/-- The tile program of a core, if its holder's program runs. -/
def tileCtx (s : State) (c : Nat) : Option TCtx :=
  match (s.core c).lamp with
  | none => none
  | some b =>
    match s.block c b with
    | none => none
    | some k => if (s.core c).tsq.active then some ⟨c, b, k, s.core c, (s.core c).tsq.pc, 0, 0, 0, 0⟩ else none

/-- Whether fixed-latency writes to ACM rows and weight units from earlier holders are still to be performed (R236, R263). -/
def writesUnder (k : Core) : Bool :=
  (k.landings.any fun l => !l.dst.isSeq) || (k.reads.any fun r => !r.dst.isSeq) ||
    (k.mxe.jobs.any fun j => j.op ≠ 4 && j.att.isNone) || k.xcu.run.isSome || k.tsq.nest.isSome ||
    (match k.tsq.repeat_ with
      | some r => r.m.toNat % 32 ≠ 2
      | none => false)

/-- Whether the tile program's next bundle may not issue yet. -/
def tileHeld (k : Core) : Bool :=
  k.tsq.stopped.isSome || k.tsq.gather || decide (k.seqCyc < k.tsq.holdTill) || (!k.tsq.clear && writesUnder k)

/-- A bundle's slots at the turn of the tile program whose lamp it is: nothing while the program is stopped or before
the next bundle may issue; a held trap first (R359); ILLEGAL_INSTRUCTION for a marked bundle (R220 step 1). -/
def tileExec (slots : TCtx → List SlotSem) (rot : Bool) (s : State) : Out :=
  match s.cur with
  | .tile c =>
    match tileCtx s c with
    | none => .fault .noAgent
    | some q =>
      if tileHeld q.q then .next s
      else match q.q.tsq.held with
        | t :: rest =>
          .next (stopTile (s.modCore c fun k => { k with tsq := { k.tsq with held := rest } }) c q.b t)
        | [] =>
          if marked s q.k.ctx q.pc then .next (q.trap s { code := 0x01 })
          else .next (issueSlots q (slots q) rot s)
  | _ => .fault .noAgent

/-- One slot operation, alone in its bundle, under its stage guard. -/
def slotExec (g : SGuard) (x : SlotSem) (s : State) : Out :=
  tileExec (fun q => if guardHolds q.q.tsq g then [x] else []) false s

end Sys2Proof.Machine
end

