-- ==== Sys2Proof/Machine/Accounting.lean ====
section
/-!
DEFINITION. Cycle accounting and flash records (R420 to R432), and the FIU's choice of the fibres that issue in a cycle
(R349, R350).
-/
namespace Sys2Proof.Machine

/-- The key under which the hub writes its own records: no tenant's. -/
def hubKey : Nat := 64

-- Charges (R422 to R425)

/-- `n` slot-cycles charged to a slot kind, PC and cause (R430). -/
def Acct.charge (a : Acct) (kind pc cause n : Nat) : Acct :=
  if n = 0 then a else
  let a := { a with counts := a.counts.set cause (a.counts.get cause 0 + n) }
  if a.bins.any fun b => b.1 = kind ∧ b.2.1 = pc ∧ b.2.2.1 = cause then
    { a with bins := a.bins.map fun b => if b.1 = kind ∧ b.2.1 = pc ∧ b.2.2.1 = cause then (kind, pc, cause, b.2.2.2 + n) else b }
  else if a.bins.length < 16 then { a with bins := a.bins ++ [(kind, pc, cause, n)] }
  else { a with ovf := a.ovf + n }

/-- Cycles up to `now` in which a core had nothing to issue are charged NOFIBRE. -/
def Acct.idleTo (a : Acct) (now : Nat) : Acct :=
  let n := now - a.upto
  { ((a.charge 0 0 1 (4 * n)).charge 1 0 1 n).charge 2 0 1 n with upto := max a.upto now }

/-- The cause of a wait (R422). -/
def Wait.cause : Wait → Nat
  | .emptyReg _ => 5
  | .rejoin _ => 7
  | .barrier _ _ => 6
  | .gate => 8
  | .lamp => 8
  | .join => 16
  | .moored => 2
  | .qempty _ => 10
  | .sleep _ => 13
  | .handle => 15
  | .engbusy => 12
  | .xlate _ _ | .order => 21

/-- Whether one of the registers that a fibre waits for is that of an access to a remote SPM whose beat has not left (R301,
R425). -/
def beatAwaited (k : Core) (c b f : Nat) (regs : List Nat) : Bool :=
  k.pend.any fun a => decide (a.slot = b) && decide (a.fib = f) && (a.spm.any fun m => m.home ≠ c) && a.beat.isNone &&
    decide (a.dst ≠ 0) && (regs.any fun n => decide (a.dst ≤ n) && decide (n < a.dst + a.nregs)) && (match a.phase with
      | .issued => true
      | _ => false)

/-- The cause of a fibre that did not issue (R425). -/
def fibreCause (k : Core) (c b f : Nat) (x : Fibre) (off : Bool) : Nat :=
  match x.status with
  | .debug => 22
  | st =>
    if k.preempting || k.last.pre then 18
    else if off then 19
    else match st with
      | .waiting (.emptyReg l) => if beatAwaited k c b f l then 14 else 5
      | .waiting .gate | .waiting .lamp => if k.lampQ.any fun q => q.2 = b then 9 else 8
      | .waiting w => w.cause
      | _ => if k.last.held.any fun m => m = (b, f) then 4 else if hasN k.last.reform x.pc.toNat then 20 else 3

/-- Where a fibre stands in the scheduler's order (R349, R423): urgency, class, priority, ready or wait cycle, slot and
number. -/
structure Rank where
  urgent : Option Nat
  cls : Nat
  prio : Nat
  since : Nat
  slot : Nat
  fib : Nat
deriving DecidableEq, Repr

/-- Whether a rank comes before another. -/
def Rank.before (a b : Rank) : Bool :=
  let key (r : Rank) : List Nat :=
    (match r.urgent with
      | some t => [0, t]
      | none => [1, 0]) ++ [r.cls, 7 - r.prio, r.since, r.slot, r.fib]
  decide (key a < key b)

/-- A fibre with its rank put into its place. -/
def insRank (a : Rank × Fibre) : List (Rank × Fibre) → List (Rank × Fibre)
  | [] => [a]
  | b :: t => if b.1.before a.1 then b :: insRank a t else a :: b :: t

/-- The fibres of a core that satisfy a condition, in the scheduler's order. -/
def ranked (k : Core) (p : Fibre → Bool) : List (Rank × Fibre) :=
  let all := k.blocks.flatMap fun (b, blk) => (blk.fibres.filter fun y => p y.2).map fun (f, x) =>
    (({ urgent := if x.waits then none else x.urgentAt, cls := blk.cls, prio := blk.prio, since := x.readyAt, slot := b, fib := f } : Rank), x)
  all.foldl (fun l a => insRank a l) []

/-- Gangs: each the first fibre not yet taken with up to 31 later ones at its PC; `fuel` counts gangs. -/
def gangs : Nat → List (Rank × Fibre) → List (List (Rank × Fibre))
  | 0, _ => []
  | _, [] => []
  | n + 1, a :: t =>
    let mates := (t.filter fun y => y.2.pc = a.2.pc).take 31
    (a :: mates) :: gangs n (t.filter fun y => !mates.any fun m => m.1 = y.1)

/-- Whether a fibre is in a gang of the latest cycle. -/
def issuedIn (k : Core) (b f : Nat) : Bool := k.last.gangs.any fun g => g.2.any fun m => m = (b, f)

/-- A core with each fibre that others released in its latest cycle as it stood before: it could not issue in that cycle, and the
cycle is still its wait's (R423). -/
def Core.waitsAsBefore (k : Core) : Core :=
  { k with blocks := k.blocks.map fun (b, x) => (b, { x with fibres := x.fibres.map fun (f, y) =>
      (f, if y.status = .ready ∧ y.readyAt = k.last.cycle then ((k.last.waited.find? fun w => w.1 = (b, f)).map (·.2)).getD y else y) }) }

/-- The charges of the FIU's slots for the latest cycle (R423); `spare` is the cause of a slot with no candidate. -/
def chargeFiu (k : Core) (c : Nat) (off : Bool) (spare : Nat) : Acct :=
  let l := k.last
  let a := l.gangs.foldl (fun a g => a.charge 0 g.1 0 1) k.acct
  let rest := gangs (4 - l.gangs.length) ((ranked k.waitsAsBefore fun x => decide (x.status ≠ .ended)).filter fun p => !issuedIn k p.1.slot p.1.fib)
  let a := rest.foldl (fun a g => match g with
    | [] => a
    | (r, x) :: _ => a.charge 0 x.pc.toNat (fibreCause k c r.slot r.fib x off) 1) a
  a.charge 0 0 spare (4 - l.gangs.length - rest.length)

/-- The charge of the T slot for the latest cycle (R424): the bundle or iteration that issued, else the program that holds the lamp, else
the head of the lamp queue. While the next holder's first bundle waits for earlier holders' writes (R224) the cause is FETCH (no rule
names one: log 102, DESIGN CHOICE). -/
def chargeTile (k : Core) (a : Acct) (off : Bool) (spare : Nat) : Acct :=
  let cause (c : Nat) : Nat := if k.preempting || k.last.pre then 18 else if off then 19 else c
  match k.tileIssued.filter fun p => p.1 = k.last.cycle with
  | some (_, pc) => a.charge 1 pc 0 1
  | none =>
    if k.tsq.active then
      match k.tsq.stopped, k.tsq.wait with
      | some t, _ => a.charge 1 k.tsq.pc.toNat (if t.code = 0x0E then 22 else cause 17) 1
      | none, some w => a.charge 1 k.tsq.pc.toNat (cause w.cause) 1
      | none, none => a.charge 1 k.tsq.pc.toNat (cause 3) 1
    else match k.lampQ with
      | (_, b) :: _ => a.charge 1 (((k.blocks.find? b).bind fun x => x.gate.map (·.gatepc.toNat)).getD 0) (cause 9) 1
      | [] => a.charge 1 0 spare 1

/-- The charge of the P slot for the latest cycle (R424): ISSUE at the word in each of its cycles; XLATE also while its fetch waits for
a walk (R385, R422). -/
def chargeWord (k : Core) (a : Acct) (off : Bool) (spare : Nat) : Acct :=
  let cause (c : Nat) : Nat := if k.preempting || k.last.pre then 18 else if off then 19 else c
  match k.prs with
  | some p =>
    if k.last.cycle < p.holdTill then a.charge 2 p.at_.toNat (cause 0) 1
    else a.charge 2 p.pc.toNat (cause (if (p.opening ∧ p.scout) ∨ p.walkAt = some k.last.cycle then 21 else 11)) 1
  | none => match k.last.word with
    | some pc => a.charge 2 pc (cause 0) 1
    | none => a.charge 2 0 spare 1

/-- Whether a block of the owning context that fits on a core is held only by a stagger interval (R422 code 23). -/
def heldByStagger (s : State) (c : Nat) : Bool :=
  s.order.any fun w => decide (w.ctx = (s.core c).ctx) && w.clusters.getLsbD (clusterOf c) && canPlace s c w && staggered s w (clusterOf c)

/-- A ready fibre whose wait for issue did not count this cycle: throttled or pre-empted cycles do not age it (R349). -/
def unaged (k : Core) : Core :=
  { k with blocks := k.blocks.map fun (b, x) => (b, { x with fibres := x.fibres.map fun (f, y) =>
      (f, if y.status = .ready then { y with readyAt := y.readyAt + 1 } else y) }) }

/-- Every slot-cycle of a core before a cycle is charged (R420): its latest cycle by what it had to issue, and others NOFIBRE. -/
def settleTo (s : State) (c now : Nat) : State :=
  let k := s.core c
  let l := k.last
  if now ≤ k.acct.upto then s
  else if l = {} ∨ l.cycle < k.acct.upto ∨ now ≤ l.cycle then s.setCore c { k with acct := k.acct.idleTo now }
  else
    let k := { k with acct := k.acct.idleTo l.cycle }
    let a := chargeWord k (chargeTile k (chargeFiu k c l.off l.spare) l.off l.spare) l.off l.spare
    let k := if l.off ∨ l.pre then unaged k else k
    s.setCore c { k with acct := { a with upto := l.cycle + 1 }.idleTo now }

/-- The slot-cycles of a core up to the present cycle are charged. -/
def settleAcct (s : State) (c : Nat) : State := settleTo s c s.cycle

/-- The present cycle of a core is over: it is charged by how the core stands at its end. -/
def closeCore (s : State) (c : Nat) : State := if (s.core c).last.cycle = s.cycle then settleTo s c (s.cycle + 1) else s

/-- The present cycle is charged at once, as PREEMPT where the core has not had its turn in it: the core's state leaves it (R373). -/
def chargeNow (s : State) (c : Nat) : State :=
  settleTo (s.modCore c fun k => if k.last.cycle = s.cycle then k else { k with last := { cycle := s.cycle, pre := true, spare := 18 } })
    c (s.cycle + 1)

-- Issue (R349, R350)

/-- Whether a core may issue in this cycle (R373, R437). -/
def mayIssue (s : State) (c : Nat) : Bool := !suppressed s (islandOf c) s.cycle && !(s.core c).preempting

/-- The fibres that are given a turn to issue, in the scheduler's order: those that are ready, and those whose waits are looked
at again, which would become ready in this cycle. -/
def issueCandidates (k : Core) (cycle : Nat) : List (Nat × Nat) :=
  let all := k.blocks.flatMap fun (b, blk) => (blk.fibres.filter fun y => y.2.canIssue).map fun (f, x) =>
    (({ urgent := if x.waits then none else x.urgentAt, cls := blk.cls, prio := blk.prio
        since := if x.waits then cycle else x.readyAt, slot := b, fib := f } : Rank), x)
  (all.foldl (fun l a => insRank a l) []).map fun y => (y.1.slot, y.1.fib)

/-- The PCs whose gangs are re-formed in a cycle: none while a fibre is urgent, so that R350 holds (R14, log 87). -/
def reforming (k : Core) (c cycle : Nat) : List Nat :=
  let ready := k.blocks.flatMap fun (_, blk) => (blk.fibres.filter fun y => y.2.status = .ready).map (·.2)
  if ready.any fun x => x.urgentAt.isSome then []
  else (ready.map fun x => x.pc.toNat).eraseDups.filter fun pc => Config.regroup cycle c pc

/-- FIU_ISSUE (R349, R423): the latest cycle's slots are charged, and the fibres are given their turns to issue, of which those
of up to four gangs do. -/
def execFiuIssue (core : Nat) (s : State) : Out :=
  let s := settleAcct s core
  let k := s.core core
  let on := mayIssue s core
  let off := suppressed s (islandOf core) s.cycle
  let last : LastIssue :=
    { cycle := s.cycle
      word := k.prs.map fun p => p.pc.toNat
      reform := if on then reforming k core s.cycle else []
      off := off
      pre := k.preempting
      spare := if k.preempting then 18 else if off then 19 else if heldByStagger s core then 23 else 1
      waited := k.blocks.flatMap fun (b, x) => (x.fibres.filter fun y => y.2.waits && !y.2.canIssue).map fun (f, y) => ((b, f), y) }
  let s := s.setCore core { k with last := last }
  .next { s with agenda :=
    (if on then issueCandidates k s.cycle else []).map (fun m => Turn.issue (.fibre core m.1 m.2)) ++ s.agenda }

-- The turn of a fibre (R349)

/-- The gangs of this cycle so far. -/
def gangsNow (k : Core) (cycle : Nat) : List (Nat × List (Nat × Nat)) := if k.last.cycle = cycle then k.last.gangs else []

/-- Whether a gang of this cycle has room for a fibre at a PC, of 32, or another of four gangs may be formed (R14, R349). -/
def gangFree (k : Core) (cycle pc : Nat) : Bool :=
  decide ((gangsNow k cycle).length < 4) || (gangsNow k cycle).any fun g => decide (g.1 = pc) && decide (g.2.length < 32)

/-- A fibre put into the first gang at its PC that has room, or into a new one. -/
def putGang (pc : Nat) (m : Nat × Nat) : List (Nat × List (Nat × Nat)) → List (Nat × List (Nat × Nat))
  | [] => [(pc, [m])]
  | g :: t => if g.1 = pc ∧ g.2.length < 32 then (pc, g.2 ++ [m]) :: t else g :: putGang pc m t

/-- A fibre that has issued joins the first gang at its PC that has room, or forms one. -/
def joinGang (s : State) (c b f pc : Nat) : State :=
  s.modCore c fun k => { k with last := { k.last with cycle := s.cycle, gangs := putGang pc (b, f) (gangsNow k s.cycle) } }

/-- Whether a fibre's turn from `s` to `s'` has issued its instruction: it has gone on, ended or trapped, or stands in a wait into which
its instruction's effect has put it. One that a register, an engine or a walk keeps waiting, or a FIXLAT hold keeps back, has not
(R54, R349). -/
def hasIssued (c b f : Nat) (s s' : State) : Bool :=
  match s.fibre c b f, s'.fibre c b f with
  | some x, some y =>
    match y.status with
    | .waiting w => !w.polls
    | .ready => decide (y.pc ≠ x.pc) || decide (y.readyAt ≠ x.readyAt) || x.waits
    | _ => true
  | _, _ => true

/-- After a fibre's turn from `s` to `s'` without issue: one that a FIXLAT hold of its instruction kept back is not ready before the next
cycle, and the cycle is charged so (R155, R349, R425). -/
def holdReady (c b f : Nat) (s s' : State) : State :=
  match s'.fibre c b f with
  | some y =>
    if y.status = .ready then
      (s'.setFibre c b f { y with readyAt := s.cycle + 1 }).modCore c fun k => { k with last := { k.last with held := (b, f) :: k.last.held } }
    else s'
  | none => s'

/-- A fibre for which no gang is left stays at its instruction: a wait that would have ended has ended, and the fibre is ready from now on
(R54, R349). -/
def denyIssue (c b f : Nat) (s : State) : State :=
  s.modFibre c b f fun x => if x.waits then { x with status := .ready, readyAt := s.cycle } else x

/-- FIBRE_URGENT (R349): a fibre that has been ready for 1,024 counted cycles without issuing becomes urgent. -/
def execFibreUrgent (core slot fib : Nat) (s : State) : Out :=
  .next (s.modFibre core slot fib fun x =>
    if x.status = .ready ∧ x.urgentAt.isNone ∧ x.readyAt + 1024 ≤ s.cycle then { x with urgentAt := some s.cycle } else x)

-- Flash records (R426 to R431)

/-- The 64-byte header of a record (R429). -/
def recordHeader (s : State) (type reason unit ctx nbin seq start fleet ovf : Nat) : List Byte :=
  toBytes 1 type ++ toBytes 1 reason ++ toBytes 2 (devBits s 0x8000 15 8) ++ toBytes 2 unit ++ toBytes 1 ctx ++
    toBytes 1 nbin ++ toBytes 8 seq ++ toBytes 8 fleet ++ toBytes 8 (s.cycle - start) ++
    toBytes 8 ovf ++ List.replicate 24 0

/-- A core record (R430). -/
def coreRecord (s : State) (c reason : Nat) : List Byte :=
  let k := s.core c
  let a := k.acct
  let bins := a.bins.take 16
  recordHeader s 1 reason c k.ctx bins.length a.seq a.start a.fleet a.ovf ++
    (List.range 24).flatMap (fun i => toBytes 8 (a.counts.get i 0)) ++
    (bins.flatMap fun (kind, pc, cause, n) => toBytes 8 (pc + cause * 2 ^ 56 + kind * 2 ^ 61) ++ toBytes 8 n) ++
    List.replicate (16 * (16 - bins.length)) 0

/-- A slice record (R431). -/
def sliceRecord (s : State) (sl reason : Nat) : List Byte :=
  let x := s.slice' sl
  recordHeader s 2 reason sl 0xFF 0 x.recNum x.since x.fleet 0 ++
    (List.range 8).flatMap (fun k =>
      toBytes 1 (devBits s (offLH sl k 0) 6 1) ++ toBytes 1 (devBits s (offLH sl k 0) 0 0) ++ List.replicate 6 0 ++
        toBytes 8 (x.counts.get (4 * k) 0) ++ toBytes 8 (x.counts.get (4 * k + 1) 0) ++
        toBytes 4 (x.counts.get (4 * k + 2) 0) ++ toBytes 4 (x.counts.get (4 * k + 3) 0)) ++
    List.replicate 192 0

/-- A record written to the flash ring, and HEAD advanced (R428). -/
def putRecord (s : State) (bytes : List Byte) : State :=
  let head := (devGet s 0x8010).toNat
  let a := devBits s 0x8008 51 12 * 4096 + 512 * (head % 2 ^ devBits s 0x8000 20 16)
  devSet (physWrite s 0xFF hubKey a bytes) 0x8010 (BitVec.ofNat 64 (head + 1))

/-- A core's record for the interval since its latest, written, deferred, or (EN 0) left to run on (R428). -/
def flashCore (s : State) (c reason : Nat) : State :=
  let s := settleAcct s c
  if devBits s 0x8000 0 0 = 0 then s
  else if flashFull s then s.modCore c fun k => { k with acct := { k.acct with deferred := true } }
  else
    let s := putRecord s (coreRecord s c (if (s.core c).acct.deferred then 2 else reason))
    s.modCore c fun k => { k with acct := { start := s.cycle, fleet := fleetCycle s, upto := s.cycle, seq := k.acct.seq + 1 } }

/-- A slice's record. -/
def flashSlice (s : State) (sl : Nat) : State :=
  if devBits s 0x8000 0 0 = 0 then s
  else if flashFull s then s.modSlice sl fun x => { x with deferred := true }
  else
    let s := putRecord s (sliceRecord s sl (if (s.slice' sl).deferred then 2 else 0))
    s.modSlice sl fun x => { x with counts := [], since := s.cycle, fleet := fleetCycle s, recNum := x.recNum + 1, deferred := false }

/-- Whether a register offset is some set's LHSTAT (R389). -/
def isLhstat (off : Nat) : Bool :=
  let r := off % 0x40000
  decide (0x1000000 ≤ off) && decide (off < 0x5000000) && decide (0x200 ≤ r) && decide (r < 0x400) && decide (r % 0x40 = 0x20)

/-- OVR of every set returns to 0 at a tick (R397). -/
def resetOverruns (s : State) : State :=
  { s with dev := s.dev.map fun (off, v) => (off, if isLhstat off then v &&& ~~~3#64 else v) }

/-- Whether some peer link is healthy (R444). -/
def linkHealthy (s : State) : Bool := (List.range 24).any fun l => devBits s (0xA000 + 8 * l) 1 0 = 2

/-- A measured correction of the fleet cycle takes effect at a tick (R432); the time source keeps FLOFS at 0, and with no healthy
link FLOFS holds. -/
def applyOffset (s : State) : State :=
  if devBits s 0x8000 6 6 = 1 then devSet { s with nextOfs := none } 0x8020 0
  else match s.nextOfs with
    | some o => if linkHealthy s then devPut (devSet { s with nextOfs := none } 0x8020 o) 0x8028 0 0 1 else { s with nextOfs := none }
    | none => s

/-- The entry of an island's corrected errors of a flash period (R440, R441). -/
def correctedEntry (s : State) (island : Nat) : State :=
  let n := Config.correctedErrors island (fleetCycle s / 2 ^ s.flashK)
  if n = 0 then s else errorEntry s 1 0xFF island n 0

/-- FLASH_TICK (R426): at a multiple of 2^K fleet cycles every core and slice writes its record, each island that has
corrected errors has its entry (R441), and a new K takes effect. -/
def execFlashTick (s : State) : Out :=
  if fleetCycle s % 2 ^ s.flashK ≠ 0 then .next s
  else
    let s := (List.range Config.cores).foldl (fun s c => flashCore s c 0) s
    let s := (List.range 256).foldl (fun s sl => flashSlice s sl) s
    let s := (List.range 256).foldl correctedEntry s
    .next (applyOffset { resetOverruns s with flashK := devBits s 0x8000 5 1 })

/-- FLASH_SYNC_EXCHANGE (R432): with SYNC set and the link healthy, the offset to the time source, whose fleet cycle is the
event's input, is measured; its correction takes effect at the next tick. -/
def execFlashSyncExchange (link : Nat) (master : BitVec 64) (s : State) : Out :=
  if devBits s 0x8000 7 7 = 0 ∨ devBits s 0x8000 6 6 = 1 then .next s
  else if devBits s (0xA000 + 8 * link) 1 0 ≠ 2 then .next (if linkHealthy s then s else devPut s 0x8028 0 0 0)
  else
    let err := (BitVec.ofNat 64 (fleetCycle s) - master).toInt.natAbs
    .next (devPut { s with nextOfs := some (master - BitVec.ofNat 64 s.cycle) } 0x8028 15 8 (min err 255))

/-- A core's owning context changes: its record (R428, REASON 1) and its new owner (R421). -/
def changeOwner (s : State) (c ctx : Nat) : State := (flashCore s c 1).modCore c fun k => { k with ctx := ctx }

end Sys2Proof.Machine
end

