-- ==== Sys2Proof/Machine/Mxe.lean ====
section
/-!
DEFINITION. The matrix engine: checks, occupancy, exposed reads, the loading of weights and the arithmetic of MMA (R246 to
R252, R122 to R124).
-/
namespace Sys2Proof.Machine

/-- The fields of an M-slot operation, by opcode (R247, R248, R251). `pops` counts the entries of its queue that a VQPOP of its bundle
takes before it (log 77). -/
structure MReq where
  op : Nat := 0
  c : Nat := 0
  a : Nat := 0
  queue : Nat := 0
  unit : Nat := 0
  rows : Nat := 1
  fmt : Nat := 0
  corr : Bool := false
  sat : Bool := false
  mx : Bool := false
  cpk : Nat := 0
  w : Bool := false
  pops : Nat := 0
deriving DecidableEq, Repr

/-- The fields of an M-slot operation. -/
def mReq : MOp → MReq
  | .mnop _ => {}
  | .mma _ c a u r af co sa k =>
    { op := 1, c := c.toNat, a := a.toNat, unit := u.toNat, rows := r.toNat + 1, fmt := af.toNat, corr := co = 1, sat := sa = 1, cpk := k.toNat }
  | .mmaq _ c q u r af co sa k =>
    { op := 2, c := c.toNat, queue := q.toNat, unit := u.toNat, rows := r.toNat + 1, fmt := af.toNat, corr := co = 1, sat := sa = 1, cpk := k.toNat }
  | .bload _ u src bf co mx => { op := 3, unit := u.toNat, a := src.toNat, fmt := bf.toNat, corr := co = 1, mx := mx = 1 }
  | .bloadq _ u q bf co mx => { op := 4, unit := u.toNat, queue := q.toNat, fmt := bf.toNat, corr := co = 1, mx := mx = 1 }
  | .mclr _ c n w => { op := 5, c := c.toNat, rows := n.toNat + 1, w := w = 1 }

/-- Integer A formats (R248). -/
def intA (f : Nat) : Bool := hasN [0x00, 0x01, 0x0A] f
/-- Integer B formats (R247). -/
def intB (f : Nat) : Bool := hasN [0x00, 0x01, 0x19, 0x04, 0x06, 0x0A] f
/-- Rows of an A row (R248). -/
def rowsPerA (f : Nat) : Nat := if f = 0x12 ∨ f = 0x13 then 2 else 1
/-- Rows of an output row (R248). -/
def rowsPerC (acctype : Nat) : Nat := if acctype = 0x03 ∨ acctype = 0x11 then 2 else 1
/-- Stored width of a B format (R247). -/
def storedWidth (f : Nat) : Nat :=
  if f = 0x04 then 2 else if f = 0x06 then 4 else if f = 0x12 ∨ f = 0x13 then 16 else 8
/-- Source rows of a B load (R247). -/
def sourceRows (f : Nat) (mx : Bool) : Nat := if f = 0x12 ∨ f = 0x13 then 256 else if mx then 132 else 128
/-- Whether %planes suits an A format (R249 check 2). -/
def planesOk (f p : Nat) : Bool :=
  if f = 0x0A then hasN [2, 4, 8] p else if f = 0x12 ∨ f = 0x13 then p = 16 else p = 8

/-- Entries that MMAQ takes or needs. -/
def MReq.need (r : MReq) : Nat := r.rows * rowsPerA r.fmt

/-- STREAM_FAULT from a POISON entry (R281, R362). -/
def streamTrap (q : Nat) (pay : List Byte) : TTrap :=
  { code := 0x0B, info0 := BitVec.ofNat 64 (ofBytes (pay.take 8)),
    info1 := BitVec.ofNat 64 (q + 256 * ofBytes (slice pay 8 1)) }

/-- A stream queue of a core. -/
def Core.queue (k : Core) (n : Nat) : Queue := k.queues.get n {}

/-- POISON among the first `n` entries of a queue: its payload. -/
def Queue.poisonWithin (q : Queue) (n : Nat) : Option (List Byte) :=
  match q.term with
  | some (.poison, p) => if q.data.length < n then some p else none
  | _ => none

/-- The number of 2-bit pattern codes of the used rows that are 3 (R249 check 4). -/
def badPattern (v : BitVec 64) (rows : Nat) : Bool := (List.range rows).any fun i => bitsN v.toNat (2 * i + 1) (2 * i) = 3

/-- The record that an M-slot operation of a context reads at a unit (R246). -/
def Core.tileAt (k : Core) (ctx u : Nat) : Option TileRec :=
  match k.tiles.find? u with
  | some r => if r.valid ∧ r.ctx = ctx then some r else none
  | none => none

/-- BOUNDS or STREAM_FAULT of a queue operand (R53, R249 check 6, R247). -/
def queueCheck (k : Core) (ctx q need : Nat) : Option TTrap :=
  if k.qOwner ≠ none ∧ k.qOwner ≠ some ctx then some (tBounds q 17)
  else match (k.queue q).poisonWithin need with
    | some p => some (streamTrap q p)
    | none => none

/-- A row-run check. -/
def runCheck (t : Tsq) (op n : Nat) : Option TTrap :=
  match rowRun t op n with
  | .error e => some e
  | .ok _ => none

/-- The checks of R249 for MMA and MMAQ. -/
def mmaCheck (k : Core) (t : Tsq) (ctx : Nat) (r : MReq) : Option TTrap :=
  if !(if intA r.fmt then t.acctype = 0x03 else hasN [0x11, 0x12, 0x13] t.acctype) then some (tBounds t.acctype 18)
  else if !planesOk r.fmt t.planes then some (tBounds t.planes 19)
  else match k.tileAt ctx r.unit with
    | none => some (tBounds r.unit 20)
    | some rec =>
      if (List.range rec.width).any (fun p => decide (k.units.get (r.unit + p) 64 ≠ ctx)) then some (tBounds r.unit 20)
      else if intA r.fmt ≠ intB rec.fmt.toNat then some (tBounds r.unit 20)
      else if r.cpk ≠ 0 ∧ badPattern (t.k.get r.cpk 0) r.rows then some (tBounds (t.k.get r.cpk 0).toNat 21)
      else
        match (if r.op = 1 then runCheck t r.a r.need else none), runCheck t r.c (r.rows * rowsPerC t.acctype) with
        | some e, _ => some e
        | none, some e => some e
        | none, none => if r.op = 2 then queueCheck k ctx r.queue (r.need + r.pops) else none

/-- BOUNDS for a load whose start unit is no multiple of its width, or whose units pass unit 127 (R57, R68). -/
def unitCheck (u w : Nat) : Option TTrap := if u % w ≠ 0 ∨ 128 < u + w then some (tBounds u 20) else none

/-- The issue checks of an M-slot operation (R68, R225, R247, R249, R251). -/
def mxeCheck (k : Core) (t : Tsq) (ctx : Nat) (r : MReq) : Option TTrap :=
  match r.op with
  | 1 => mmaCheck k t ctx r
  | 2 => mmaCheck k t ctx r
  | 3 => (unitCheck r.unit (storedWidth r.fmt)).or (runCheck t r.a (sourceRows r.fmt r.mx))
  | 4 => (unitCheck r.unit (storedWidth r.fmt)).or (queueCheck k ctx r.queue 1)
  | 5 => if r.w then none else runCheck t r.c r.rows
  | _ => none

/-- The rows of a run whose check has passed. -/
def runRows (t : Tsq) (op n : Nat) : List Nat :=
  match rowRun t op n with
  | .ok l => l
  | .error _ => []

/-- The command that an M-slot operation becomes at its start. -/
def newJob (k : Core) (t : Tsq) (ctx : Nat) (r : MReq) : MxeJob :=
  { op := r.op, start := k.seqCyc, fmt := r.fmt, corr := r.corr, sat := r.sat, mx := r.mx, unit := r.unit, rows := r.rows,
    planes := t.planes, acctype := t.acctype, ctx := ctx, queue := r.queue
    cRows := if r.op = 5 then (if r.w then [] else runRows t r.c r.rows)
      else if r.op ≤ 2 then runRows t r.c (r.rows * rowsPerC t.acctype) else []
    aRows := if r.op = 1 then runRows t r.a r.need else if r.op = 3 then runRows t r.a (sourceRows r.fmt r.mx) else []
    cpk := if r.cpk = 0 then none else some (t.k.get r.cpk 0) }

/-- Cycles for which a command occupies the MXE; BLOADQ's are not fixed (R247, R250, R251). -/
def MxeJob.occupancy (j : MxeJob) : Nat :=
  match j.op with
  | 1 => j.planes * j.rows
  | 2 => j.planes * j.rows
  | 3 => sourceRows j.fmt j.mx
  | _ => 1

/-- The exposed ACM reads of a command: row and cycle (R250). -/
def MxeJob.exposed (j : MxeJob) : List (Nat × Nat) :=
  let ra := rowsPerA j.fmt
  let rc := rowsPerC j.acctype
  match j.op with
  | 1 => (List.range j.aRows.length).map (fun i => (j.aRows.getD i 0, j.start + j.planes * (i / ra))) ++
         (List.range j.cRows.length).map (fun i => (j.cRows.getD i 0, j.start + 5 + j.planes * (i / rc + 1)))
  | 2 => (List.range j.cRows.length).map (fun i => (j.cRows.getD i 0, j.start + 5 + j.planes * (i / rc + 1)))
  | 3 => (List.range j.aRows.length).map (fun i => (j.aRows.getD i 0, j.start + i))
  | _ => []

/-- The rows that a command writes, with the cycle from which each is readable (R250, R251). -/
def MxeJob.writes (j : MxeJob) : List (Nat × Nat) :=
  let rc := rowsPerC j.acctype
  match j.op with
  | 5 => j.cRows.map fun r => (r, j.start + 2)
  | 1 => (List.range j.cRows.length).map fun i => (j.cRows.getD i 0, j.start + 6 + j.planes * (i / rc + 1))
  | 2 => (List.range j.cRows.length).map fun i => (j.cRows.getD i 0, j.start + 6 + j.planes * (i / rc + 1))
  | _ => []

/-- The plane units that a load fills. -/
def MxeJob.holdsUnit (j : MxeJob) (u : Nat) : Bool :=
  (j.op = 3 || j.op = 4) && decide (j.unit ≤ u) && decide (u < j.unit + storedWidth j.fmt)

/-- Whether the MXE can start a command in this cycle (R250). -/
def canStart (k : Core) (j : MxeJob) : Bool :=
  decide (k.mxe.busyTill ≤ k.seqCyc) && !(k.mxe.jobs.any fun x => x.op = 4 ∧ x.fin = none) &&
    !((j.op = 1 || j.op = 2) && k.mxe.jobs.any fun x => x.holdsUnit j.unit) &&
    !(j.exposed.any fun (r, t) => k.mxe.rowsFrom.any fun (r', f) => r = r' ∧ t < f)

/-- Whether a repeat has issues still to start (R253). -/
def Core.repeating (k : Core) : Bool := k.tsq.repeat_.isSome

/-- Whether MMAQ's entries are there, or a terminal entry among them (R224); another owner's queue ends the wait. -/
def entriesReady (k : Core) (ctx : Nat) (r : MReq) : Bool :=
  if k.qOwner = none then false
  else if k.qOwner ≠ some ctx then true
  else decide (r.need + r.pops ≤ (k.queue r.queue).data.length) || (k.queue r.queue).term.isSome

/-- Whether a queue has nothing to pop (R52, R53). -/
def queueDry (k : Core) (n : Nat) : Bool := k.qOwner.isNone || ((k.queue n).data.isEmpty && (k.queue n).term.isNone)

/-- The queue on which the MXE is stalled: that of a BLOADQ or of a repeated MMAQ whose entries are not there (R224, R247,
R253). -/
def mxeDry (k : Core) : Option Nat :=
  match List.find? (fun j => decide (j.op = 4) && j.fin.isNone && queueDry k j.queue) k.mxe.jobs, k.tsq.repeat_ with
  | some j, _ => some j.queue
  | none, some r =>
    match Decode.decodeM r.m with
    | .ok o =>
      let q := mReq o
      if q.op = 2 ∧ r.next ≤ k.seqCyc ∧ !entriesReady k r.ctx q then some q.queue else none
    | .error _ => none
  | none, none => none

/-- The issue wait of an M-slot operation (R224, R250). -/
def mxeWait (k : Core) (ctx : Nat) (r : MReq) : Option Wait :=
  if k.repeating ∨ !canStart k (newJob k k.tsq ctx r) then
    some (match mxeDry k with
      | some q => .qempty q
      | none => .engbusy)
  else if r.op = 2 ∧ !entriesReady k ctx r then some (.qempty r.queue) else none

-- Arithmetic

/-- The elements of A row `i` of a command from the rows that hold it: aligned blocks, or integers in one block. -/
def aValues (j : MxeJob) (rows : List (BitVec 2048)) : List Aligned :=
  let bytes := rows.flatMap fun r => lanesOf r (if rowsPerA j.fmt = 2 then 16 else 8)
  if intA j.fmt then
    let f (c : Nat) : Int :=
      if j.fmt = 0 then sextN c 8
      else if j.fmt = 1 then (c : Int)
      else bpCode (sextN c 8) j.planes j.corr * 2 ^ (8 - j.planes)
    [⟨0, bytes.map f, false⟩]
  else (List.range 8).map fun b => alignBlock j.planes ((slice bytes (32 * b) 32).map fun c => valueOf c j.fmt)

/-- The stored code of element (k, n) of the tile at a unit (R68, R246): plane p stands in unit u + p. -/
def Core.weight (k : Core) (u w kk n : Nat) : Nat :=
  (List.range w).foldl (fun acc p => if (k.planes.get (u + p) 0).getLsbD (kk * 128 + n) then acc + 2 ^ p else acc) 0

/-- The integer of a stored code by its format (R249). -/
def weightInt (fmt w c : Nat) : Int :=
  if fmt = 1 then (c : Int)
  else if fmt = 4 ∨ fmt = 6 then sextN c w * 2 ^ (8 - w)
  else sextN c w

/-- Column `n` of the tile at a unit. -/
def Core.column (k : Core) (u : Nat) (r : TileRec) (n : Nat) : List Int :=
  (List.range 256).map fun i => weightInt r.fmt.toNat r.width (k.weight u r.width i n)

/-- Sum of products. -/
def dotZ (a b : List Int) : Int := (List.zipWith (· * ·) a b).foldl (· + ·) 0

/-- An integer output element by its pattern code (R249). -/
def intElem (op : Nat) (sat : Bool) (acc : Nat) (a b : List Int) : Nat :=
  let x := sextN acc 32
  let v : Int :=
    if op = 0 then x + dotZ a b
    else if op = 1 then x + (List.zipWith (fun p q => ((p - q).natAbs : Int)) a b).foldl (· + ·) 0
    else (List.zipWith (· + ·) a b).foldl (fun m y => if m < y then y else m) x
  if sat then satSignedN v 32 else wrapN v 32

/-- A float output element of R123. -/
def floatElem (acctype acc : Nat) (a : List Aligned) (r : TileRec) (n : Nat) (col : List Int) : Nat :=
  let eb (b : Nat) : Int := r.eB.getD (n * 8 + b) 0
  let bad := (List.range 8).any fun b => ((a.getD b ⟨0, [], false⟩).bad || r.special.getD (n * 8 + b) false)
  let x := valueOf acc acctype
  if bad || x.isNan then canonNan acctype
  else
    let terms := (List.range 8).map fun b =>
      let al := a.getD b ⟨0, [], false⟩
      (al.unit + eb b, dotZ al.mants (slice col (32 * b) 32))
    let lo := terms.foldl (fun m t => if t.1 < m then t.1 else m) (terms.headD (0, 0)).1
    let sum := terms.foldl (fun acc t => acc + t.2 * 2 ^ (t.1 - lo).toNat) 0
    roundTo acctype 0 false (addVal false x (scaledVal sum lo))

/-- The accumulator elements that rows hold (R248). -/
def accElems (acctype : Nat) (rows : List (BitVec 2048)) : List Nat :=
  rows.flatMap fun r => lanesOf r (if rowsPerC acctype = 2 then 32 else 16)

/-- The rows of an output row from its elements. -/
def accRows (acctype : Nat) (l : List Nat) : List (BitVec 2048) :=
  if rowsPerC acctype = 2 then [rowOfLanes 32 (l.take 64), rowOfLanes 32 (l.drop 64)] else [rowOfLanes 16 l]

/-- Output row `i` of a command from its A rows and accumulator rows, with the record of its issue: a load that starts since
fills its units only after the command's last row (R249, R250). -/
def mmaRow (k : Core) (j : MxeJob) (i : Nat) (aRows cRows : List (BitVec 2048)) : List (BitVec 2048) :=
  let a := aValues j aRows
  let acc := accElems j.acctype cRows
  match j.tile with
  | none => cRows
  | some r =>
    let op := match j.cpk with
      | some v => bitsN v.toNat (2 * i + 1) (2 * i)
      | none => 0
    accRows j.acctype ((List.range 128).map fun n =>
      let col := k.column j.unit r n
      if intA j.fmt then intElem op j.sat (acc.getD n 0) ((a.headD ⟨0, [], false⟩).mants) col
      else floatElem j.acctype (acc.getD n 0) a r n col)

/-- The code of element (k, n) in the source rows of a B load (R247). -/
def sourceCode (fmt : Nat) (rows : List (BitVec 2048)) (kk n : Nat) : Nat :=
  if fmt = 0x12 ∨ fmt = 0x13 then laneOf (rows.getD kk 0) 16 n
  else laneOf (rows.getD (kk / 2) 0) 8 (kk % 2 * 128 + n)

/-- One column's block of a float B load: its values, scaled where scales are given (R115, R122, R247). -/
def sourceBlock (fmt : Nat) (mx : Bool) (rows : List (BitVec 2048)) (n b : Nat) : Aligned :=
  let sc := valueOf (laneOf (rows.getD (128 + b / 2) 0) 8 (b % 2 * 128 + n)) 0x1F
  alignBlock (storedWidth fmt) ((List.range 32).map fun i =>
    let x := valueOf (sourceCode fmt rows (32 * b + i) n) fmt
    if mx then applyScale x sc else x)

/-- The tile record and the codes that a B load stores, the codes in order of k × 128 + n (R246, R247). -/
def loadTile (j : MxeJob) : TileRec × List Nat :=
  let w := storedWidth j.fmt
  let base : TileRec := { width := w, fmt := BitVec.ofNat 5 j.fmt, ctx := j.ctx, valid := true, eB := [], special := [] }
  if intB j.fmt then
    let f (c : Nat) : Nat := if j.fmt = 4 ∨ j.fmt = 6 ∨ j.fmt = 0x0A then wrapN (bpCode (sextN c 8) w j.corr) w else c % 2 ^ w
    (base, (List.range 32768).map fun i => f (sourceCode j.fmt j.data (i / 128) (i % 128)))
  else
    let blocks := (List.range 1024).map fun i => sourceBlock j.fmt j.mx j.data (i / 8) (i % 8)
    ({ base with eB := blocks.map fun x => x.unit, special := blocks.map fun x => x.bad },
     (List.range 32768).map fun i =>
       wrapN (((blocks.getD ((i % 128) * 8 + i / 128 / 32) ⟨0, [], false⟩).mants).getD (i / 128 % 32) 0) w)

/-- Plane `p` of codes. -/
def planeOf (codes : List Nat) (p : Nat) : BitVec 32768 :=
  BitVec.ofNat 32768 (codes.foldr (fun c acc => 2 * acc + (if c.testBit p then 1 else 0)) 0)

/-- Records whose units overlap a load's leave the weight array (R246). -/
def dropTiles (k : Core) (u w : Nat) : Core :=
  { k with tiles := k.tiles.filter fun (v, r) => !(decide (v < u + w) && decide (u < v + r.width)) }

/-- A load's units, tags and record become complete; a later load into one of its units keeps the record out (R246,
R247). -/
def installTile (k : Core) (j : MxeJob) : Core :=
  let w := storedWidth j.fmt
  let (r, codes) := loadTile j
  let k := { k with
    planes := (List.range w).foldl (fun m p => m.set (j.unit + p) (planeOf codes p)) k.planes
    units := (List.range w).foldl (fun m p => m.set (j.unit + p) j.ctx) k.units }
  if k.mxe.jobs.any fun x => (x.op = 3 ∨ x.op = 4) ∧ j.seq < x.seq ∧ x.unit < j.unit + w ∧ j.unit < x.unit + storedWidth x.fmt then k
  else { k with tiles := k.tiles.set j.unit r }

/-- One sequencer cycle of a command: the A row, accumulator row or source row that it reads in this cycle, and the
results that these give (R247, R250). -/
def jobCycle (k : Core) (j : MxeJob) : Core × Option MxeJob :=
  let d := k.seqCyc - j.start
  let ra := rowsPerA j.fmt
  let rc := rowsPerC j.acctype
  match j.op with
  | 3 =>
    let j := if d < sourceRows j.fmt j.mx then { j with data := j.data ++ [k.row (j.aRows.getD d 0)] } else j
    if d = 6 + sourceRows j.fmt j.mx then (installTile k j, none) else (k, some j)
  | 4 =>
    match j.fin with
    | some f => if f ≤ k.seqCyc then (installTile k j, none) else (k, some j)
    | none => (k, some j)
  | 5 => (k, none)
  | _ =>
    let j := if j.op = 1 ∧ d % j.planes = 0 ∧ d / j.planes < j.rows then
        { j with data := j.data ++ (slice j.aRows (ra * (d / j.planes)) ra).map k.row } else j
    let src := if j.op = 1 then j.data else j.ents
    let i := (d - 5) / j.planes - 1
    if 5 + j.planes ≤ d ∧ (d - 5) % j.planes = 0 then
      let cs := slice j.cRows (rc * i) rc
      let a := slice src (ra * i) ra
      let k := if a.length = ra then
          let out := List.zip cs (mmaRow k j i a (cs.map k.row))
          { k with landings := k.landings ++ out.map fun (r, v) =>
            { due := k.seqCyc + 1, seq := j.seq, slot := 2, dst := .row r, val := v.toNat } }
        else k
      (k, if i + 1 = j.rows then none else some j)
    else (k, some j)

/-- One sequencer cycle of the MXE: every command under way, in issue order. -/
def mxeCycle (k : Core) : Core :=
  let js := k.mxe.jobs
  let k := { k with mxe := { k.mxe with jobs := [], rowsFrom := k.mxe.rowsFrom.filter fun p => k.seqCyc ≤ p.2 } }
  js.foldl (fun k j =>
    let (k, r) := jobCycle { k with mxe := { k.mxe with jobs := k.mxe.jobs ++ js.filter fun x => j.seq < x.seq } } j
    let before := k.mxe.jobs.filter fun x => x.seq ≤ j.seq
    { k with mxe := { k.mxe with jobs := before ++ r.toList } }) k

/-- A command starts: its entries leave the queue (after the one that a VQPOP of its bundle takes, log 77), overlapped records
go, its tile record is taken, its first read is made, MCLR's zeros are on their way (R246 to R251). -/
def startJob (k : Core) (j : MxeJob) : Core :=
  let need := j.rows * rowsPerA j.fmt
  let j := { j with tile := if j.op ≤ 2 then k.tileAt j.ctx j.unit else none }
  let j := if j.op = 2 then { j with ents := ((k.queue j.queue).data.take need).map rowOfBytes } else j
  let k := if j.op = 2 then { k with queues := k.queues.set j.queue { (k.queue j.queue) with data := (k.queue j.queue).data.drop need } } else k
  let k := if j.op = 3 ∨ j.op = 4 then dropTiles k j.unit (storedWidth j.fmt) else k
  let k := { k with mxe := { k.mxe with busyTill := k.seqCyc + j.occupancy, rowsFrom := k.mxe.rowsFrom ++ j.writes } }
  if j.op = 5 then
    { k with landings := k.landings ++ j.cRows.map fun r =>
      { due := k.seqCyc + 2, seq := j.seq, slot := 2, dst := .row r, val := 0 } }
  else
    let (k, r) := jobCycle k j
    { k with mxe := { k.mxe with jobs := k.mxe.jobs ++ r.toList } }

/-- The MXE status word of a stop record (R367): STATE 1, the opcode, and the source row or queue entry met. -/
def mxeStatus (op row : Nat) : BitVec 64 := BitVec.ofNat 64 (1 + 16 * (op % 16) + 65536 * (row % 65536))

/-- PROGRESS of a stop record (R366): the iteration of the loop-nest bundle, the issue of the repeat, or the step of the CHSTEP
under way. -/
def Core.progress (k : Core) : BitVec 32 :=
  BitVec.ofNat 32 (match k.tsq.nest, k.tsq.repeat_, k.xcu.run with
    | some n, _, _ => n.done
    | none, some r, _ => r.done
    | none, none, some r => r.done
    | none, none, none => 0)

/-- SPC of a stop record (R366): the PC of the tile program that runs, if one does. -/
def Core.spc (k : Core) : BitVec 64 := if k.lamp.isSome && k.tsq.active then k.tsq.pc.setWidth 64 else 0

end Sys2Proof.Machine
end

