-- ==== Sys2Proof/Machine/Rejoin.lean ====
section
/-!
DEFINITION. Fibre set: rejoin masks, rendezvous and the cross-fibre operations (R36 to R39, R176 to R181).
-/
namespace Sys2Proof.Machine

/-- A fibre as an issuer, for what the part does to it when it is not its turn. -/
def fctx (s : State) (c b f : Nat) : Option FCtx :=
  match s.block c b, s.fibre c b f with
  | some k, some x => some ⟨c, b, f, k, x, {}, true⟩
  | _, _ => none

/-- A fibre takes ILLEGAL_INSTRUCTION at its own instruction. -/
def illegalAt (s : State) (c b f : Nat) (why : BitVec 64) : State :=
  match fctx s c b f with
  | some q => q.illegal s why
  | none => s

/-- One bit. -/
def bitOf (p : Bool) : BitVec 64 := if p then 1 else 0

/-- XVOTE over the active arrivals (R178). -/
def voteVal (op : Nat) (A : List Arrival) : BitVec 64 :=
  match op with
  | 0 => bitOf (A.all fun a => a.pred)
  | 1 => bitOf (A.any fun a => a.pred)
  | 2 => bitOf ((A.all fun a => a.pred) || (A.all fun a => !a.pred))
  | _ => BitVec.ofNat 64 (A.countP fun a => a.pred)

/-- A node of XRED's tree by operation and type code (R179). -/
def redNode (op ty a b : Nat) : Nat :=
  match op with
  | 0 => match ty with
    | 0 => (a + b) % 2 ^ 32
    | 1 => (a + b) % 2 ^ 64
    | 2 => fAdd 0x11 0 a b
    | _ => fAdd 0x10 0 a b
  | 1 => a ||| b
  | _ => a ^^^ b

/-- XRED over 1,024 positions (R179). -/
def redVal (op ty : Nat) (A : List Arrival) : BitVec 64 :=
  let pos (i : Nat) : Nat := ((A.find? fun a => a.fib = i).map fun a => a.val.toNat).getD 0
  BitVec.ofNat 64 (reducePairwise (redNode op ty) 0 10 ((List.range 1024).map pos))

/-- The key by which MATCHF groups an FP32 code (R180). -/
def matchKeyF (v : BitVec 64) : BitVec 64 :=
  match valueOf (v.toNat % 2 ^ 32) 0x11 with
  | .nan => 0x7FC00000
  | .fin _ 0 _ => 0
  | _ => v

/-- The lowest %fibre of a list of arrivals. -/
def lowestFib (A : List Arrival) : Nat := A.foldl (fun n a => min n a.fib) 1023

/-- The group of an arrival by a key function (R180): its lowest %fibre and its count, as the pair of results. -/
def groupVal (key : BitVec 64 → BitVec 64) (A : List Arrival) (a : Arrival) : BitVec 64 :=
  let g := A.filter fun b => key b.val = key a.val
  pair64 (BitVec.ofNat 32 (lowestFib g)) (BitVec.ofNat 32 g.length)

/-- The fibre of an active arrival with its result (R177 to R181). -/
def withResult (A : List Arrival) (a : Arrival) (win : Nat) (x : Fibre) : Fibre :=
  match a.op with
  | .park => x
  | .xread d b64 =>
    let v := ((A.find? fun b => b.fib = a.idx).map fun b => b.val).getD 0
    if b64 then x.setPair win d v else x.setReg win d (lo32 v)
  | .xvote d op => x.setReg win d (lo32 (voteVal op A))
  | .xred d op ty => if ty = 1 ∨ (op = 0 ∧ ty = 3) then x.setPair win d (redVal op ty A) else x.setReg win d (lo32 (redVal op ty A))
  | .matchKey d _ => x.setPair win d (groupVal id A a)
  | .matchF d => x.setPair win d (groupVal matchKeyF A a)
  | .elect pd => x.setPred pd (a.fib = lowestFib A)

/-- A fibre of a completed round goes on (R36, R176). -/
def releaseArrival (A : List Arrival) (c b : Nat) (s : State) (a : Arrival) : State :=
  match s.block c b, s.fibre c b a.fib with
  | some k, some x =>
    s.setFibre c b a.fib ((if a.active then withResult A a k.win x else x).issued s.cycle)
  | _, _ => s

/-- Whether the arrived set is not empty and equals the enrolled set (R36). -/
def Mask.full (m : Mask) : Bool :=
  !m.arrived.isEmpty && m.enrolled.all (fun f => m.arrived.any fun a => a.fib = f) &&
    m.arrived.all (fun a => hasN m.enrolled a.fib)

/-- The end of a round, if mask `j` of the block is full: results and release, or ILLEGAL_INSTRUCTION for arrivals at
more than one address (R36 to R38). -/
def completeRound (s : State) (c b j : Nat) : State :=
  match s.block c b with
  | none => s
  | some k =>
    let m := k.masks.get j {}
    if !m.full then s
    else
      let s := s.setBlock c b { k with masks := k.masks.set j { m with arrived := [] } }
      let pc := ((m.arrived.head?).map fun a => a.pc).getD 0
      if m.arrived.all fun a => a.pc = pc then
        m.arrived.foldl (releaseArrival (m.arrived.filter fun a => a.active) c b) s
      else m.arrived.foldl (fun s a => illegalAt s c b a.fib 1) s

/-- A change of a mask's enrolled set by a fibre, then the end of the round if it is complete (R36). -/
def changeMask (s : State) (c b j : Nat) (g : Mask → Mask) : State :=
  match s.block c b with
  | none => s
  | some k => completeRound (s.setBlock c b { k with masks := k.masks.set j (g (k.masks.get j {})) }) c b j

/-- A fibre leaves a mask's enrolled set (R36). -/
def Mask.strike (m : Mask) (f : Nat) : Mask :=
  { enrolled := m.enrolled.filter (· ≠ f), arrived := m.arrived.filter fun a => a.fib ≠ f }

/-- A rendezvous instruction at issue (R36, R37): its arrival, or nothing for a fibre that is not enrolled. -/
def FCtx.rendezvous (q : FCtx) (s : State) (j : Nat) (a : Arrival) : State :=
  if hasN (q.k.masks.get j {}).enrolled q.f then
    changeMask (q.wait s (.rejoin j)) q.c q.b j fun m => { m with arrived := m.arrived ++ [a] }
  else q.retire s q.x

/-- The arrival of the issuing fibre, with the values that its sources hold. -/
def FCtx.arrival (q : FCtx) (op : RvOp) (val : BitVec 64 := 0) (idx : Nat := 0) (p : Bool := false) : Arrival :=
  { fib := q.f, pc := q.x.pc, active := q.guard, val := val, idx := idx, pred := p, op := op }

/-- ENROL (R36). -/
def execEnrol (f : FHdr) (j : BitVec 8) (s : State) : Out :=
  fibreExec f ({
    act := fun q s =>
      changeMask (q.retire s q.x) q.c q.b j.toNat fun m => { m with enrolled := insN m.enrolled q.f } }) s
/-- STRIKE (R36). -/
def execStrike (f : FHdr) (j : BitVec 8) (s : State) : Out :=
  fibreExec f { act := fun q s => changeMask (q.retire s q.x) q.c q.b j.toNat fun m => m.strike q.f } s
/-- PARK (R36). -/
def execPark (f : FHdr) (j : BitVec 8) (s : State) : Out :=
  fibreExec f { rendezvous := true, act := fun q s => q.rendezvous s j.toNat (q.arrival .park) } s

/-- XREAD (R177). -/
def execXread (f : FHdr) (d sa sb j : BitVec 8) (b64 : BitVec 1) (s : State) : Out :=
  fibreExec f ({
    srcs := [srcA sa (if b64 = 1 then 2 else 1), srcB sb]
    dsts := [(d.toNat, if b64 = 1 then 2 else 1)]
    rendezvous := true
    act := fun q s => q.rendezvous s j.toNat
      (q.arrival (.xread d.toNat (b64 = 1)) (if b64 = 1 then q.gg sa else (q.g sa).setWidth 64) (q.g sb).toNat) }) s
/-- XVOTE (R178). -/
def execXvote (f : FHdr) (d pa j : BitVec 8) (op : BitVec 2) (s : State) : Out :=
  fibreExec f ({
    psrcs := [pa.toNat]
    dsts := [(d.toNat, 1)]
    rendezvous := true
    act := fun q s => q.rendezvous s j.toNat (q.arrival (.xvote d.toNat op.toNat) 0 0 (q.x.pred pa.toNat)) }) s
/-- Whether XRED works on pairs (R179). -/
def xredPair (op : BitVec 2) (ty : BitVec 3) : Bool := decide (ty = 1) || (decide (op = 0) && decide (ty = 3))
/-- XRED (R179). -/
def execXred (f : FHdr) (d sa j : BitVec 8) (op : BitVec 2) (ty : BitVec 3) (s : State) : Out :=
  fibreExec f ({
    srcs := [srcA sa (if xredPair op ty then 2 else 1)]
    dsts := [(d.toNat, if xredPair op ty then 2 else 1)]
    rendezvous := true
    act := fun q s => q.rendezvous s j.toNat
      (q.arrival (.xred d.toNat op.toNat ty.toNat) (if xredPair op ty then q.gg sa else (q.g sa).setWidth 64)) }) s
/-- MATCH (R180). -/
def execMatchw (f : FHdr) (d sa j : BitVec 8) (b64 : BitVec 1) (s : State) : Out :=
  fibreExec f ({
    srcs := [srcA sa (if b64 = 1 then 2 else 1)]
    dsts := [(d.toNat, 2)]
    rendezvous := true
    act := fun q s => q.rendezvous s j.toNat
      (q.arrival (.matchKey d.toNat (b64 = 1)) (if b64 = 1 then q.gg sa else (q.g sa).setWidth 64)) }) s
/-- MATCHF (R180). -/
def execMatchf (f : FHdr) (d sa j : BitVec 8) (s : State) : Out :=
  fibreExec f ({
    srcs := [srcA sa]
    dsts := [(d.toNat, 2)]
    rendezvous := true
    act := fun q s => q.rendezvous s j.toNat (q.arrival (.matchF d.toNat) ((q.g sa).setWidth 64)) }) s
/-- ELECT (R181). -/
def execElect (f : FHdr) (pd j : BitVec 8) (s : State) : Out :=
  fibreExec f { rendezvous := true, act := fun q s => q.rendezvous s j.toNat (q.arrival (.elect pd.toNat)) } s

end Sys2Proof.Machine
end

