-- ==== Sys2Proof/Machine/Barrier.lean ====
section
/-!
DEFINITION. Fibre set: barriers (R40 to R43, R200 to R203), and the arrival and completion that fibres, tile programs and
engines share.
-/
namespace Sys2Proof.Machine

/-- An ORPHAN entry of the fault log (R290, R356, R369). -/
def orphanLog (s : State) (ctx c fib slot frame : Nat) (info stop : List Byte) : State :=
  faultLog s ctx 4 c fib slot frame info stop

/-- 32 zero bytes. -/
def zero32 : List Byte := List.replicate 32 0

/-- Whether a fibre is there and has not ended. -/
def alive (s : State) (c b f : Nat) : Bool :=
  match s.fibre c b f with
  | some x => x.status ≠ .ended
  | none => false

/-- A failed check of an attached operation, as an engine fault pending on a fibre, or an ORPHAN entry where it has ended
(R43, R356, R366). -/
def attFault (s : State) (c b f ctx op : Nat) (t : TTrap) : State :=
  let k := s.core c
  let r : StopRec := { engine := 1, trap := t.code, cmdidx := Config.attIndex s.free, addr := t.addr, status := mxeStatus op 0
                       spc := k.spc, progress := k.progress }
  if alive s c b f then
    addPending s.draw c b f { code := t.code, addr := t.addr, info0 := t.info0, info1 := t.info1, async := true, stop := some r }
  else orphanLog s.draw ctx c f b 0 zero32 r.bytes

/-- An attached operation is queued at the MXE when its phase completes; its issue-time checks run now (R43, R203). -/
def queueAttached (s : State) (c : Nat) (x : Bar) : State :=
  match x.att, s.block c x.slot with
  | some m, some k =>
    let fib := x.signBy.getD x.attBy
    match Decode.decodeM m with
    | .ok o =>
      match mxeCheck (s.core c) (s.core c).tsq k.ctx (mReq o) with
      | some t => attFault s c x.slot fib k.ctx (mReq o).op t
      | none => s.modCore c fun q => { q with mxe := { q.mxe with queue := q.mxe.queue ++
          [{ m := m, slot := x.slot, fib := fib, vbase := q.tsq.vbase, vrot := q.tsq.vrot, ad := q.tsq.ad, k := q.tsq.k }] } }
    | .error _ => s
  | _, _ => s

/-- A phase completes (R41, R43). -/
def completeBar (s : State) (c n : Nat) : State :=
  let x := s.bar c n
  let s := s.setBar c n { x with arrived := 0, phase := !x.phase, signBy := none, done := x.next }
  queueAttached (releaseBar s c n) c x

/-- The phase completes if Arrived has reached Expected (R41). -/
def checkBar (s : State) (c n : Nat) : State :=
  if (s.bar c n).expected ≤ (s.bar c n).arrived then completeBar s c n else s

/-- One arrival on a core's barrier (R41). -/
def arriveBar (s : State) (c n : Nat) : State :=
  let x := s.bar c n
  checkBar (s.setBar c n { x with arrived := x.arrived + 1 }) c n

/-- The core barrier that a name of a block is bound to (R33, R40). -/
def Block.barOf (k : Block) (n : Nat) : Option Nat := k.bars[n]?

/-- The issuing fibre's barrier named in the sc field, or BOUNDS (R200). -/
def FCtx.withBar (q : FCtx) (s : State) (b : BitVec 8) (act : Nat → State) : State :=
  match q.k.barOf b.toNat with
  | some n => act n
  | none => q.bounds s b.toNat 2

/-- BARV (R200): it does not wait; its arrival, a release, leaves a mark that holds the phase's waits back until the fibre's
earlier accesses have been performed (R41). -/
def execBarv (f : FHdr) (d b : BitVec 8) (s : State) : Out :=
  fibreExec f ({
    dsts := [(d.toNat, 1)]
    act := fun q s => q.withBar s b fun n =>
      let p := phaseNum (s.bar q.c n).phase
      arriveBar (q.leaveMark (q.putReg s d.toNat (BitVec.ofNat 32 p) 4) (.arrive n (s.bar q.c n).next)) q.c n }) s

/-- The wait of BWAIT and BSYNC for a barrier's `m`-th completion (R201); its end is an acquire, so it comes after every access
that precedes an arrival of the phase (R41, log 78). -/
def FCtx.waitBar (q : FCtx) (s : State) (n m : Nat) : State :=
  if phaseOver (s.core q.c) n m then q.retire s { (q.x.acquire s.cycle) with bsynced := q.x.bsynced.del q.x.depth }
  else q.wait s (.barrier n m)

/-- BWAIT (R201). -/
def execBwait (f : FHdr) (b sa : BitVec 8) (s : State) : Out :=
  fibreExec f ({
    srcs := [srcA sa]
    act := fun q s => q.withBar s b fun n => q.waitBar s n ((s.bar q.c n).target ((q.g sa).getLsbD 0)) }) s

/-- The completion to which a BSYNC of the fibre at its present instruction has already arrived (R201). -/
def Fibre.arrivedAt (x : Fibre) : Option Nat :=
  match x.bsynced.find? x.depth with
  | some (pc, m) => if pc = x.pc.toNat then some m else none
  | none => none

/-- BSYNC (R200, R201): the arrival once, then the wait for the phase it counted to. -/
def execBsync (f : FHdr) (b : BitVec 8) (s : State) : Out :=
  fibreExec f ({
    act := fun q s => q.withBar s b fun n =>
      match q.x.arrivedAt with
      | some m => q.waitBar s n m
      | none =>
        let m := (s.bar q.c n).next
        let y := { q.x with bsynced := q.x.bsynced.set q.x.depth (q.x.pc.toNat, m) }
        arriveBar (q.leaveMark (({ q with x := y } : FCtx).wait s (.barrier n m)) (.arrive n m)) q.c n }) s

/-- BSIGN (R43, R200); it does not wait. -/
def execBsign (f : FHdr) (d b : BitVec 8) (s : State) : Out :=
  fibreExec f ({
    dsts := [(d.toNat, 1)]
    act := fun q s => q.withBar s b fun n =>
      if !hasN (s.bar q.c n).signers q.f then q.bounds s b.toNat 2
      else
        let x := s.bar q.c n
        let p := phaseNum x.phase
        let s := q.leaveMark (q.putReg s d.toNat (BitVec.ofNat 32 p) 4) (.arrive n x.next)
        arriveBar (s.setBar q.c n { x with signBy := some q.f }) q.c n }) s

/-- BEXP (R200, R41). -/
def execBexp (f : FHdr) (b sa : BitVec 8) (s : State) : Out :=
  fibreExec f ({
    srcs := [srcA sa]
    act := fun q s => q.withBar s b fun n =>
      let v := (q.g sa).toNat
      if v = 0 ∨ 4096 < v then q.bounds s v 0
      else checkBar ((q.retire s q.x).setBar q.c n { (s.bar q.c n) with expected := v }) q.c n }) s

/-- The operation that BATT may attach: a well-formed M slot with no guard (R203 checks 3 and 4). -/
def attachable (v : DWord) : Option MOp :=
  if v.toNat / 2 ^ 48 ≠ 0 ∨ bitsN v.toNat 8 5 ≠ 0 then none
  else match Decode.decodeM (v.setWidth 48) with
    | .ok o => if WellFormed.checkM o = none then some o else none
    | .error _ => none

/-- BATT (R203). -/
def execBatt (f : FHdr) (b sa : BitVec 8) (j : BitVec 4) (s : State) : Out :=
  fibreExec f ({
    srcs := [srcA sa 2]
    act := fun q s => q.withBar s b fun n =>
      let x := s.bar q.c n
      let e := (q.k.masks.get j.toNat {}).enrolled
      if x.arrived ≠ 0 then q.bounds s x.arrived 22
      else match attachable (q.gg sa) with
        | none => q.bounds s (q.gg sa).toNat 0
        | some o =>
          if (mReq o).op = 0 then
            (q.retire s q.x).setBar q.c n { x with att := none, signers := [], attBy := q.f, signBy := none, slot := q.b }
          else if e.isEmpty then q.bounds s j.toNat 23
          else (q.retire s q.x).setBar q.c n
            { x with att := some ((q.gg sa).setWidth 48), signers := e, attBy := q.f, signBy := none, slot := q.b } }) s

end Sys2Proof.Machine
end

