-- ==== Sys2Proof/Machine/Cpe.lean ====
section
/-!
DEFINITION. The copy engine: tensor descriptors (R254), the checks of a command (R256, R258), what a command copies (R96,
R257, R258), its faults and where they go (R288 to R290, R446), and publishes (R101, R210, R259).
-/
namespace Sys2Proof.Machine

-- Descriptors (R254)

/-- A field of a descriptor. -/
def descBits (d : BitVec 512) (hi lo : Nat) : Nat := bitsN d.toNat hi lo
/-- BASE. -/
def descBase (d : BitVec 512) : Nat := descBits d 55 0
/-- SPACE: 0 global, 1 SPM, 2 ACM. -/
def descSpace (d : BitVec 512) : Nat := descBits d 57 56
/-- HND. -/
def descHnd (d : BitVec 512) : Nat := descBits d 61 58
/-- FMT. -/
def descFmt (d : BitVec 512) : Nat := descBits d 68 64
/-- The rank. -/
def descRank (d : BitVec 512) : Nat := descBits d 72 69 + 1
/-- The extent of dim `j`. -/
def descExt (d : BitVec 512) (j : Nat) : Nat := descBits d (80 + 12 * j + 11) (80 + 12 * j) + 1
/-- The stride of dim `j` in elements. -/
def descStride (d : BitVec 512) (j : Nat) : Nat := if j = 0 then 1 else descBits d (224 + 26 * (j - 1) + 25) (224 + 26 * (j - 1))
/-- The extents of the dims below the rank. -/
def descExts (d : BitVec 512) : List Nat := (List.range (descRank d)).map (descExt d)
/-- The element size in bytes, or 0 for a format that no descriptor has (R254). -/
def descSize (d : BitVec 512) : Nat :=
  let f := descFmt d
  if hasN [0x00, 0x01, 0x14, 0x15, 0x19, 0x1E, 0x1F] f then 1
  else if hasN [0x02, 0x12, 0x13] f then 2
  else if hasN [0x03, 0x11] f then 4
  else if hasN [0x0F, 0x10] f then 8 else 0

/-- The bytes from BASE + off to the last byte touched. -/
def descSpan (d : BitVec 512) : Nat :=
  descSize d * ((List.range (descRank d)).foldl (fun acc j => acc + (descExt d j - 1) * descStride d j) 0) + descSize d

/-- The indices of flat element `e` over extents, dim 0 fastest. -/
def unflat : List Nat → Nat → List Nat
  | [], _ => []
  | n :: t, e => e % n :: unflat t (e / n)

/-- The flat number of indices over extents. -/
def flat : List Nat → List Nat → Nat
  | n :: ns, i :: is => i + n * flat ns is
  | _, _ => 0

/-- The number of elements of extents. -/
def volume (ext : List Nat) : Nat := ext.foldl (· * ·) 1

/-- The byte distance of an element from BASE + off. -/
def elemOff (d : BitVec 512) (idx : List Nat) : Nat :=
  descSize d * ((List.range idx.length).foldl (fun acc j => acc + idx.getD j 0 * descStride d j) 0)

-- The checks of R256 and R258

/-- Steps 1 to 4 of R256 on one descriptor at an offset. -/
def descCheck (k : Block) (d : BitVec 512) (off : Nat) : Option TTrap :=
  let a := descBase d + off
  if descSpace d = 3 then some (tBounds 3 24)
  else if 12 < descRank d then some (tBounds (descRank d - 1 : Nat) 25)
  else if descSize d = 0 then some (tBounds (descFmt d) 26)
  else if descBits d 63 62 ≠ 0 ∨ descBits d 79 73 ≠ 0 ∨ descBits d 511 510 ≠ 0 then some (tBounds 1 27)
  else
    let al (n : Nat) : Option TTrap := if a % n ≠ 0 then some (tAlign a n) else none
    match descSpace d with
    | 1 =>
      match k.handles.find? (descHnd d) with
      | none => some (tOwner (descHnd d))
      | some b =>
        if !b.valid then some (tOwner (descHnd d))
        else if b.len < a + descSpan d then some (tBounds a 28) else al (descSize d)
    | 2 =>
      if 262144 < a + descSpan d then some (tBounds a 28)
      else match al 4 with
        | some t => some t
        | none => al (descSize d)
    | _ =>
      match al (descSize d) with
      | some t => some t
      | none => if 2 ^ 56 ≤ a then some (tBounds a 28) else none

/-- Whether descriptors have the shapes of R258, unpacked `u` and packed `p`, for factor `f`; their elements are of one size
(log 97). -/
def packShapes (u p : BitVec 512) (f : Nat) : Bool :=
  let c := descExt u 0
  decide (f ≠ 0) && decide (descRank u ≤ 11) && decide (descRank p = descRank u + 1) && decide (descSize u = descSize p) &&
    decide (descExts p = f :: (descExts u).drop 1 ++ [ceilDiv c f])

/-- Step 5 of R256 by operation code (1 copy, 2 publish mode, 3 pack, 4 unpack), and the shapes of R258. -/
def shapeCheck (op : Nat) (pm : Bool) (src dst : BitVec 512) (f : Nat) : Option TTrap :=
  if op = 3 then (if packShapes src dst f then none else some (tBounds f 29))
  else if op = 4 then (if packShapes dst src f then none else some (tBounds f 29))
  else if descRank src ≠ descRank dst ∨ descExts src ≠ descExts dst ∨ descSize src ≠ descSize dst then
    some (tBounds (descRank dst - 1 : Nat) 25)
  else if pm ∧ descSpace dst ≠ 0 then some (tBounds (descSpace dst) 24) else none

/-- Steps 1 to 5 of R256, source first. -/
def copyCheck (k : Block) (op : Nat) (pm : Bool) (src dst : BitVec 512) (so dof f : Nat) : Option TTrap :=
  match descCheck k src so with
  | some t => some t
  | none => match descCheck k dst dof with
    | some t => some t
    | none =>
      match shapeCheck op pm src dst f with
      | some t => some t
      | none => if pm ∧ descSpace dst ≠ 0 then some (tBounds (descSpace dst) 24) else none

/-- The buffer that an SPM descriptor names. -/
def descBuf (k : Block) (d : BitVec 512) : Option Buf := if descSpace d = 1 then k.handles.find? (descHnd d) else none

/-- The distance of a home core from a core of its cluster (R300). -/
def distance (c home : Nat) : Nat := (coreInCluster home + Config.coresPerCluster - coreInCluster c) % Config.coresPerCluster

/-- NETSLOT_VIOLATION for an SPM operand that no owned entry reaches (R256 step 7, R301). -/
def netslotCheck (q : Core) (c : Nat) (b : Option Buf) : Option TTrap :=
  match b with
  | none => none
  | some b =>
    if b.home = c ∨ hasN q.slotTable (distance c b.home) then none
    else some { code := 0x09, info0 := BitVec.ofNat 64 (coreInCluster b.home), info1 := BitVec.ofNat 64 (distance c b.home) }

-- What a command does (R257, R258)

/-- One element's move: its flat index on the source side, if it reads, and on the destination side, if it writes. -/
structure Move where
  from_ : Option Nat
  to_ : Option Nat
deriving DecidableEq, Repr

/-- Flat element `e` of an iteration over a command: of COPY's elements, or of the packed tensor's (R258). -/
def CpeCmd.move (x : CpeCmd) (e : Nat) : Move :=
  if x.op = 3 then
    let idx := unflat (descExts x.dst) e
    let c := (idx.getLastD 0) * x.factor + idx.headD 0
    if c < descExt x.src 0 then ⟨some (flat (descExts x.src) (c :: (idx.drop 1).dropLast)), some e⟩ else ⟨none, some e⟩
  else if x.op = 4 then
    let idx := unflat (descExts x.src) e
    let c := (idx.getLastD 0) * x.factor + idx.headD 0
    if c < descExt x.dst 0 then ⟨some e, some (flat (descExts x.dst) (c :: (idx.drop 1).dropLast))⟩ else ⟨none, none⟩
  else ⟨some e, some e⟩

/-- The number of iterations of a command. -/
def CpeCmd.total (x : CpeCmd) : Nat :=
  if x.op = 5 then 0 else if x.op = 4 then volume (descExts x.src) else volume (descExts x.dst)

/-- The byte address of flat element `e` of a side: in its space, from 0. -/
def sideAddr (d : BitVec 512) (off e : Nat) : Nat := descBase d + off + elemOff d (unflat (descExts d) e)

/-- How an element's access fails. -/
inductive ElemFault where
  | page (f : PFault) (va : Nat) (write : Bool)
  | notShadow (va level : Nat)
  | poison (va : Nat)
deriving DecidableEq, Repr

/-- The bytes of a source element: as they stand, or as the fill of their line brought them (R73, R96). Bytes that hold an
uncorrectable error read POISON (R99, R440). -/
def readElem (s : State) (c : Nat) (x : CpeCmd) (e : Nat) : Except ElemFault (List Byte) :=
  let n := descSize x.src
  let a := sideAddr x.src x.srcOff e
  match descSpace x.src with
  | 0 =>
    match translate s x.ctx 0 a with
    | .error f => .error (.page f a false)
    | .ok t =>
      let l := match x.lines.find? (t.pa a / 128) with
        | some d => d.map fun l => slice l (t.pa a % 128) n
        | none => physRead s t.key (t.pa a) n
      match l with
      | none => .error (.poison a)
      | some l => .ok l
  | 1 => match x.srcBuf with
    | some b => match s.spmRead b.home (copyAgent c x.id) (b.base + a) n with
      | some l => .ok l
      | none => .error (.poison a)
    | none => .ok (List.replicate n 0)
  | _ =>
    if unitBad (s.core c).acmBad a n then .error (.poison a)
    else .ok (slice (rowBytes ((s.core c).row (a / 256))) (a % 256) n)

/-- The page of a destination element, and the frame that the command's writes reach (R100, R382). -/
def writePage (s : State) (x : CpeCmd) (a : Nat) : Except ElemFault Tlb :=
  match translate s x.ctx 1 a with
  | .error f => .error (.page f a true)
  | .ok t =>
    if x.pm then (match t.alt with
      | some n => .ok { t with frame := n }
      | none => .error (.notShadow a t.level))
    else .ok t

/-- The fault that a destination element's write would meet. -/
def writeFault (s : State) (x : CpeCmd) (e : Nat) : Option ElemFault :=
  if descSpace x.dst = 0 then (match writePage s x (sideAddr x.dst x.dstOff e) with
    | .error f => some f
    | .ok _ => none)
  else none

/-- A destination element written (R96): weakly, so a global line's ownership passes to the core's slice (R72); a page written
in publish mode is noted (R102). -/
def writeElem (s : State) (c : Nat) (x : CpeCmd) (e : Nat) (bytes : List Byte) : State :=
  let a := sideAddr x.dst x.dstOff e
  match descSpace x.dst with
  | 0 => match writePage s x a with
    | .ok t =>
      let s := physWrite s x.ctx t.key (t.pa a) bytes
      let s := if x.pm then { s with
        shadow := if s.shadow.any fun p => p = (c, x.ctx, a / 4096) then s.shadow else (c, x.ctx, a / 4096) :: s.shadow
        spoiled := s.spoiled.filter fun p => p ≠ (x.ctx, a / 4096) } else s
      if backed (t.pa a) then l2Own s (sliceOf (dieOf c) (t.pa a)) (t.pa a / 128) t.key else s
    | .error _ => s
  | 1 => match x.dstBuf with
    | some b => s.spmWrite b.home (copyAgent c x.id) (b.base + a) bytes
    | none => s
  | _ => s.modCore c fun k => { k with
      acm := k.acm.set (a / 256) (rowOfBytes (patch (rowBytes (k.row (a / 256))) (a % 256) bytes))
      acmNow := (s.cycle, let m := if k.acmNow.1 = s.cycle then k.acmNow.2 else []
        if (m.find? (a / 256)).isSome then m else m.set (a / 256) (k.row (a / 256)))
      acmBad := k.acmBad.filter fun u => !(decide (a ≤ 8 * u) && decide (8 * u + 8 ≤ a + bytes.length)) }

/-- The fault of iteration `e` on one side, with that side's element index. -/
def sideFault (s : State) (c : Nat) (x : CpeCmd) (write : Bool) (e : Nat) : Option (ElemFault × Nat) :=
  if write then (x.move e).to_.bind fun j => (writeFault s x j).map fun f => (f, j)
  else (x.move e).from_.bind fun i => match readElem s c x i with
    | .error f => some (f, i)
    | .ok _ => none

/-- The fault of iteration `e`, with its side's element index (R288). -/
def moveFault (s : State) (c : Nat) (x : CpeCmd) (e : Nat) : Option (ElemFault × Nat) :=
  match sideFault s c x false e with
  | some r => some r
  | none => sideFault s c x true e

/-- Whether a fault is that of a write. -/
def ElemFault.write : ElemFault → Bool
  | .page _ _ w => w
  | .notShadow _ _ => true
  | .poison _ => false

/-- The first fault of a copy from iteration `e` on; `fuel` counts the iterations left. -/
def copyFaultFrom (s : State) (c : Nat) (x : CpeCmd) : Nat → Nat → Option (ElemFault × Nat)
  | 0, _ => none
  | fuel + 1, e => match moveFault s c x e with
    | some r => some r
    | none => copyFaultFrom s c x fuel (e + 1)

/-- Of the faults of a copy's iterations from `e` on that lie on the side of `r`, the one of the lowest flat element (R288). -/
def lowestFault (s : State) (c : Nat) (x : CpeCmd) : Nat → Nat → ElemFault × Nat → ElemFault × Nat
  | 0, _, r => r
  | fuel + 1, e, r => lowestFault s c x fuel (e + 1) (match sideFault s c x r.1.write e with
    | some q => if q.2 < r.2 then q else r
    | none => r)

/-- The fault that a copy's stop record names: the side is that of its first fault (R288). -/
def copyFault (s : State) (c : Nat) (x : CpeCmd) : Option (ElemFault × Nat) :=
  (copyFaultFrom s c x x.total 0).map (lowestFault s c x x.total 0)

/-- One iteration performed; a padding element of a packed tensor is zero bits (R258). -/
def doMove (c : Nat) (x : CpeCmd) (s : State) (e : Nat) : State :=
  let m := x.move e
  match m.to_ with
  | none => s
  | some j =>
    match m.from_ with
    | none => writeElem s c x j (List.replicate (descSize x.dst) 0)
    | some i => match readElem s c x i with
      | .ok l => writeElem s c x j l
      | .error _ => s

/-- Iterations from `e` on performed. The manual leaves the elements' order and times open (R96, R257): here they are taken in
ascending order, all in one turn (log 80). -/
def doMoves (c : Nat) (x : CpeCmd) : Nat → Nat → State → State
  | 0, _, s => s
  | fuel + 1, e, s => doMoves c x fuel (e + 1) (doMove c x s e)

/-- Iterations from `e` on of a command that stops at a fault: those that meet no fault may have been performed (R96,
R288). -/
def doSome (c : Nat) (x : CpeCmd) (n : Nat) : Nat → Nat → State → State
  | 0, _, s => s
  | fuel + 1, e, s =>
    doSome c x n fuel (e + 1) (if Config.elementDone n e && (moveFault s c x e).isNone then doMove c x s e else s)

/-- A command that is to run from its start: it asks for its pages and lines and sends its beats again. -/
def CpeCmd.anew (x : CpeCmd) : CpeCmd := { x with walked := [], asked := false, waits := [], lines := [], toSrc := 0, toDst := 0, answer := 0 }

-- Lines and beats of a command (R73, R74, R301)

/-- The pages that a command's accesses of one side touch. -/
def sidePages (x : CpeCmd) (acc : Nat) : List Nat :=
  let d := if acc = 0 then x.src else x.dst
  if descSpace d ≠ 0 then []
  else (List.range x.total).foldl (fun l e =>
    match (if acc = 0 then (x.move e).from_ else (x.move e).to_) with
    | none => l
    | some i => insN l (sideAddr d (if acc = 0 then x.srcOff else x.dstOff) i / 4096)) []

/-- The lines that a command's accesses of one side touch, with their keys, once the walks of its pages are over (R385); a page that
does not translate has none. -/
def sideLines (s : State) (x : CpeCmd) (acc : Nat) : List (Nat × Nat) :=
  let d := if acc = 0 then x.src else x.dst
  if descSpace d ≠ 0 then []
  else (List.range x.total).foldl (fun l e =>
    match (if acc = 0 then (x.move e).from_ else (x.move e).to_) with
    | none => l
    | some i =>
      let a := sideAddr d (if acc = 0 then x.srcOff else x.dstOff) i
      match (if acc = 0 then (translate s x.ctx 0 a).toOption else (writePage s x a).toOption) with
      | some t => if l.any (fun p => p = (t.key, t.pa a / 128)) then l else l ++ [(t.key, t.pa a / 128)]
      | none => l) []

/-- The head command of a core changed. -/
def modHead (s : State) (c : Nat) (g : CpeCmd → CpeCmd) : State :=
  s.modCore c fun k => { k with cpe := match k.cpe with
    | x :: t => g x :: t
    | [] => [] }

/-- A command asks a slice for a line (R73, R74): a read registers with an open merge entry, or has the data that its fill
brought after the command was queued (R89); a line that the slice does not serve is filled, with its MISS. -/
def askLine (c : Nat) (x : CpeCmd) (write : Bool) (s : State) (p : Nat × Nat) : State :=
  let pa := 128 * p.2
  let sl := sliceOf (dieOf c) pa
  let miss (merge : Bool) : State :=
    raiseMiss (openFill (modHead s c fun y => { y with waits := y.waits ++ [p.2] }) sl p.2 p.1 merge [(c, aloneBit + x.id)])
      sl p.2 p.1 c write
  let lone : State := if lineReady (s.slice' sl) p.2 then s else miss (!write && merging s sl)
  if unbacked pa ∨ (write ∧ ¬ backed pa) then s
  else match (if write then none else openEntry s sl p.2) with
    | none => lone
    | some m =>
      if !m.arrived then
        (modHead s c fun y => { y with waits := y.waits ++ [p.2] }).modSlice sl fun z =>
          { z with merges := z.merges.set p.2 { m with regs := m.regs ++ [(c, aloneBit + x.id)] } }
      else if x.stamp < m.taken then modHead s c fun y => { y with lines := y.lines.set p.2 m.data }
      else if lineReady (s.slice' sl) p.2 then s else miss false

/-- The elements that a command reads, or for `write` writes: padding is written by CPACK and touched by nothing else (R258). -/
def CpeCmd.elems (x : CpeCmd) (write : Bool) : Nat :=
  if x.op = 5 then 0 else volume (descExts (if x.op = 4 ∨ write then x.dst else x.src))

/-- The beats that a side of a command takes: one for each 64 bytes that it moves to or from another core's SPM (R301, log 81). -/
def sideBeats (c : Nat) (x : CpeCmd) (write : Bool) : Nat :=
  if (if write then x.dstBuf else x.srcBuf).any fun b => b.home ≠ c then ceilDiv (x.elems write * descSize x.src) 64 else 0

/-- The head command begins: it asks for its lines, and its beats are counted. -/
def askLines (s : State) (c : Nat) (x : CpeCmd) : State :=
  let s := modHead s c fun y => { y.anew with asked := true, toSrc := sideBeats c x false, toDst := sideBeats c x true }
  let s := (sideLines s x 0).foldl (askLine c x false) s
  (sideLines s x 1).foldl (askLine c x true) s

/-- Whether every line of a begun command has come and its beats have been sent and answered. -/
def CpeCmd.served (x : CpeCmd) (fabric : Nat) : Bool :=
  x.asked && x.waits.isEmpty && decide (x.toSrc = 0) && decide (x.toDst = 0) && decide (x.answer ≤ fabric)

-- Publishes (R101, R210)

/-- The fault that a publish meets on a page (R210 step 4). -/
def publishFault (s : State) (ctx : Nat) : List Nat → Option (PFault × Nat)
  | [] => none
  | p :: t => match translate s ctx 1 (p * 4096) with
    | .error e => some (e, p * 4096)
    | .ok x => if x.pair = none then some (⟨5, x.level⟩, p * 4096) else publishFault s ctx t

/-- Whether a publish-mode command of a context that writes into a set is outstanding on some core, or with a saved core (R373),
and was issued no later than `stamp` (R101). A set is whole pages (R210). -/
def publishBlocked (s : State) (ctx base len stamp : Nat) : Bool :=
  (s.cores.vals ++ s.saves.vals.map (·.k)).any fun k => k.cpe.any fun x => x.pm && decide (x.ctx = ctx) && decide (x.stamp ≤ stamp) &&
    decide (descBase x.dst + x.dstOff < ceilDiv (base + len) 4096 * 4096) &&
    decide (base / 4096 * 4096 < descBase x.dst + x.dstOff + descSpan x.dst)

/-- One page of a set exchanges its frames (R101, R382): the selector toggles in memory, cached translations and L1 copies
of the old frame go, and accesses still to be performed reach the new frame. -/
def publishPage (s : State) (ctx p : Nat) : State :=
  match translate s ctx 1 (p * 4096) with
  | .error _ => s
  | .ok t =>
    match t.pair, t.alt with
    | some pair, some new =>
      let w0 := ofBytes ((physRead s ctx pair 8).getD [])
      let w1 := if w0 % 2 = 0 then w0 + 1 else w0 - 1
      let s := physWrite s ctx ctx pair (toBytes 8 w1)
      { s with
        tlb := s.tlb.filter fun x => ¬ (x.ctx = ctx ∧ x.page = p)
        shadow := s.shadow.filter fun x => x.2 ≠ (ctx, p)
        cores := s.cores.map fun (c, k) => (c, { k with
          l1 := k.l1.filter fun (l, _) => l / 32 ≠ t.frame
          pend := k.pend.map fun a =>
            if a.open_ ∧ a.ctx = ctx ∧ a.spm.isNone ∧ a.va / 4096 = p then { a with pa := new * 4096 + a.va % 4096 } else a }) }
    | _, _ => s

/-- A publish's point, a strong access (R92, R101). A set with a page whose shadow contents were discarded stays in its old frames
(R102, R290, log 98). -/
def publishAll (s : State) (ctx : Nat) (pages : List Nat) : State :=
  let s' := { s.stampNext with spoiled := s.spoiled.filter fun e => !(decide (e.1 = ctx) && hasN pages e.2) }
  if s.spoiled.any fun e => decide (e.1 = ctx) && hasN pages e.2 then s' else pages.foldl (fun s p => publishPage s ctx p) s'

/-- The contents of a shadow page are discarded (R102). -/
def discardPage (s : State) (ctx page : Nat) : State :=
  match translate s ctx 1 (page * 4096) with
  | .error _ => s
  | .ok t => match t.alt with
    | some f => physWrite s.draw ctx t.key (f * 4096) ((List.range 4096).map (Config.discardedByte s.free))
    | none => s

/-- The contents of shadow pages of a context are discarded, and their set stays in its old frames (R102, log 98). -/
def discardPages (s : State) (ctx : Nat) (pages : List Nat) : State :=
  let s := pages.foldl (fun s p => discardPage s ctx p) s
  { s with spoiled := pages.map (fun p => (ctx, p)) ++ s.spoiled }

/-- The shadow pages of a context that publish-mode commands of some cores have written since their last publish are discarded
(R102). -/
def discardShadow (s : State) (ctx : Nat) (on : Nat → Bool) : State :=
  let gone := s.shadow.filter fun e => on e.1 && decide (e.2.1 = ctx)
  { discardPages s ctx (gone.map (·.2.2)) with shadow := s.shadow.filter fun e => !(on e.1 && decide (e.2.1 = ctx)) }

-- Queueing, completion and faults

/-- Whether the CPE accepts a command (R224). -/
def cpeFree (k : Core) : Bool := decide (k.cpe.length < 16)

/-- A promise for a command issued now: no smaller than 16 cycles on (R257, log 8). -/
def newPromise (s : State) : Nat := s.cycle + 16 + Config.promiseSlack s.free

/-- A command enters the queue. -/
def enqueueCmd (s : State) (c : Nat) (x : CpeCmd) : State :=
  s.modCore c fun k => { k with
    cpe := k.cpe ++ [{ x with id := k.cpeId, stamp := s.cycle, fence := k.issueNo }]
    cpeId := k.cpeId + 1 }

/-- Whether a write of the tile slots to ACM or SPM bytes that a command reads, from its own or earlier bundles, is still to be
performed: a result in flight, a row that a read from SPM will write, a matrix command, and for the rest of a loop-nest
bundle, a repeat or a CHSTEP any row (R257). -/
def sourcePending (k : Core) (c : Nat) (x : CpeCmd) : Bool :=
  let lo := descBase x.src + x.srcOff
  let hi := lo + descSpan x.src
  let rowIn (n : Nat) : Bool := descSpace x.src = 2 && decide (lo < 256 * n + 256) && decide (256 * n < hi)
  let spmIn (a n : Nat) : Bool := match x.srcBuf with
    | some b => decide (b.home = c) && decide (b.base + lo < a + n) && decide (a < b.base + hi)
    | none => false
  (k.landings.any fun l => decide (l.seq < x.fence) && (match l.dst with
    | .row n => rowIn n
    | .rowPart n _ _ => rowIn n
    | .spm a n => spmIn a n
    | _ => false)) ||
  (k.mxe.jobs.any fun j => decide (j.seq < x.fence) && j.cRows.any rowIn) ||
  (k.reads.any fun r => decide (r.seq < x.fence) && (match r.dst with
    | .row n => rowIn n
    | .rowPart n _ _ => rowIn n
    | _ => false)) ||
  (k.tsq.nest.any fun n => decide (n.seq < x.fence)) ||
  (descSpace x.src = 2 && ((k.tsq.repeat_.any fun r => decide (r.seq < x.fence)) || (k.xcu.run.any fun r => decide (r.seq < x.fence))))

/-- Whether a write of this core's tile slots has reached bytes of a command's SPM source in this cycle: the command reads
them in a later one, as a read of this cycle would return the values before (R95, R257). -/
def sourceJustWritten (s : State) (c : Nat) (x : CpeCmd) : Bool :=
  match x.srcBuf with
  | none => false
  | some b =>
    let k := s.core b.home
    let lo := b.base + descBase x.src + x.srcOff
    decide (k.spmNow.1 = s.cycle) && k.spmNow.2.any fun p =>
      (p.2.any fun w => w.1 = tileAgent c) && decide (lo ≤ p.1) && decide (p.1 < lo + descSpan x.src)

/-- Whether the head command may be carried out. -/
def cmdReady (s : State) (c : Nat) (x : CpeCmd) : Bool :=
  x.stop.isNone && !spmAway s x.ctx x.srcBuf && !spmAway s x.ctx x.dstBuf && (match x.pub with
    | some (b, n) => !publishBlocked s x.ctx b n x.stamp
    | none => !sourcePending (s.core c) c x && !sourceJustWritten s c x)

/-- Whether the tile program that issued a command still runs (R257, R446). -/
def tileRuns (k : Core) (slot grant : Nat) : Bool := k.lamp = some slot && k.tsq.active && k.tsq.grant = grant

/-- The block slot of a command's issuer (R35). -/
def CmdOwner.slot : CmdOwner → Nat
  | .tile b _ _ => b
  | .fibre b _ _ => b
/-- The command index of R223. -/
def CmdOwner.idx : CmdOwner → Nat
  | .tile _ i _ => i
  | .fibre _ _ i => i

/-- The head command leaves the queue. -/
def popCmd (s : State) (c : Nat) : State := s.modCore c fun k => { k with cpe := k.cpe.drop 1 }

/-- The head command is removed from its engine and runs no more: a publish-mode command leaves its set in the old frames (R290). -/
def removeCmd (s : State) (c : Nat) (x : CpeCmd) : State :=
  let s := popCmd s c
  if !x.pm then s
  else
    let pages := sidePages x 1
    { discardPages s x.ctx pages with shadow := s.shadow.filter fun e => !(decide (e.1 = c) && decide (e.2.1 = x.ctx) && hasN pages e.2.2) }

/-- A command's arrival on its barrier (R42, R257). -/
def cmdArrive (s : State) (c : Nat) (x : CpeCmd) : State :=
  match x.bar with
  | some n => arriveBar s c n
  | none => s

/-- The stop record of a command's fault (R288, R366). -/
def cmdStop (k : Core) (x : CpeCmd) (f : ElemFault) (elem : Nat) : StopRec :=
  let st (w sh : Bool) : BitVec 64 :=
    BitVec.ofNat 64 (1 + (if w then 4 else 0) + (if sh then 8 else 0) + 16 * (if x.pm then 2 else x.op) + 65536 * (if x.op = 5 then 0 else elem % 2 ^ 32))
  let base : StopRec := { engine := 2, progress := k.progress, cmdidx := BitVec.ofNat 32 x.owner.idx, spc := match x.owner with
    | .tile b _ g => if tileRuns k b g then k.tsq.pc.setWidth 64 else 0
    | .fibre _ _ _ => 0 }
  match f with
  | .page e va w => { base with
      trap := 0x04, reason := BitVec.ofNat 8 e.reason, access := if w then 1 else 0, addr := BitVec.ofNat 64 va, status := st w false }
  | .notShadow va _ => { base with trap := 0x04, reason := 5, access := 1, addr := BitVec.ofNat 64 va, status := st true (x.op ≠ 5) }
  | .poison va => { base with trap := 0x03, addr := BitVec.ofNat 64 va, status := st false false }

/-- The trap that a stop record gives (R362). -/
def stopTrap (r : StopRec) (level : Nat) : Trap :=
  { code := r.trap, addr := r.addr, async := true, stop := some r
    info0 := if r.trap = 0x04 then (r.reason.setWidth 64) + 256 * (r.access.setWidth 64) else 0xFFFF
    info1 := if r.trap = 0x04 then BitVec.ofNat 64 level else 0 }

/-- An engine fault goes to its program, block or fibre; with nobody left it is an ORPHAN and `gone` says so (R257, R290,
R356, R446). -/
def routeFault (s : State) (c : Nat) (ctx : Nat) (o : CmdOwner) (t : Trap) : State × Bool :=
  let rec_ := (t.stop.map StopRec.bytes).getD zero64
  match o with
  | .tile b _ g =>
    if tileRuns (s.core c) b g then
      (s.modCore c fun k => { k with tsq := { k.tsq with held := k.tsq.held ++ [t] } }, false)
    else match (s.block c b).bind leadFibre with
      | some _ => ({ s.modBlock c b (fun k => { k with pending := k.pending ++ [{ t with since := s.pendNo }] }) with pendNo := s.pendNo + 1 }, false)
      | none => (orphanLog s ctx c 0 b 0 zero32 rec_, true)
  | .fibre b f _ =>
    if alive s c b f then (addPending s c b f t, false) else (orphanLog s ctx c f b 0 zero32 rec_, true)

/-- The head command stops at a fault (R209, R257, R289, R290). -/
def stopCmd (s : State) (c : Nat) (x : CpeCmd) (r : StopRec) (level : Nat) : State :=
  let (s, gone) := routeFault s c x.ctx x.owner (stopTrap r level)
  if gone then removeCmd s c x
  else s.modCore c fun k => { k with cpe := { x.anew with stop := some r } :: k.cpe.drop 1 }

end Sys2Proof.Machine
end

