-- ==== Sys2Proof/Machine/Chain.lean ====
section
/-!
DEFINITION. The X slot: transpose, and the contraction of a boundary with a chain of cores (R261 to R273).
-/
namespace Sys2Proof.Machine

-- SPM operands of tile slots (R229)

/-- The checks of R229 on `n` bytes at an exact offset of a handle, with alignment `al`: the SPM address, or the trap. -/
def TCtx.spmAt (q : TCtx) (hd : Nat) (off : Int) (n al : Nat) : Except TTrap Nat :=
  match q.k.handles.find? hd with
  | none => .error (tOwner hd)
  | some b =>
    if !b.valid then .error (tOwner hd)
    else if b.home ≠ q.c then .error (tBounds b.home 32)
    else if off < 0 ∨ (b.len : Int) < off + n then .error (tBounds off 33)
    else if off % (al : Int) ≠ 0 then .error (tAlign off al)
    else .ok (b.base + off.toNat)

/-- The trap of a check, if it fails. -/
def trapOf {α : Type} : Except TTrap α → Option TTrap
  | .error t => some t
  | .ok _ => none

/-- The address of an SPM check that has passed. -/
def addrOf : Except TTrap Nat → Nat
  | .error _ => 0
  | .ok a => a

-- X-slot waits (R267)

/-- Whether the XCU still has writes of earlier commands to perform. -/
def xcuBusy (k : Core) : Bool := decide (k.seqCyc < k.xcu.busyTill) || k.xcu.run.isSome

/-- The issue wait of an X-slot operation. -/
def xWait (q : TCtx) : Option Wait := if xcuBusy q.q then some .engbusy else none

/-- The XCU with changed state. -/
def TCtx.modXcu (q : TCtx) (s : State) (f : Xcu → Xcu) : State := s.modCore q.c fun k => { k with xcu := f k.xcu }

/-- The XCU status word of a stop record (R367): STATE 1, the opcode and the step. -/
def xcuStatus (op step : Nat) : BitVec 64 := BitVec.ofNat 64 (1 + 16 * (op % 16) + 65536 * (step % 256))

/-- The engine fault of an XCU that reads POISON from SPM or ACM: the command stops and makes no arrival (R99, R366, R367, R440,
log 105). -/
def xcuFault (s : State) (c ctx slot idx grant op step : Nat) : State :=
  let k := s.core c
  (routeFault (badUnit s ctx (islandOf c)) c ctx (.tile slot idx grant)
    { code := 0x03, info0 := 0xFFFF, async := true
      stop := some { engine := 3, trap := 0x03, cmdidx := BitVec.ofNat 32 idx, status := xcuStatus op step, progress := k.progress
                     spc := if tileRuns k slot grant then k.tsq.pc.setWidth 64 else 0 } }).1

/-- The parts of an X-slot command: it counts among its engine's (R223), and one that reads POISON stops. -/
def xCommand (op : Nat) (bad : TCtx → Bool) (x : SlotSem) : SlotSem :=
  { x with commit := fun q s =>
      let t := s.modCore q.c fun k => { k with tsq := k.tsq.countCmd 3 }
      if bad q then xcuFault t q.c q.k.ctx q.b (q.q.tsq.cmdCount 3) q.q.tsq.grant op 0 else x.commit q t }

-- XPOSE (R268)

/-- Lane `j` of each of the rows, for each `j`: the rows of the transposed block. -/
def transposed (w : Nat) (rows : List (BitVec 2048)) : List (BitVec 2048) :=
  (List.range rows.length).map fun j => rowOfLanes w (rows.map fun r => laneOf r w j)

/-- Rows that land together after a latency from slot `slot`. -/
def TCtx.landRows (q : TCtx) (slot lat : Nat) (dst : List Nat) (v : List (BitVec 2048)) (s : State) : State :=
  (List.zip dst v).foldl (fun s (n, x) => q.land slot lat (.row n) x.toNat s) s

/-- XPOSE (R268). -/
def semXpose (c a : BitVec 8) : SlotSem :=
  { wait := fun q _ => xWait q
    check := fun q _ =>
      let n := 2048 / fmtWidth q.q.tsq.acctype
      match runCheck q.q.tsq a.toNat n with
      | some t => some t
      | none => runCheck q.q.tsq c.toNat n
    commit := fun q s =>
      let w := fmtWidth q.q.tsq.acctype
      let n := 2048 / w
      let s := q.landRows 4 8 (runRows q.q.tsq c.toNat n) (transposed w ((runRows q.q.tsq a.toNat n).map q.q.row)) s
      q.modXcu s fun x => { x with busyTill := q.t + 8 } }

-- Step records (R265)

/-- A field of a step record. -/
def stepBits (w : BitVec 64) (hi lo : Nat) : Nat := bitsN w.toNat hi lo
/-- Physical extent n. -/
def stepN (w : BitVec 64) : Nat := stepBits w 18 10 + 1
/-- Bytes of a core element, 0 for a format that no core has (R261). -/
def coreSize (f : Nat) : Nat := if hasN [0x11, 0x12, 0x13, 0x14, 0x15, 0x00] f then fmtBytes f else 0
/-- Whether a record is an OPEN. -/
def stepOpen (w : BitVec 64) : Bool := stepBits w 1 0 = 0

/-- A boundary's shape (R264). -/
structure Shape where
  x : Nat
  p : Nat
  r : Nat
deriving DecidableEq, Repr

/-- The shape after a step (R266). -/
def Shape.after (a : Shape) (w : BitVec 64) (bd : Nat → Nat) : Shape :=
  ⟨a.x, if stepOpen w then a.p * stepN w else a.p / stepN w, bd (stepBits w 9 6)⟩

/-- The shape in the fields of INFO1 (R362); a P' above 65,535 is kept modulo 2^16 (log 103, DESIGN CHOICE). -/
def shapeInfo (x p r h : Nat) : BitVec 64 :=
  BitVec.ofNat 64 (x % 65536 + p % 65536 * 2 ^ 16 + r % 65536 * 2 ^ 32 + h % 65536 * 2 ^ 48)

/-- CHAIN_OVERFLOW (R269, R271). -/
def overflowTrap (step : BitVec 64) (a : Shape) (h : Nat) : TTrap :=
  { code := 0x0A, info0 := step, info1 := shapeInfo a.x a.p a.r h }

/-- A failed check of a step: its frame names the step in INFO1 (R271, log 82). -/
def stepTrap (i : Nat) (t : TTrap) : Option TTrap := some { t with info1 := BitVec.ofNat 64 i }

/-- Checks 2 to 6 of R271 on the record at an index of the program, before a boundary. -/
def stepCheck (q : TCtx) (i : Nat) (w : BitVec 64) (a : Shape) : Option TTrap :=
  let sz := coreSize (stepBits w 27 23)
  let bd := fun n => q.bd n
  let b := a.after w bd
  let off := stepBits w 47 29
  let hnd := stepBits w 22 19
  if 1 < stepBits w 1 0 ∨ sz = 0 ∨ stepBits w 28 28 ≠ 0 ∨ stepBits w 63 48 ≠ 0 then stepTrap i (tBounds w.toNat 256)
  else if bd (stepBits w 5 2) ≠ a.r then stepTrap i (tBounds (bd (stepBits w 5 2)) 256)
  else if !stepOpen w ∧ a.p % stepN w ≠ 0 then stepTrap i (tBounds a.p 256)
  else match q.k.handles.find? hnd with
    | none => stepTrap i (tOwner hnd)
    | some buf =>
      if !buf.valid then stepTrap i (tOwner hnd)
      else if buf.home ≠ q.c then stepTrap i (tBounds buf.home 256)
      else if buf.len < off + a.r * stepN w * b.r * sz then stepTrap i (tBounds off 256)
      else if off % sz ≠ 0 then stepTrap i (tAlign off sz)
      else if 64 * q.q.xcu.half < b.x * b.p * b.r then some (overflowTrap (BitVec.ofNat 64 i) b q.q.xcu.half)
      else none

/-- The checks of R271 on records from an index on. -/
def stepsCheck (q : TCtx) : List (BitVec 64) → Nat → Shape → Option TTrap
  | [], _, _ => none
  | w :: t, i, a => match stepCheck q i w a with
    | some e => some e
    | none => stepsCheck q t (i + 1) (a.after w fun n => q.bd n)

/-- The shape after records. -/
def stepsShape (bd : Nat → Nat) : List (BitVec 64) → Shape → Shape
  | [], a => a
  | w :: t, a => stepsShape bd t (a.after w bd)

-- Running steps (R266, R272)

/-- A core as a step of a CHSTEP reads it in the cycle in which it starts: its rows from before the writes that copy commands
have made in the cycle, and its SPM bytes from before every write of the cycle but, for the first step, those of the tile
program, which bundles before the CHSTEP have issued (R95, R272). -/
def Core.beforeWrites (k : Core) (now c : Nat) (first : Bool) : Core :=
  { k with
    acm := if k.acmNow.1 = now then k.acmNow.2.foldl (fun m p => m.set p.1 p.2) k.acm else k.acm
    spm := if k.spmNow.1 = now then
        k.spmNow.2.foldl (fun m p => m.set p.1 (afterOwn (if first then tileAgent c else 0) p.2 (k.spmGet p.1))) k.spm
      else k.spm }

/-- The FP32 code of boundary element `e` of a half. -/
def boundaryElem (k : Core) (b0 half h e : Nat) : Nat := laneOf (k.row (b0 + h * half + e / 64)) 32 (e % 64)

/-- A product's mantissa and exponent, or none where a factor is infinite or NaN. -/
def termOf (a b : Val) : Option (Int × Int) :=
  match a, b with
  | .fin s m e, .fin s' m' e' => some ((if s != s' then -((m * m' : Nat) : Int) else ((m * m' : Nat) : Int)), e + e')
  | _, _ => none

/-- The element of R266 from its factors: one rounding of the exact sum, +0 for an exact zero. -/
def contractElem (terms : List (Val × Val)) : Nat :=
  let ts := terms.map fun (a, b) => termOf a b
  if ts.any fun t => t.isNone then 0x7FC00000
  else
    let l := ts.filterMap id
    let lo := l.foldl (fun m t => if t.2 < m then t.2 else m) (l.headD (0, 0)).2
    let sum := l.foldl (fun acc t => acc + t.1 * 2 ^ (t.2 - lo).toNat) 0
    roundTo 0x11 0 false (scaledVal sum lo).toR

/-- The new boundary of a step, in flat order (R266). -/
def stepResult (k : Core) (w : BitVec 64) (base b0 half h : Nat) (a b : Shape) : List Nat :=
  let f := stepBits w 27 23
  let sz := coreSize f
  let n := stepN w
  let core (r i c : Nat) : Val := valueOf (ofBytes (k.spmBytes (base + sz * ((r * n + i) * b.r + c)) sz)) f
  let t (x p r : Nat) : Val := valueOf (boundaryElem k b0 half h ((x * a.p + p) * a.r + r)) 0x11
  (List.range (b.x * b.p * b.r)).map fun e =>
    let c := e % b.r
    let p' := e / b.r % b.p
    let x := e / b.r / b.p
    if stepOpen w then
      contractElem ((List.range a.r).map fun r => (t x (p' / n) r, core r (p' % n) c))
    else
      contractElem ((List.range (a.r * n)).map fun j => (t x (j / a.r * b.p + p') (j % a.r), core (j % a.r) (j / a.r) c))

/-- Cycles for which a step occupies the XCU (R272). -/
def stepCycles (w : BitVec 64) (a b : Shape) : Nat :=
  ceilDiv (b.x * b.p * b.r * a.r * (if stepOpen w then 1 else stepN w)) 256

/-- The writes of a step's result: whole rows, and the lanes of the last row that the boundary has (R264). -/
def resultLandings (due seq base : Nat) (l : List Nat) : List Landing :=
  (List.range (ceilDiv l.length 64)).map fun i =>
    let part := slice l (64 * i) 64
    { due := due, seq := seq, slot := 4, dst := .rowPart (base + i) 0 (32 * part.length), val := (rowOfLanes 32 part).toNat }

/-- The next step of a CHSTEP starts in this cycle (R272): it reads rows and core bytes as they were before what other agents
have written in the cycle. A slot write issued after the CHSTEP that has reached core bytes in an earlier cycle is read, of the
two values that R272 allows (log 104, DESIGN CHOICE). -/
def startStep (now c : Nat) (k : Core) (run : ChRun) : Core :=
  match run.steps, run.bufs with
  | w :: ws, buf :: bs =>
    let a : Shape := ⟨run.x, run.p, run.r⟩
    let b := a.after w fun n => run.bds.get n 1
    let e := k.seqCyc + stepCycles w a b + 4
    let out := stepResult (k.beforeWrites now c (run.done = 0)) w (buf.base + stepBits w 47 29) run.b0 run.half run.h a b
    { k with
      landings := k.landings ++ resultLandings e run.seq (run.b0 + (1 - run.h) * run.half) out
      xcu := { k.xcu with run := some { run with
        steps := ws, bufs := bs, h := 1 - run.h, x := b.x, p := b.p, r := b.r, ends := e, done := run.done + 1 } } }
  | _, _ => k

/-- Whether the step that a CHSTEP is to start would read POISON, from its core bytes or its source half (R99, R440). -/
def stepPoison (k : Core) (run : ChRun) : Bool :=
  match run.steps, run.bufs with
  | w :: _, buf :: _ =>
    let b := (Shape.after ⟨run.x, run.p, run.r⟩ w) fun n => run.bds.get n 1
    unitBad k.spmBad (buf.base + stepBits w 47 29) (run.r * stepN w * b.r * coreSize (stepBits w 27 23)) ||
      (List.range (ceilDiv (run.x * run.p * run.r) 64)).any fun i => k.rowBad (run.b0 + run.h * run.half + i)
  | _, _ => false

/-- A CHSTEP's next step starts, or the CHSTEP stops at POISON. -/
def beginStep (s : State) (c : Nat) (run : ChRun) : State :=
  if stepPoison (s.core c) run then
    xcuFault (s.modCore c fun k => { k with xcu := { k.xcu with run := none } }) c run.ctx run.slot run.idx run.grant 4 (run.first + run.done)
  else s.modCore c fun k => startStep s.cycle c k run

/-- CHSTEP_STEP (R272): the running step's writes have been performed; the next step starts, or the CHSTEP is over and
arrives on its barrier. -/
def execChstepStep (core : Nat) (s : State) : Out :=
  let k := s.core core
  match k.xcu.run with
  | none => .next s
  | some run =>
    if k.seqCyc < run.ends then .next s
    else if !run.steps.isEmpty then .next (beginStep s core run)
    else
      let s := s.setCore core { k with xcu := { k.xcu with run := none } }
      match run.bar with
      | some n => .next (arriveBar s core n)
      | none => .next s

-- CHAIN, CHORD, CHSTEP, CHEND

/-- CHAIN (R269). -/
def semChain (ka kb : BitVec 5) (n : BitVec 4) : SlotSem :=
  { wait := fun q _ => xWait q
    check := fun q _ =>
      let a := (q.kReg ka.toNat).toNat
      let b := (q.kReg kb.toNat).toNat
      let h := bitsN a 18 10 + 1
      let sh : Shape := ⟨b % 65536, bitsN b 31 16, q.bd n.toNat⟩
      if q.q.tsq.acctype ≠ 0x11 then some (tBounds q.q.tsq.acctype 18)
      else if a / 2 ^ 19 ≠ 0 ∨ 1024 < a % 1024 + 2 * h then some (tBounds a 34)
      else if b / 2 ^ 32 ≠ 0 ∨ sh.x = 0 ∨ sh.p = 0 then some (tBounds b 35)
      else if 64 * h < sh.x * sh.p * sh.r then some (overflowTrap 0xFFFFFFFFFFFFFFFF sh h)
      else none
    commit := fun q s =>
      let a := (q.kReg ka.toNat).toNat
      let b := (q.kReg kb.toNat).toNat
      q.modXcu s fun x => { x with
        open_ := true, b0 := a % 1024, half := bitsN a 18 10 + 1, h := 0, x := b % 65536, p := bitsN b 31 16
        r := q.bd n.toNat, ptr := 0 } }

/-- CHORD (R270). -/
def semChord (ka : BitVec 5) (hd : BitVec 4) (cnt : BitVec 6) : SlotSem :=
  { wait := fun q _ => xWait q
    check := fun q _ => trapOf (q.spmAt hd.toNat (q.kReg ka.toNat).toNat (8 * (cnt.toNat + 1)) 8)
    commit := fun q s =>
      let n := cnt.toNat + 1
      let a := addrOf (q.spmAt hd.toNat (q.kReg ka.toNat).toNat (8 * n) 8)
      q.modXcu (q.spmRead 4 a (8 * n) false (.prog n) s) fun x => { x with busyTill := q.t + 6 } }

/-- The records that a CHSTEP runs. -/
def TCtx.chRecords (q : TCtx) (n : Nat) : List (BitVec 64) := slice q.q.xcu.prog q.q.xcu.ptr n

/-- CHSTEP (R271, R272). -/
def semChstep (cnt : BitVec 6) (b : BitVec 4) (bae : BitVec 1) : SlotSem :=
  { wait := fun q _ => xWait q
    check := fun q _ =>
      let x := q.q.xcu
      let n := cnt.toNat + 1
      if !x.open_ then some (tBounds 0 36)
      else if x.prog.length < x.ptr + n then some (tBounds (x.ptr + n : Nat) 36)
      else if bae = 1 ∧ q.k.barOf b.toNat = none then some (tBounds b.toNat 2)
      else stepsCheck q (q.chRecords n) x.ptr ⟨x.x, x.p, x.r⟩
    commit := fun q s =>
      let x := q.q.xcu
      let n := cnt.toNat + 1
      let l := q.chRecords n
      let run : ChRun :=
        { steps := l, bufs := l.filterMap (fun w => q.k.handles.find? (stepBits w 22 19)), bds := q.q.tsq.bd, b0 := x.b0,
          half := x.half, h := x.h, x := x.x, p := x.p, r := x.r, bar := if bae = 1 then q.k.barOf b.toNat else none,
          slot := q.b, seq := q.q.issueNo, ctx := q.k.ctx, idx := q.q.tsq.cmdCount 3, grant := q.q.tsq.grant, first := x.ptr }
      let sh := stepsShape (fun i => q.bd i) l ⟨x.x, x.p, x.r⟩
      let s := q.modXcu s fun x => { x with ptr := x.ptr + n, h := (x.h + n) % 2, x := sh.x, p := sh.p, r := sh.r }
      beginStep s q.c run }

/-- CHEND (R273). -/
def semChend (kd : BitVec 5) : SlotSem :=
  { wait := fun q _ => xWait q
    check := fun q _ => if q.q.xcu.open_ then none else some (tBounds 0 36)
    commit := fun q s =>
      let x := q.q.xcu
      let v := (x.b0 + x.h * x.half) % 1024 + x.p % 65536 * 2 ^ 16 + x.r % 65536 * 2 ^ 32 + x.x % 65536 * 2 ^ 48
      q.modXcu (q.land 4 1 (.k kd.toNat) v s) fun x => { x with open_ := false } }

/-- The parts of XPOSE. -/
def xpose (c a : BitVec 8) : SlotSem :=
  xCommand 1 (fun q => (runRows q.q.tsq a.toNat (2048 / fmtWidth q.q.tsq.acctype)).any q.q.rowBad) (semXpose c a)

/-- The parts of CHORD. -/
def chord (ka : BitVec 5) (hd : BitVec 4) (cnt : BitVec 6) : SlotSem :=
  let n := 8 * (cnt.toNat + 1)
  xCommand 3 (fun q => unitBad q.q.spmBad (addrOf (q.spmAt hd.toNat (q.kReg ka.toNat).toNat n 8)) n) (semChord ka hd cnt)

/-- The parts of an X-slot operation. -/
def xSem : XOp → SlotSem
  | .xnop _ => {}
  | .xpose _ c a => xpose c a
  | .chain _ ka kb n => xCommand 2 (fun _ => false) (semChain ka kb n)
  | .chord _ ka hd cnt => chord ka hd cnt
  | .chstep _ cnt b bae => xCommand 4 (fun _ => false) (semChstep cnt b bae)
  | .chend _ kd => xCommand 5 (fun _ => false) (semChend kd)

/-- XNOP (R267). -/
def execXnop (g : SGuard) (s : State) : Out := slotExec g {} s
/-- XPOSE (R268). -/
def execXpose (g : SGuard) (c a : BitVec 8) (s : State) : Out := slotExec g (xSem (.xpose g c a)) s
/-- CHAIN (R269). -/
def execChain (g : SGuard) (ka kb : BitVec 5) (n : BitVec 4) (s : State) : Out := slotExec g (xSem (.chain g ka kb n)) s
/-- CHORD (R270). -/
def execChord (g : SGuard) (ka : BitVec 5) (hd : BitVec 4) (cnt : BitVec 6) (s : State) : Out :=
  slotExec g (xSem (.chord g ka hd cnt)) s
/-- CHSTEP (R271, R272). -/
def execChstep (g : SGuard) (cnt : BitVec 6) (b : BitVec 4) (bae : BitVec 1) (s : State) : Out :=
  slotExec g (xSem (.chstep g cnt b bae)) s
/-- CHEND (R273). -/
def execChend (g : SGuard) (kd : BitVec 5) (s : State) : Out := slotExec g (xSem (.chend g kd)) s

end Sys2Proof.Machine
end

