-- ==== Sys2Proof/Machine/TileM.lean ====
section
/-!
DEFINITION. The M slot: issue of matrix commands (R246 to R251), the start of attached operations (R252), and a BLOADQ's
queue entries (R247).
-/
namespace Sys2Proof.Machine

/-- A matrix command of the issuing bundle. -/
def TCtx.mJob (q : TCtx) (r : MReq) : MxeJob :=
  { newJob q.q q.q.tsq q.k.ctx r with
    slot := q.b, idx := q.q.tsq.cmdCount 1, grant := q.q.tsq.grant, seq := q.q.issueNo }

/-- The parts of an M-slot operation by its fields. -/
def mReqSem (r : MReq) : SlotSem :=
  { wait := fun q _ => mxeWait q.q q.k.ctx r
    check := fun q _ => mxeCheck q.q q.q.tsq q.k.ctx r
    commit := fun q s => s.modCore q.c fun k => startJob { k with tsq := k.tsq.countCmd 1 } (q.mJob r) }

/-- The fields of an M-slot operation in a bundle whose V slot takes entries of queue `pop` (R249, log 77). -/
def mReqAfter (pop : Option Nat) (o : MOp) : MReq :=
  let r := mReq o
  { r with pops := if pop = some r.queue then 1 else 0 }

/-- The parts of an M-slot operation. -/
def mSem : MOp → SlotSem
  | .mnop _ => {}
  | o => mReqSem (mReq o)

-- Attached operations (R43, R203, R252)

/-- The sequencer state by which an attached operation runs: what its fields read as it was queued (R203), with the state of
its start cycle for the rest (R252). -/
def AttOp.state (a : AttOp) (t : Tsq) : Tsq := { t with vbase := a.vbase, vrot := a.vrot, ad := a.ad, k := a.k }

/-- ATTACHED_OP_START (R252): the oldest queued operation starts once the MXE can start it and no repeat runs; a failure of
R249's checks at its start is an engine fault. -/
def execAttachedOpStart (core : Nat) (s : State) : Out :=
  let k := s.core core
  match k.mxe.queue with
  | [] => .next s
  | a :: rest =>
    match Decode.decodeM a.m, s.block core a.slot with
    | .ok o, some blk =>
      let r := mReq o
      let t := a.state k.tsq
      let j := { newJob k t blk.ctx r with slot := a.slot, seq := k.issueNo, att := some a.fib, grant := k.tsq.grant }
      if k.repeating ∨ !canStart k j ∨ (r.op = 2 ∧ !entriesReady k blk.ctx r) then .next s
      else
        let k' := { k with mxe := { k.mxe with queue := rest } }
        match mxeCheck k t blk.ctx r with
        | some e => .next (attFault (s.setCore core k') core a.slot a.fib blk.ctx r.op e)
        | none => .next (s.setCore core (startJob { k' with issueNo := k.issueNo + 1 } j))
    | _, _ => .next (s.setCore core { k with mxe := { k.mxe with queue := rest } })

-- BLOADQ (R247)

/-- The load that takes queue entries. -/
def loadJob (k : Core) : Option MxeJob := k.mxe.jobs.find? fun j => decide (j.op = 4) && j.fin.isNone

/-- A command under way replaced. -/
def setJob (k : Core) (j : MxeJob) : Core :=
  { k with mxe := { k.mxe with jobs := k.mxe.jobs.map fun x => if x.seq = j.seq ∧ x.op = j.op then j else x } }

/-- A command under way removed. -/
def dropJob (k : Core) (j : MxeJob) : Core :=
  { k with mxe := { k.mxe with jobs := k.mxe.jobs.filter fun x => ¬ (x.seq = j.seq ∧ x.op = j.op) } }

/-- A load that has its next row: the last row fixes the cycle of completion. -/
def MxeJob.addRow (j : MxeJob) (r : BitVec 2048) (now : Nat) : MxeJob :=
  let j := { j with data := j.data ++ [r] }
  if sourceRows j.fmt j.mx ≤ j.data.length then { j with fin := some (now + 6) } else j

/-- The engine fault of a BLOADQ that met POISON (R247, R366, R446). -/
def bloadqStop (k : Core) (j : MxeJob) (t : TTrap) : Trap :=
  { code := 0x0B, info0 := t.info0, info1 := t.info1, async := true
    stop := some { engine := 1, trap := 0x0B, cmdidx := BitVec.ofNat 32 j.idx, status := mxeStatus 4 j.data.length, progress := k.progress
                   spc := if tileRuns k j.slot j.grant then k.tsq.pc.setWidth 64 else 0 } }

/-- Where a matrix engine fault goes: to the fibre of an attached operation, else as R446 says. -/
def routeMxe (s : State) (c : Nat) (j : MxeJob) (t : Trap) : State :=
  match j.att with
  | some f =>
    if alive s c j.slot f then
      addPending s.draw c j.slot f { t with stop := t.stop.map fun r => { r with cmdidx := Config.attIndex s.free } }
    else orphanLog s j.ctx c f j.slot 0 zero32 ((t.stop.map StopRec.bytes).getD zero64)
  | none => (routeFault s c j.ctx (.tile j.slot j.idx j.grant) t).1

/-- BLOADQ_ROW_POP (R247): the MXE takes the entry of the next source row; EOS loads the rest as zero, POISON stops the
load. -/
def execBloadqRowPop (core : Nat) (s : State) : Out :=
  let k := s.core core
  match loadJob k with
  | none => .next s
  | some j =>
    match k.queue j.queue with
    | { data := e :: rest, term } =>
      .next (s.setCore core (setJob { k with queues := k.queues.set j.queue { data := rest, term := term } }
        (j.addRow (rowOfBytes e) k.seqCyc)))
    | { data := [], term := some (.eos, _) } =>
      let n := sourceRows j.fmt j.mx - j.data.length
      .next (s.setCore core (setJob k { j with data := j.data ++ List.replicate n 0, fin := some (k.seqCyc + 6) }))
    | { data := [], term := some (_, p) } =>
      .next (routeMxe (s.setCore core (dropJob k j)) core j (bloadqStop k j (streamTrap j.queue p)))
    | { data := [], term := none } => .next s

/-- The first of the rows that an M operation reads that holds an uncorrectable error (R440): accumulated rows count with the
sources. -/
def badRow (k : Core) (j : MxeJob) : Option Nat := (j.aRows ++ j.cRows).findIdx? k.rowBad

/-- The M operation under way whose weights, or the rows that it reads, hold an uncorrectable error (R99, R440). -/
def badJob (k : Core) : Option MxeJob := k.mxe.jobs.find? fun j => j.tile.any (·.bad) || (j.op ≠ 5 && (badRow k j).isSome)

/-- The engine fault of an operation that meets such an error: it stops with POISON_READ, and a record of bad weights leaves the
weight array (R440, log 105). -/
def weightStop (s : State) (core : Nat) (j : MxeJob) : State :=
  let k := s.core core
  let s := badUnit s j.ctx (islandOf core)
  routeMxe (s.setCore core (dropJob (if j.tile.any (·.bad) then dropTiles k j.unit ((j.tile.map (·.width)).getD 1) else k) j)) core j
    { code := 0x03, info0 := 0xFFFF, async := true
      stop := some { engine := 1, trap := 0x03, cmdidx := BitVec.ofNat 32 j.idx, status := mxeStatus j.op ((badRow k j).getD j.data.length), progress := k.progress
                     spc := if tileRuns k j.slot j.grant then k.tsq.pc.setWidth 64 else 0 } }

/-- LATENCY_WRITE_LANDING (R221, R222): a new sequencer cycle of a core; fixed-latency results land and the matrix engine
advances. -/
def execLatencyWriteLanding (core : Nat) (s : State) : Out :=
  let t := s.setCore core (mxeCycle (landCycle s.cycle core (s.core core)))
  match badJob (t.core core) with
  | some j => .next (weightStop t core j)
  | none => .next t

-- The operations alone in a bundle

/-- MNOP (R143). -/
def execMnop (g : SGuard) (s : State) : Out := slotExec g (mSem (.mnop g)) s
/-- MMA (R249). -/
def execMma (g : SGuard) (c a : BitVec 8) (unit : BitVec 7) (rows : BitVec 4) (af : BitVec 5) (corr sat : BitVec 1) (cpk : BitVec 5)
    (s : State) : Out :=
  slotExec g (mSem (.mma g c a unit rows af corr sat cpk)) s
/-- MMAQ (R249). -/
def execMmaq (g : SGuard) (c : BitVec 8) (q : BitVec 3) (unit : BitVec 7) (rows : BitVec 4) (af : BitVec 5) (corr sat : BitVec 1) (cpk : BitVec 5)
    (s : State) : Out :=
  slotExec g (mSem (.mmaq g c q unit rows af corr sat cpk)) s
/-- BLOAD (R247). -/
def execBload (g : SGuard) (unit : BitVec 7) (src : BitVec 8) (bf : BitVec 5) (corr mx : BitVec 1)
    (s : State) : Out :=
  slotExec g (mSem (.bload g unit src bf corr mx)) s
/-- BLOADQ (R247). -/
def execBloadq (g : SGuard) (unit : BitVec 7) (q : BitVec 3) (bf : BitVec 5) (corr mx : BitVec 1)
    (s : State) : Out :=
  slotExec g (mSem (.bloadq g unit q bf corr mx)) s
/-- MCLR (R251). -/
def execMclr (g : SGuard) (c : BitVec 8) (cnt : BitVec 6) (w : BitVec 1)
    (s : State) : Out :=
  slotExec g (mSem (.mclr g c cnt w)) s

end Sys2Proof.Machine
end

