-- ==== Sys2Proof/Machine/TileC.lean ====
section
/-!
DEFINITION. The C slot: issue of copy-engine commands (R255 to R259), and what becomes of them (R209, R257, R289, R101).
-/
namespace Sys2Proof.Machine

/-- The fields of a C-slot copy (R255): the operation code of R288. -/
structure CReq where
  op : Nat
  pm : Bool
  ds : BitVec 5
  dd : BitVec 5
  ada : BitVec 4
  sae : BitVec 1
  adb : BitVec 4
  dae : BitVec 1
  bar : BitVec 4
  bae : BitVec 1
  kp : BitVec 5
  pt : BitVec 1
  fac : BitVec 8

/-- The source offset. -/
def CReq.so (r : CReq) (q : TCtx) : Nat := if r.sae = 1 then q.ad r.ada.toNat else 0
/-- The destination offset. -/
def CReq.dof (r : CReq) (q : TCtx) : Nat := if r.dae = 1 then q.ad r.adb.toNat else 0

/-- Step 6 of R256. -/
def cBar (q : TCtx) (bar : BitVec 4) (bae : BitVec 1) : Option TTrap := if bae = 1 then barCheck' q bar else none
where
  /-- The check of a barrier name. -/
  barCheck' (q : TCtx) (b : BitVec 4) : Option TTrap :=
    if (q.k.barOf b.toNat).isSome then none else some (tBounds b.toNat 2)

/-- The core barrier that a C-slot command names. -/
def cBarOf (q : TCtx) (bar : BitVec 4) (bae : BitVec 1) : Option Nat := if bae = 1 then q.k.barOf bar.toNat else none

/-- The checks of R256 and R258. -/
def CReq.check (r : CReq) (q : TCtx) : Option TTrap :=
  let src := q.desc r.ds.toNat
  let dst := q.desc r.dd.toNat
  match copyCheck q.k r.op r.pm src dst (r.so q) (r.dof q) r.fac.toNat with
  | some t => some t
  | none => match cBar q r.bar r.bae with
    | some t => some t
    | none => match netslotCheck q.q q.c (descBuf q.k src) with
      | some t => some t
      | none => netslotCheck q.q q.c (descBuf q.k dst)

/-- A command of the issuing bundle enters the queue, and its promise goes to kP (R257). -/
def TCtx.queueCmd (q : TCtx) (kp : BitVec 5) (x : CpeCmd) (s : State) : State :=
  let p := newPromise s
  let x := { x with owner := .tile q.b (q.q.tsq.cmdCount 2) q.q.tsq.grant, ctx := q.k.ctx, promise := p }
  let s := enqueueCmd s.draw q.c x
  let s := s.modCore q.c fun k => { k with tsq := k.tsq.countCmd 2 }
  if kp = 0 then s else q.land 3 4 (.k kp.toNat) (p % 2 ^ 64) s

/-- COPY, COPYP, CPACK and CUNPK (R255 to R258). -/
def cCopy (r : CReq) : SlotSem :=
  { wait := fun q _ => if cpeFree q.q then none else some .engbusy
    check := fun q _ => r.check q
    commit := fun q s =>
      let src := q.desc r.ds.toNat
      let dst := q.desc r.dd.toNat
      q.queueCmd r.kp
        { op := r.op, pm := r.pm, src := src, dst := dst, srcOff := r.so q, dstOff := r.dof q, srcBuf := descBuf q.k src,
          dstBuf := descBuf q.k dst, factor := r.fac.toNat, bar := cBarOf q r.bar r.bae, pt := r.pt = 1 } s }

/-- PUB (R259). -/
def cPub (ka kb : BitVec 5) (bar : BitVec 4) (bae : BitVec 1) (kp : BitVec 5) (pt : BitVec 1) : SlotSem :=
  { wait := fun q _ => if cpeFree q.q then none else some .engbusy
    check := fun q _ =>
      let base := (q.kReg ka.toNat).toNat
      if (q.kReg kb.toNat).toNat % 2 ^ 32 = 0 then some (tBounds 0 43)
      else if 2 ^ 56 ≤ base then some { code := 0x04, addr := BitVec.ofNat 64 base, info0 := 256 }
      else if base % 4096 ≠ 0 then some (tAlign base 4096)
      else cBar q bar bae
    commit := fun q s =>
      q.queueCmd kp
        { op := 5, bar := cBarOf q bar bae, pt := pt = 1,
          pub := some ((q.kReg ka.toNat).toNat, (q.kReg kb.toNat).toNat % 2 ^ 32) } s }

/-- The parts of a C-slot operation. -/
def cSem : COp → SlotSem
  | .cnop _ => {}
  | .copy _ ds dd ada sae adb dae bar bae kp pt => cCopy ⟨1, false, ds, dd, ada, sae, adb, dae, bar, bae, kp, pt, 0⟩
  | .copyp _ ds dd ada sae adb dae bar bae kp pt => cCopy ⟨1, true, ds, dd, ada, sae, adb, dae, bar, bae, kp, pt, 0⟩
  | .cpack _ ds dd ada sae adb dae bar bae kp pt fac => cCopy ⟨3, false, ds, dd, ada, sae, adb, dae, bar, bae, kp, pt, fac⟩
  | .cunpk _ ds dd ada sae adb dae bar bae kp pt fac => cCopy ⟨4, false, ds, dd, ada, sae, adb, dae, bar, bae, kp, pt, fac⟩
  | .pub _ ka kb bar bae kp pt => cPub ka kb bar bae kp pt

-- Commands under way

/-- The fault of a command's next iteration, if it has one. -/
def CpeCmd.fault (s : State) (c : Nat) (x : CpeCmd) : Option (StopRec × Nat) :=
  match x.pub with
  | some (base, len) => (publishFault s x.ctx (pagesOf base len)).map fun (e, va) =>
      (cmdStop (s.core c) x (.page e va true) 0, e.level)
  | none => (copyFault s c x).map fun (f, i) =>
      (cmdStop (s.core c) x f i, match f with
        | .page e _ _ => e.level
        | .notShadow _ level => level
        | .poison _ => 0)

/-- A command has completed: it leaves the queue, then arrives on its barrier (R42, R257). -/
def completeCmd (s : State) (c : Nat) (x : CpeCmd) : State := cmdArrive (popCmd s c) c x

/-- The head command of a core's copy engine, when it may be carried out. -/
def headCmd (s : State) (c : Nat) : Option CpeCmd :=
  match (s.core c).cpe with
  | x :: _ => if cmdReady s c x then some x else none
  | [] => none

/-- The pages that a command touches. -/
def CpeCmd.pages (x : CpeCmd) : List Nat :=
  match x.pub with
  | some (base, len) => pagesOf base len
  | none => sidePages x 0 ++ sidePages x 1

/-- The pages of a command whose walks are still to be asked for or to end (R385). -/
def pagesDue (s : State) (c : Nat) (x : CpeCmd) : List Nat :=
  x.pages.filter fun p => (tlbFind s x.ctx p).isNone && (!hasN x.walked p || s.walks.any fun w => w = (dieOf c, x.ctx, p))

/-- The head command asks for the walks of pages (R385). -/
def askPages (s : State) (c : Nat) (x : CpeCmd) (l : List Nat) : State :=
  l.foldl (fun s p => askWalk s (dieOf c) x.ctx p) (modHead s c fun y => { y with walked := l ++ y.walked })

/-- Whether a slice of the lines of a command refuses requests in this cycle (R437). -/
def CpeCmd.shut (x : CpeCmd) (s : State) (c : Nat) : Bool :=
  (sideLines s x 0 ++ sideLines s x 1).any fun p => sliceShut s (dieOf c) (128 * p.2)

/-- CPE_COMMAND_COMPLETE (R96, R209, R257): every element of a copy has been read and written. A command at the head begins by
the walks of its pages (R385), then it asks for its lines; it completes once they have come and its beats are over (R73, R301).
Neither falls in a cycle in which a slice of its lines refuses requests (R437). -/
def execCpeCommandComplete (core : Nat) (s : State) : Out :=
  match headCmd s core with
  | some x =>
    if x.pub.isSome then .next s
    else if !(pagesDue s core x).isEmpty then .next (askPages s core x (pagesDue s core x))
    else if (x.fault s core).isSome || x.shut s core then .next s
    else if !x.asked then .next (askLines s core x)
    else if !x.served (s.cycle / 2) then .next s
    else .next (completeCmd (doMoves core x x.total 0 s) core x)
  | none => .next s

/-- The error-ring entry of a copy that has met an uncorrectable error (R440, R441). -/
def badCopy (s : State) (c : Nat) (x : CpeCmd) : State :=
  match copyFault s c x with
  | some (.poison a, _) => match descSpace x.src with
    | 0 => badVirt s x.ctx a (descSize x.src)
    | 1 => badUnit s x.ctx (islandOf ((x.srcBuf.map (·.home)).getD c))
    | _ => badUnit s x.ctx (islandOf c)
  | _ => s

/-- CPE_COMMAND_FAULT (R257, R288 to R290): the command stops at its first fault, once the walks of its pages are over (R385);
which other elements have been copied is left open. -/
def execCpeCommandFault (core : Nat) (s : State) : Out :=
  match headCmd s core with
  | some x =>
    if !(pagesDue s core x).isEmpty then .next s
    else match x.fault s core with
    | some (r, level) => .next (stopCmd (doSome core x s.free x.total 0 (badCopy s core x)).draw core x r level)
    | none => .next s
  | none => .next s

/-- PUBLISH_POINT (R101, R259): a PUB at the head of the queue, with no publish-mode command into its set outstanding, once the
walks of its pages are over (R385). -/
def execPublishPoint (core : Nat) (s : State) : Out :=
  match headCmd s core with
  | some x =>
    match x.pub with
    | some (base, len) =>
      if !(pagesDue s core x).isEmpty then .next (askPages s core x (pagesDue s core x))
      else if (x.fault s core).isSome then .next s
      else .next (completeCmd (publishAll s x.ctx (pagesOf base len)) core x)
    | none => .next s
  | none => .next s

/-- PROMISE_MISSED of a command (R209, R257, R362). -/
def missedTrap (x : CpeCmd) : Trap :=
  { code := 0x0C, info0 := BitVec.ofNat 64 x.promise, info1 := BitVec.ofNat 64 x.owner.idx, async := true }

/-- PROMISE_EXPIRY (R209, R257, R356): %cycle has passed the promise of an incomplete command that asked for it. -/
def execPromiseExpiry (core id : Nat) (s : State) : Out :=
  match List.find? (fun (x : CpeCmd) => x.id = id) (s.core core).cpe with
  | some x =>
    if !x.pt || x.missed || decide (s.cycle ≤ x.promise) then .next s
    else
      let s := s.modCore core fun k => { k with cpe := k.cpe.map fun y => if y.id = id then { y with missed := true } else y }
      match x.owner with
      | .tile b _ g =>
        if tileRuns (s.core core) b g then
          .next (s.modCore core fun k => { k with tsq := { k.tsq with held := k.tsq.held ++ [missedTrap x] } })
        else .next s
      | .fibre b f _ => if alive s core b f then .next (addPending s core b f (missedTrap x)) else .next s
  | none => .next s

-- The operations alone in a bundle

/-- CNOP (R143). -/
def execCnop (g : SGuard) (s : State) : Out := slotExec g (cSem (.cnop g)) s
/-- COPY (R257). -/
def execCopy (g : SGuard) (ds dd : BitVec 5) (ada : BitVec 4) (sae : BitVec 1) (adb : BitVec 4) (dae : BitVec 1) (bar : BitVec 4) (bae : BitVec 1) (kp : BitVec 5) (pt : BitVec 1)
    (s : State) : Out :=
  slotExec g (cSem (.copy g ds dd ada sae adb dae bar bae kp pt)) s
/-- COPYP (R257). -/
def execCopyp (g : SGuard) (ds dd : BitVec 5) (ada : BitVec 4) (sae : BitVec 1) (adb : BitVec 4) (dae : BitVec 1) (bar : BitVec 4) (bae : BitVec 1) (kp : BitVec 5) (pt : BitVec 1)
    (s : State) : Out :=
  slotExec g (cSem (.copyp g ds dd ada sae adb dae bar bae kp pt)) s
/-- CPACK (R258). -/
def execCpack (g : SGuard) (ds dd : BitVec 5) (ada : BitVec 4) (sae : BitVec 1) (adb : BitVec 4) (dae : BitVec 1) (bar : BitVec 4) (bae : BitVec 1) (kp : BitVec 5) (pt : BitVec 1) (fac : BitVec 8)
    (s : State) : Out :=
  slotExec g (cSem (.cpack g ds dd ada sae adb dae bar bae kp pt fac)) s
/-- CUNPK (R258). -/
def execCunpk (g : SGuard) (ds dd : BitVec 5) (ada : BitVec 4) (sae : BitVec 1) (adb : BitVec 4) (dae : BitVec 1) (bar : BitVec 4) (bae : BitVec 1) (kp : BitVec 5) (pt : BitVec 1) (fac : BitVec 8)
    (s : State) : Out :=
  slotExec g (cSem (.cunpk g ds dd ada sae adb dae bar bae kp pt fac)) s
/-- PUB (R259). -/
def execPub (g : SGuard) (ka kb : BitVec 5) (bar : BitVec 4) (bae : BitVec 1) (kp : BitVec 5) (pt : BitVec 1)
    (s : State) : Out :=
  slotExec g (cSem (.pub g ka kb bar bae kp pt)) s

end Sys2Proof.Machine
end

