-- ==== Sys2Proof/Machine/FibreControl.lean ====
section
/-!
DEFINITION. Fibre set: control transfer with its signature and trace (R173, R174, R435), the system instructions that
touch the fibre alone (R186, R211 to R216, R141), and special registers (R134, R365).
-/
namespace Sys2Proof.Machine

/-- The signature with a target folded in (R173). -/
def foldSig (sig : BitVec 64) (t : VAddr) : BitVec 64 := rotl7 sig ^^^ t.setWidth 64

/-- A branch-trace entry of a traced block (R435); the entry that fills the buffer sets its byte 8, and a full buffer takes none. -/
def traceEntry (s : State) (q : FCtx) (t : VAddr) : State :=
  match q.k.trace with
  | none => s
  | some (base, logn) =>
    let n := ofBytes ((physRead s q.k.ctx base 8).getD [])
    if 2 ^ logn ≤ n then s
    else
      let e := toBytes 8 q.x.pc.toNat ++ toBytes 8 t.toNat ++ toBytes 8 s.cycle ++ toBytes 2 q.c ++ toBytes 2 q.b ++
        toBytes 2 q.f ++ toBytes 2 0
      let full := if n + 1 = 2 ^ logn then [1] else []
      physWrite (physWrite s q.k.ctx q.k.ctx (base + 64 + 32 * n) e) q.k.ctx q.k.ctx base (toBytes 8 (n + 1) ++ full)

/-- A taken transfer to `t` with the link written to pair `d` (R173). At pc = 2^56 - 8 the link and the fall-through wrap to 0
(no rule says: log 101, DESIGN CHOICE). -/
def FCtx.transfer (q : FCtx) (s : State) (d : Nat) (t : VAddr) : State :=
  let y := (q.x.setPair q.k.win d ((q.x.pc + 8).setWidth 64)).issued s.cycle
  traceEntry (s.setFibre q.c q.b q.f { y with pc := t, sig := foldSig q.x.sig t }) q t

/-- The target of a relative transfer: words of 8 bytes from the instruction's own address (R137, R173). -/
def relTarget (pc : VAddr) (off : BitVec 32) : VAddr := pc + (off.signExtend 56 <<< 3)

/-- The checks of an absolute target (R173, R174), then the transfer. -/
def FCtx.transferTo (q : FCtx) (s : State) (d : Nat) (t : DWord) : State :=
  if 2 ^ 56 ≤ t.toNat then q.pageFault s ⟨0, 0⟩ 3 t.toNat
  else if t.toNat % 8 ≠ 0 then q.align s t.toNat 8
  else q.transfer s d (t.setWidth 56)

/-- BRA (R173). -/
def execBra (f : FHdr) (off : BitVec 32) (s : State) : Out :=
  fibreExec f { act := fun q s => q.transfer s 0 (relTarget q.x.pc off) } s
/-- BRX (R173). -/
def execBrx (f : FHdr) (sa : BitVec 8) (s : State) : Out :=
  fibreExec f { srcs := [srcA sa 2], act := fun q s => q.transferTo s 0 (q.gg sa) } s
/-- CALL (R173). -/
def execCall (f : FHdr) (d : BitVec 8) (off : BitVec 32) (s : State) : Out :=
  fibreExec f { dsts := [(d.toNat, 2)], act := fun q s => q.transfer s d.toNat (relTarget q.x.pc off) } s
/-- CALLX (R173). -/
def execCallx (f : FHdr) (d sa : BitVec 8) (s : State) : Out :=
  fibreExec f { srcs := [srcA sa 2], dsts := [(d.toNat, 2)], act := fun q s => q.transferTo s d.toNat (q.gg sa) } s
/-- RET (R173). -/
def execRet (f : FHdr) (sa : BitVec 8) (s : State) : Out :=
  fibreExec f { srcs := [srcA sa 2], act := fun q s => q.transferTo s 0 (q.gg sa) } s

/-- NOP (R213). -/
def execNop (f : FHdr) (s : State) : Out := fibreExec f { act := fun q s => q.retire s q.x } s

/-- TRAP (R214): USER_TRAP with return PC pc + 8. -/
def execTrap (f : FHdr) (imm : BitVec 24) (s : State) : Out :=
  fibreExec f { act := fun q s => q.trapAt s 0x0D 0 (imm.setWidth 64) 0 true } s

/-- Whether the monitor has enabled breakpoints for a context in a cluster (R215, R405). -/
def bkptOn (s : State) (cl ctx : Nat) : Bool :=
  decide (devBits s (offDbg cl 0) 0 0 = 1) && decide (devBits s (offDbg cl 0) 6 1 = ctx) && decide (devBits s (offDbg cl 0) 7 7 = 1)

/-- BKPT (R215, R361): stops the fibre for the monitor and raises a notice, or acts as NOP. -/
def execBkpt (f : FHdr) (imm : BitVec 24) (s : State) : Out :=
  fibreExec f ({
    act := fun q s =>
      if bkptOn s (clusterOf q.c) q.k.ctx then q.trapAt s 0x0E 0 (imm.setWidth 64) 0 true else q.retire s q.x }) s

/-- SLEEP (R186). -/
def execSleep (f : FHdr) (sa : BitVec 8) (s : State) : Out :=
  fibreExec f ({
    srcs := [srcA sa 2]
    act := fun q s =>
      if (q.gg sa).toNat ≤ s.cycle then q.retire s q.x else q.wait s (.sleep (q.gg sa).toNat) }) s

/-- RDCYC (R212). -/
def execRdcyc (f : FHdr) (d : BitVec 8) (s : State) : Out :=
  fibreExec f { dsts := [(d.toNat, 2)], act := fun q s => q.putPair s d.toNat (BitVec.ofNat 64 s.cycle) 4 } s

/-- RDCYCL (R141): the low half of %cycle; its latency is that of RDCYC. -/
def execRdcycl (f : FHdr) (d : BitVec 8) (s : State) : Out :=
  fibreExec f { dsts := [(d.toNat, 1)], act := fun q s => q.putReg s d.toNat (BitVec.ofNat 32 s.cycle) 4 } s

/-- Bytes of the current frame, as a trap-state register reads them, the fibre's own stores among them (R365): 0 outside a
handler. -/
def frameWord (s : State) (q : FCtx) (off n : Nat) : DWord :=
  if q.x.depth = 0 then 0 else
  match translate s q.k.ctx 0 (q.x.frame.toNat + off) with
  | .ok t => match physRead s t.key (t.pa (q.x.frame.toNat + off)) n with
    | some l => BitVec.ofNat 64 (ofBytes (ownBytes s q.c q.b q.f (t.pa (q.x.frame.toNat + off)) l))
    | none => 0
  | .error _ => 0

/-- The value of a special register for fibre code (R134, R365). -/
def sregValue (s : State) (q : FCtx) (n : Nat) : DWord :=
  match n with
  | 0x00 => BitVec.ofNat 64 q.f
  | 0x01 => q.k.blk.setWidth 64
  | 0x02 => BitVec.ofNat 64 (coreInCluster q.c)
  | 0x03 => BitVec.ofNat 64 (clusterOf q.c)
  | 0x04 => BitVec.ofNat 64 q.k.stage
  | 0x05 => BitVec.ofNat 64 q.k.ctx
  | 0x06 => BitVec.ofNat 64 s.cycle
  | 0x07 => BitVec.ofNat 64 q.k.nfibre
  | 0x08 => q.x.sig
  | 0x10 => BitVec.ofNat 64 (s.core q.c).tsq.acctype
  | 0x11 => BitVec.ofNat 64 (s.core q.c).tsq.planes
  | 0x20 => frameWord s q 16 4
  | 0x21 => frameWord s q 0 8
  | 0x22 => frameWord s q 8 8
  | 0x23 => frameWord s q 24 8
  | 0x24 => frameWord s q 32 8
  | 0x25 => frameWord s q 40 8
  | 0x26 => if q.x.depth = 0 then 0 else q.x.frame.setWidth 64
  | 0x27 => BitVec.ofNat 64 q.x.depth
  | _ => 0

/-- Whether a special register has 64 bits (R134, R365). -/
def sregWide (n : Nat) : Bool := hasN [0x06, 0x08, 0x21, 0x22, 0x23, 0x24, 0x25, 0x26] n

/-- RDSR (R211). -/
def execRdsr (f : FHdr) (d : BitVec 8) (num : BitVec 16) (s : State) : Out :=
  fibreExec f ({
    dsts := [(d.toNat, if sregWide num.toNat then 2 else 1)]
    act := fun q s =>
      if sregWide num.toNat then q.putPair s d.toNat (sregValue s q num.toNat) 4
      else q.putReg s d.toNat (lo32 (sregValue s q num.toNat)) 4 }) s

/-- WRSR (R211, R365): a strong store at fibre scope to the current frame's PC, nothing outside a handler, BOUNDS for a value that
is no multiple of 8. The sealer admits %tpc alone. -/
def execWrsr (f : FHdr) (sa : BitVec 8) (num : BitVec 16) (s : State) : Out :=
  fibreExec f ({
    srcs := [srcA sa 2]
    act := fun q s =>
      if num ≠ 0x21 ∨ q.x.depth = 0 then q.retire s q.x
      else if (q.gg sa).toNat % 8 ≠ 0 then q.bounds s (q.gg sa).toNat 0
      else match translate s q.k.ctx 1 q.x.frame.toNat with
        | .error _ => q.retire s q.x
        | .ok t => q.issueAccess s
          { id := 0, slot := 0, fib := 0, op := .store, va := q.x.frame.toNat, pa := t.pa q.x.frame.toNat, key := t.key, size := 8,
            kind := 1, data := toBytes 8 (q.gg sa).toNat } }) s

/-- The superseded instructions that the sealer marks trap-on-execute (R141, R149, R151): ILLEGAL_INSTRUCTION whatever
the guard. -/
def execMarked (s : State) : Out := fibreExec {} { act := fun q s => q.illegal s 0 } s

/-- FMNX (R141, R151). -/
def execFmnx (s : State) : Out := execMarked s
/-- CVTF8 (R141, R151). -/
def execCvtf8 (s : State) : Out := execMarked s

end Sys2Proof.Machine
end

