-- ==== Sys2Proof/Machine/Gate.lean ====
section
/-!
DEFINITION. The gate and the lamp: GATE's rendezvous, the gather and the scatter, the lamp's order and its handing on (R44
to R48, R204 to R206, R236).
-/
namespace Sys2Proof.Machine

-- Gate records (R311)

/-- Whether an image's code holds an address. -/
def Image.holds (i : Image) (a : VAddr) : Bool :=
  i.funcs.any fun f => decide (f.start.toNat ≤ a.toNat) && decide (a.toNat < f.start.toNat + f.size)

/-- The loaded image of a context whose code holds an address. -/
def imageAt (s : State) (ctx : Nat) (a : VAddr) : Option Image :=
  s.images.find? fun i => decide (i.ctx = ctx) && i.holds a

/-- The tile entry and the layout map of an image's gate record: entries of first register, count and descriptor. -/
def Image.gate (i : Image) (idx : Nat) : VAddr × List (Nat × Nat × Nat) :=
  match i.gates[idx]? with
  | some (e, m, n) => (e, slice i.maps m n)
  | none => (0, [])

/-- The image, tile entry and layout map that a GATE names; an index with no record is no sealed word (R204). -/
def gateOf (s : State) (ctx : Nat) (pc : VAddr) (idx : Nat) : VAddr × VAddr × List (Nat × Nat × Nat) :=
  match imageAt s ctx pc with
  | some i => (i.gtab, i.gate idx)
  | none => (0, 0, [])

/-- The entry and map that a gate frame names. -/
def frameGate (s : State) (ctx : Nat) (g : GateFrame) : VAddr × List (Nat × Nat × Nat) :=
  (gateOf s ctx g.gatepc g.record).2

/-- The registers that a layout map names. -/
def mapRegs (m : List (Nat × Nat × Nat)) : List Nat := m.flatMap fun (first, n, _) => (List.range n).map (first + ·)

/-- The offsets o[0], o[1], … of the gather area, the last its end (R205). -/
def gatherOffs (n : Nat) : Nat → List (Nat × Nat × Nat) → List Nat
  | o, [] => [o]
  | o, (_, cnt, _) :: t => o :: gatherOffs n (o + 256 * ceilDiv (n * cnt * 4) 256) t

/-- The end of the gather area. -/
def gatherEnd (n : Nat) (m : List (Nat × Nat × Nat)) : Nat := (gatherOffs n 0 m).getLastD 0

-- The rendezvous (R44, R205)

/-- Whether a fibre waits at its GATE before the request. -/
def Fibre.atGate (x : Fibre) : Bool :=
  match x.status with
  | .waiting .gate => true
  | _ => false

/-- The fibres of a block that have not ended. -/
def Block.live (k : Block) : List (Nat × Fibre) := k.fibres.filter fun p => p.2.status ≠ .ended

/-- A trap of one kind at every fibre of a list. -/
def trapEach (s : State) (c b : Nat) (l : List (Nat × Fibre)) (act : FCtx → State → State) : State :=
  l.foldl (fun s (f, _) => match fctx s c b f with
    | some q => act q s
    | none => s) s

/-- A block's place in the lamp queue: by stage, then by arrival (R45). -/
def insLamp (stage b : Nat) : List (Nat × Nat) → List (Nat × Nat)
  | [] => [(stage, b)]
  | (st, x) :: t => if stage < st then (stage, b) :: (st, x) :: t else (st, x) :: insLamp stage b t

/-- The block requests the lamp (R44, R45): its fibres wait for it. -/
def requestLamp (s : State) (c b : Nat) (g : GateFrame) (buf : Buf) : State :=
  let s := s.modBlock c b fun k => { k with
    requested := true
    gate := some g
    gbuf := some buf
    fibres := k.fibres.map fun (f, x) => (f, if x.status ≠ .ended then { x with status := .waiting .lamp } else x) }
  let stage := ((s.block c b).map (·.stage)).getD 0
  (s.modCore c fun k => { k with lampQ := insLamp stage b k.lampQ }).later (.lamp c)

/-- The IMM24 of the GATE at an address, as it reads back. -/
def gateIndex (s : State) (ctx : Nat) (pc : VAddr) : Nat := (wordAt s ctx pc).toNat % 2 ^ 24

/-- The gate condition of R44, looked at when a fibre arrives or ends; then the checks of R205. -/
def checkGate (s : State) (c b : Nat) : State :=
  match s.block c b with
  | none => s
  | some k =>
    let l := k.live
    if k.requested || l.isEmpty || !(l.all fun p => p.2.atGate) then s
    else
      let pc := ((l.head?).map fun p => p.2.pc).getD 0
      if !(l.all fun p => p.2.pc = pc) then trapEach s c b l fun q s => q.illegal s 1
      else
        let idx := gateIndex s k.ctx pc
        let (gtab, _, m) := gateOf s k.ctx pc idx
        match k.handles.find? 0 with
        | none => trapEach s c b l fun q s => q.ownership s 0
        | some buf =>
          if !buf.valid then trapEach s c b l fun q s => q.ownership s 0
          else if buf.len < gatherEnd k.nfibre m then
            trapEach s c b l fun q s => q.bounds s (gatherEnd k.nfibre m) 37
          else requestLamp s c b { core := c, slot := b, record := idx, gatepc := pc, gtab := gtab } buf

/-- GATE (R204 to R206): the arrival of a fibre whose mapped registers are full. The accesses before it are performed before the
gather (R46 step 2). -/
def execGate (f : FHdr) (idx : BitVec 24) (s : State) : Out :=
  fibreExec f ({
    act := fun q s =>
      let regs := mapRegs (gateOf s q.k.ctx q.x.pc idx.toNat).2.2
      if regs.any fun n => !(q.x.reg q.k.win n).full then
        q.wait s (.emptyReg (regs.filter fun n => !(q.x.reg q.k.win n).full))
      else match regs.find? fun n => (q.x.reg q.k.win n).poison with
        | some n => q.trapAt s 0x03 0 (BitVec.ofNat 64 n) 0
        | none => checkGate (q.wait s .gate) q.c q.b }) s

-- Gather and scatter (R206)

/-- The word that the gather takes from a fibre. -/
def gatherWord (k : Block) (f n : Nat) : Word :=
  match k.fibres.find? f with
  | some x => if x.status = .ended then 0 else x.g k.win n
  | none => 0

/-- The bytes that one map entry gathers. -/
def gatherBytes (k : Block) (first cnt : Nat) : List Byte :=
  (List.range k.nfibre).flatMap fun f => (List.range cnt).flatMap fun c => toBytes 4 (gatherWord k f (first + c)).toNat

/-- The descriptor of a gathered tile (R206, R254): INT32, in h0, `count` by `n`. -/
def gatherDesc (o cnt n : Nat) : BitVec 512 :=
  BitVec.ofNat 512 (o + 2 ^ 56 + 3 * 2 ^ 64 + 2 ^ 69 + (cnt - 1) * 2 ^ 80 + (n - 1) * 2 ^ 92 + cnt * 2 ^ 224)

/-- Map entries with their offsets. -/
def withOffs (n : Nat) (m : List (Nat × Nat × Nat)) : List (Nat × Nat × Nat × Nat) :=
  List.zip (gatherOffs n 0 m) m

/-- The gather of a block at its grant (R206). -/
def gatherAll (s : State) (c : Nat) (k : Block) (buf : Buf) (m : List (Nat × Nat × Nat)) : State :=
  (withOffs k.nfibre m).foldl (fun s (o, first, cnt, d) =>
    let s := s.spmWrite buf.home 0 (buf.base + o) (gatherBytes k first cnt)
    s.modCore c fun q => { q with tsq := { q.tsq with d := q.tsq.d.set d (gatherDesc o cnt k.nfibre) } }) s

/-- The words of one fibre and map entry as they stand in the gather area. -/
def scatterWords (s : State) (buf : Buf) (o cnt f : Nat) : List Word :=
  (List.range cnt).map fun c => BitVec.ofNat 32 (ofBytes ((s.core buf.home).spmBytes (buf.base + o + 4 * (f * cnt + c)) 4))

/-- Registers that a scatter fills, those from words with an uncorrectable error poisoned (R99, R440). -/
def scatterRegs (bad : List Nat) (a win d : Nat) (x : Fibre) : List Word → Fibre
  | [] => x
  | v :: t =>
    let y := x.setReg win d v
    let y := if unitBad bad a 4 then { y with regs := y.regs.set d { (y.reg win d) with poison := true } } else y
    scatterRegs bad (a + 4) win (d + 1) y t

/-- The scatter of a block at GRET, in entry order (R206). -/
def scatterAll (s : State) (c b : Nat) (k : Block) (buf : Buf) (m : List (Nat × Nat × Nat)) : State :=
  (withOffs k.nfibre m).foldl (fun s (o, first, cnt, _) =>
    k.live.foldl (fun s (f, _) => s.modFibre c b f fun x =>
      scatterRegs (s.core buf.home).spmBad (buf.base + o + 4 * f * cnt) k.win first x (scatterWords s buf o cnt f)) s) s

-- The lamp (R45, R46)

/-- The sequencer and chain state as R218 and R263 give them at a grant and after GRET; a CHSTEP, a repeat and a
loop nest under way go on. -/
def resetTile (k : Core) : Core :=
  { k with
    tsq := { repeat_ := k.tsq.repeat_, nest := k.tsq.nest }
    landings := k.landings.filter fun l => !l.dst.isSeq
    reads := k.reads.filter fun r => !r.dst.isSeq
    xcu := { run := k.xcu.run, busyTill := k.xcu.busyTill } }

/-- The gather that a grant still owes runs, once every access that the block's fibres made before their GATEs has been performed
(R46 step 2, R206). -/
def gatherDue (s : State) (c : Nat) : State :=
  let k := s.core c
  match k.lamp.filter fun b => k.tsq.gather && (openOfBlock k b).isEmpty with
  | none => s
  | some b => match s.block c b with
    | none => s
    | some blk => gatherAll (s.modCore c fun q => { q with tsq := { q.tsq with gather := false } }) c blk (blk.gbuf.getD {})
        (frameGate s blk.ctx (blk.gate.getD {})).2

/-- The lamp is granted to the first of its queue, if it is free (R45, R46): the gather, then tile code from the gate
record's entry. -/
def grantLamp (s : State) (c : Nat) : State :=
  let k := s.core c
  match k.lamp, k.lampQ with
  | none, (_, b) :: rest =>
    let s := s.setCore c { resetTile k with lamp := some b, lampQ := rest, grants := k.grants + 1 }
    match s.block c b with
    | none => s
    | some blk =>
      gatherDue (s.modCore c fun q => { q with
        tsq := { q.tsq with active := true, grant := k.grants, pc := (frameGate s blk.ctx (blk.gate.getD {})).1, clear := false
                            gather := true } }) c
  | _, _ => s

/-- LAMP_GRANT (R45). -/
def execLampGrant (core : Nat) (s : State) : Out := .next (grantLamp s core)

/-- The lamp passes on: the next request is granted in the same cycle (R46 step 5). -/
def passLamp (s : State) (c : Nat) : State :=
  grantLamp (s.modCore c fun k => { resetTile k with lamp := none }) c

/-- Steps 4 to 6 of R46 and the reset of R218, at the issue of GRET (R236). -/
def gretDone (q : TCtx) (s : State) : State :=
  match s.block q.c q.b with
  | none => s
  | some k =>
    let g := k.gate.getD {}
    let s := scatterAll s q.c q.b k (k.gbuf.getD {}) (frameGate s k.ctx g).2
    let s := s.modBlock q.c q.b fun k => { k with
      requested := false
      gate := none
      gbuf := none
      fibres := k.fibres.map fun (f, x) =>
        (f, if x.status = .waiting .lamp then { (x.acquire s.cycle) with pc := g.gatepc + 8, status := .ready, readyAt := s.cycle } else x) }
    passLamp s q.c

end Sys2Proof.Machine
end

