-- ==== Sys2Proof/Machine/TileS.lean ====
section
/-!
DEFINITION. The S slot (R226 to R236).
-/
namespace Sys2Proof.Machine

/-- The scalar operand b of R227. -/
def TCtx.kb (q : TCtx) (i : BitVec 1) (kb : BitVec 5) (imm : BitVec 32) : BitVec 64 :=
  if i = 1 then imm.signExtend 64 else q.kReg kb.toNat

/-- A result of the S slot in a k register after its latency. -/
def TCtx.setK (q : TCtx) (kd : BitVec 5) (v : BitVec 64) (s : State) : State := q.land 0 1 (.k kd.toNat) v.toNat s

/-- An ALU operation (R227). -/
def sAlu (kd ka : BitVec 5) (i : BitVec 1) (kb : BitVec 5) (imm : BitVec 32) (f : BitVec 64 → BitVec 64 → BitVec 64) : SlotSem :=
  { commit := fun q s => q.setK kd (f (q.kReg ka.toNat) (q.kb i kb imm)) s }

/-- A comparison's result. -/
def one64 (p : Bool) : BitVec 64 := if p then 1 else 0

/-- The exact offset of R229. -/
def TCtx.kOff (q : TCtx) (ka : BitVec 5) (imm : BitVec 32) : Int := (q.kReg ka.toNat).toInt + imm.toInt

/-- An SPM read by the S slot (R229, R233). -/
def sLoad (ka : BitVec 5) (hd : BitVec 4) (imm : BitVec 32) (n : Nat) (sx : Bool) (dst : Dest) : SlotSem :=
  { check := fun q _ => trapOf (q.spmAt hd.toNat (q.kOff ka imm) n n)
    commit := fun q s => q.spmRead 0 (addrOf (q.spmAt hd.toNat (q.kOff ka imm) n n)) n sx dst s }

/-- STK (R229): the bytes are read at issue and written in the next sequencer cycle. -/
def sStore (ka kb : BitVec 5) (hd : BitVec 4) (imm : BitVec 32) (n : Nat) : SlotSem :=
  { check := fun q _ => trapOf (q.spmAt hd.toNat (q.kOff ka imm) n n)
    commit := fun q s =>
      q.land 0 1 (.spm (addrOf (q.spmAt hd.toNat (q.kOff ka imm) n n)) n) ((q.kReg kb.toNat).toNat % 2 ^ (8 * n)) s }

/-- The loops whose body does not hold an address are closed (R231). -/
def closeLoops (m : FMap LoopReg) (t : VAddr) : FMap LoopReg :=
  m.map fun (n, l) => (n, if decide (l.start.toNat ≤ t.toNat) && decide (t.toNat ≤ l.end_.toNat) then l else { l with open_ := false })

/-- The next bundle is the one at an address; `wait` says that its fetch is a wait point (R296). -/
def TCtx.jump (q : TCtx) (t : VAddr) (wait : Bool) (s : State) : State :=
  s.modCore q.c fun k => { k with tsq := { k.tsq with pc := t, jumped := wait } }

/-- Whether the loop buffer holds the body that an address lies in (R299). -/
def Tsq.holds (t : Tsq) (a : VAddr) : Bool := t.body.any fun b => decide (b.1.toNat ≤ a.toNat) && decide (a.toNat ≤ b.2.toNat)

/-- The loop buffer holds a body from now on, or none (R299). -/
def Tsq.hold (t : Tsq) (b : Option (VAddr × VAddr)) : Tsq := { t with body := b, bodyWords := [] }

/-- A branch's target (R230). -/
def TCtx.target (q : TCtx) (off : BitVec 32) : VAddr := q.pc + (off.signExtend 56 <<< 5)

/-- A taken branch (R230, R231); one out of the held body empties the loop buffer (R299). -/
def TCtx.branch (q : TCtx) (off : BitVec 32) (s : State) : State :=
  (q.jump (q.target off) true s).modCore q.c fun k =>
    let t := { k.tsq with lc := closeLoops k.tsq.lc (q.target off) }
    { k with tsq := if t.holds q.pc && !t.holds (q.target off) then t.hold none else t }

/-- The count of a LOOP. -/
def TCtx.loopCount (q : TCtx) (i : BitVec 1) (ka : BitVec 5) (count : BitVec 16) : Nat :=
  if i = 1 then (q.kReg ka.toNat).toNat else count.toNat

/-- LOOP (R231); entering a loop whose body has at most 64 bundles replaces what the loop buffer holds (R299). -/
def sLoop (n : BitVec 2) (i : BitVec 1) (ka : BitVec 5) (len count : BitVec 16) : SlotSem :=
  { check := fun q _ => if 2 ^ 32 ≤ q.loopCount i ka count then some (tBounds (q.loopCount i ka count : Nat) 38) else none
    commit := fun q s =>
      let c := q.loopCount i ka count
      let e := q.pc + BitVec.ofNat 56 (32 * len.toNat)
      let l : LoopReg := { count := c, start := q.pc + 32, end_ := e, open_ := c ≠ 0 }
      let s := s.modCore q.c fun k =>
        let t := { k.tsq with lc := k.tsq.lc.set n.toNat l }
        { k with tsq := if c ≠ 0 ∧ len.toNat ≤ 64 then t.hold (some (q.pc + 32, e)) else t }
      if c = 0 then q.jump (e + 32) true s else s }

/-- LEND (R231): its bundle stands at end(N). Re-entry of a body of more than 64 bundles is a wait point (R296), and the exit of
the held loop empties the loop buffer (R299). -/
def sLend (n : BitVec 2) : SlotSem :=
  { commit := fun q s =>
      let l := q.q.tsq.lc.get n.toNat {}
      if 1 < l.count then
        (q.jump l.start (decide (64 * 32 < l.end_.toNat + 32 - l.start.toNat)) s).modCore q.c fun k =>
          { k with tsq := { k.tsq with lc := k.tsq.lc.set n.toNat { l with count := l.count - 1 } } }
      else
        (q.jump (q.pc + 32) false s).modCore q.c fun k =>
          let t := { k.tsq with lc := k.tsq.lc.set n.toNat { l with count := 0, open_ := false } }
          { k with tsq := if t.body = some (l.start, q.pc) then t.hold none else t } }

/-- SETST (R232). -/
def sSetst (i : BitVec 1) (ka : BitVec 5) (mask : BitVec 8) (fc : BitVec 24) : SlotSem :=
  { commit := fun q s =>
      let v := if i = 1 then min (q.kReg ka.toNat).toNat (2 ^ 32 - 1) else fc.toNat
      q.land 0 1 .fc v (q.land 0 1 .st mask.toNat s) }

/-- The value of SETBD. -/
def TCtx.bondValue (q : TCtx) (i : BitVec 1) (ka : BitVec 5) (imm : BitVec 32) : Nat :=
  if i = 1 then (q.kReg ka.toNat).toNat else imm.toNat

/-- SETBD (R233). -/
def sSetbd (n : BitVec 4) (i : BitVec 1) (ka : BitVec 5) (imm : BitVec 32) : SlotSem :=
  { check := fun q _ =>
      let v := q.bondValue i ka imm
      if v = 0 ∨ 1024 < v then some (tBounds v 39) else none
    commit := fun q s => q.land 0 1 (.bd n.toNat) (q.bondValue i ka imm) s }

/-- SETAD (R233): value and step. -/
def sSetad (n : BitVec 4) (ka : BitVec 5) (step : BitVec 16) : SlotSem :=
  { commit := fun q s => q.land 0 1 (.ad n.toNat) ((q.kReg ka.toNat).toNat % 2 ^ 32 + 2 ^ 32 * step.toNat) s }

/-- The value of a special register for the S slot (R134). -/
def TCtx.sreg (q : TCtx) (s : State) (n : Nat) : Nat :=
  match n with
  | 0x01 => q.k.blk.toNat
  | 0x02 => coreInCluster q.c
  | 0x03 => clusterOf q.c
  | 0x04 => q.k.stage
  | 0x05 => q.k.ctx
  | 0x06 => s.cycle
  | 0x07 => q.k.nfibre
  | 0x10 => q.q.tsq.acctype
  | 0x11 => q.q.tsq.planes
  | 0x12 => q.q.tsq.vbase
  | 0x13 => q.q.tsq.vrot
  | _ => 0

/-- Whether a value is in a writable special register's range (R66, R107, R134). -/
def sregRange (n v : Nat) : Bool :=
  if n = 0x10 then hasN [0x00, 0x03, 0x11, 0x12, 0x13, 0x14, 0x15] v
  else if n = 0x11 then hasN [2, 4, 8, 16] v
  else if n = 0x12 then v % 128 = 0 && decide (v ≤ 896)
  else decide (v ≤ 127)

/-- WRSRK (R134, R233). -/
def sWrsrk (ka : BitVec 5) (num : BitVec 8) : SlotSem :=
  { check := fun q _ =>
      let v := (q.kReg ka.toNat).toNat % 2 ^ 32
      if sregRange num.toNat v then none else some (tBounds v 40)
    commit := fun q s => q.land 0 1 (.sreg num.toNat) ((q.kReg ka.toNat).toNat % 2 ^ 32) s }

/-- The check of a barrier name (R234). -/
def barCheck (q : TCtx) (b : BitVec 4) : Option TTrap :=
  if (q.k.barOf b.toNat).isSome then none else some (tBounds b.toNat 2)

/-- ARRK (R234). -/
def sArrk (kd : BitVec 5) (b : BitVec 4) : SlotSem :=
  { check := fun q _ => barCheck q b
    commit := fun q s => match q.k.barOf b.toNat with
      | some n => arriveBar (q.setK kd (BitVec.ofNat 64 (phaseNum (s.bar q.c n).phase)) s) q.c n
      | none => s }

/-- The completion of a barrier for which a WAITK of the tile program waits: the one of a wait under way, else that of R201. -/
def TCtx.barTarget (q : TCtx) (s : State) (n : Nat) (p : Bool) : Nat :=
  match q.q.tsq.wait with
  | some (.barrier m i) => if m = n then i else (s.bar q.c n).target p
  | _ => (s.bar q.c n).target p

/-- WAITK (R234, R235): over once the phase has completed, also while it waited. -/
def sWaitk (b : BitVec 4) (ka : BitVec 5) : SlotSem :=
  { wait := fun q s => match q.k.barOf b.toNat with
      | some n =>
        let m := q.barTarget s n ((q.kReg ka.toNat).getLsbD 0)
        if phaseOver (s.core q.c) n m ∨ q.q.tsq.passed = some n then none else some (.barrier n m)
      | none => none
    check := fun q _ => barCheck q b }

/-- The parts of an S-slot operation. -/
def sSem : SOp → SlotSem
  | .snop => {}
  | .addk kd ka i kb imm => sAlu kd ka i kb imm (· + ·)
  | .subk kd ka i kb imm => sAlu kd ka i kb imm (· - ·)
  | .mulk kd ka i kb imm => sAlu kd ka i kb imm (· * ·)
  | .andk kd ka i kb imm => sAlu kd ka i kb imm (· &&& ·)
  | .ork kd ka i kb imm => sAlu kd ka i kb imm (· ||| ·)
  | .xork kd ka i kb imm => sAlu kd ka i kb imm (· ^^^ ·)
  | .shlk kd ka i kb imm => sAlu kd ka i kb imm fun a b => if b.toNat < 64 then a <<< b.toNat else 0
  | .shrk kd ka i kb imm => sAlu kd ka i kb imm fun a b => if b.toNat < 64 then a >>> b.toNat else 0
  | .sark kd ka i kb imm => sAlu kd ka i kb imm fun a b => a.sshiftRight (min b.toNat 64)
  | .mink kd ka i kb imm => sAlu kd ka i kb imm fun a b => if a.toInt ≤ b.toInt then a else b
  | .maxk kd ka i kb imm => sAlu kd ka i kb imm fun a b => if a.toInt ≤ b.toInt then b else a
  | .sltk kd ka i kb imm => sAlu kd ka i kb imm fun a b => one64 (a.toInt < b.toInt)
  | .sltku kd ka i kb imm => sAlu kd ka i kb imm fun a b => one64 (a.toNat < b.toNat)
  | .seqk kd ka i kb imm => sAlu kd ka i kb imm fun a b => one64 (a = b)
  | .movk kd i ka imm => { commit := fun q s => q.setK kd (if i = 1 then q.kReg ka.toNat else imm.signExtend 64) s }
  | .movhk kd imm => { commit := fun q s => q.setK kd (pair64 (lo32 (q.kReg kd.toNat)) imm) s }
  | .addik kd ka imm => { commit := fun q s => q.setK kd ((lo32 (q.kReg ka.toNat) + imm).signExtend 64) s }
  | .ldk kd ka size sx hd imm => sLoad ka hd imm (2 ^ size.toNat) (sx = 1) (.k kd.toNat)
  | .stk ka kb size hd imm => sStore ka kb hd imm (2 ^ size.toNat)
  | .brk off => { commit := fun q s => q.branch off s }
  | .bnzk ka off => { commit := fun q s => if q.kReg ka.toNat = 0 then s else q.branch off s }
  | .loop n i ka len count => sLoop n i ka len count
  | .lend n _ => sLend n
  | .setst i ka mask fc => sSetst i ka mask fc
  | .setbd n i ka imm => sSetbd n i ka imm
  | .setad n ka step => sSetad n ka step
  | .setd n ka hd imm => sLoad ka hd imm 64 false (.d n.toNat)
  | .rdsrk kd num => { commit := fun q s => q.setK kd (BitVec.ofNat 64 (q.sreg s num.toNat)) s }
  | .wrsrk ka num => sWrsrk ka num
  | .arrk kd b => sArrk kd b
  | .waitk b ka => sWaitk b ka
  | .sleepk ka => { wait := fun q s => if s.cycle < (q.kReg ka.toNat).toNat then some (.sleep (q.kReg ka.toNat).toNat) else none }
  | .gret => { after := gretDone }

/-- The guard of an operation without one. -/
def always : SGuard := {}

-- The operations alone in a bundle

/-- SNOP (R143). -/
def execSnop (s : State) : Out := slotExec always (sSem (.snop)) s
/-- ADDK (R227). -/
def execAddk (kd ka : BitVec 5) (i : BitVec 1) (kb : BitVec 5) (imm : BitVec 32)
    (s : State) : Out :=
  slotExec always (sSem (.addk kd ka i kb imm)) s
/-- SUBK (R227). -/
def execSubk (kd ka : BitVec 5) (i : BitVec 1) (kb : BitVec 5) (imm : BitVec 32)
    (s : State) : Out :=
  slotExec always (sSem (.subk kd ka i kb imm)) s
/-- MULK (R227). -/
def execMulk (kd ka : BitVec 5) (i : BitVec 1) (kb : BitVec 5) (imm : BitVec 32)
    (s : State) : Out :=
  slotExec always (sSem (.mulk kd ka i kb imm)) s
/-- ANDK (R227). -/
def execAndk (kd ka : BitVec 5) (i : BitVec 1) (kb : BitVec 5) (imm : BitVec 32)
    (s : State) : Out :=
  slotExec always (sSem (.andk kd ka i kb imm)) s
/-- ORK (R227). -/
def execOrk (kd ka : BitVec 5) (i : BitVec 1) (kb : BitVec 5) (imm : BitVec 32)
    (s : State) : Out :=
  slotExec always (sSem (.ork kd ka i kb imm)) s
/-- XORK (R227). -/
def execXork (kd ka : BitVec 5) (i : BitVec 1) (kb : BitVec 5) (imm : BitVec 32)
    (s : State) : Out :=
  slotExec always (sSem (.xork kd ka i kb imm)) s
/-- SHLK (R227). -/
def execShlk (kd ka : BitVec 5) (i : BitVec 1) (kb : BitVec 5) (imm : BitVec 32)
    (s : State) : Out :=
  slotExec always (sSem (.shlk kd ka i kb imm)) s
/-- SHRK (R227). -/
def execShrk (kd ka : BitVec 5) (i : BitVec 1) (kb : BitVec 5) (imm : BitVec 32)
    (s : State) : Out :=
  slotExec always (sSem (.shrk kd ka i kb imm)) s
/-- SARK (R227). -/
def execSark (kd ka : BitVec 5) (i : BitVec 1) (kb : BitVec 5) (imm : BitVec 32)
    (s : State) : Out :=
  slotExec always (sSem (.sark kd ka i kb imm)) s
/-- MINK (R227). -/
def execMink (kd ka : BitVec 5) (i : BitVec 1) (kb : BitVec 5) (imm : BitVec 32)
    (s : State) : Out :=
  slotExec always (sSem (.mink kd ka i kb imm)) s
/-- MAXK (R227). -/
def execMaxk (kd ka : BitVec 5) (i : BitVec 1) (kb : BitVec 5) (imm : BitVec 32)
    (s : State) : Out :=
  slotExec always (sSem (.maxk kd ka i kb imm)) s
/-- SLTK (R227). -/
def execSltk (kd ka : BitVec 5) (i : BitVec 1) (kb : BitVec 5) (imm : BitVec 32)
    (s : State) : Out :=
  slotExec always (sSem (.sltk kd ka i kb imm)) s
/-- SLTKU (R227). -/
def execSltku (kd ka : BitVec 5) (i : BitVec 1) (kb : BitVec 5) (imm : BitVec 32)
    (s : State) : Out :=
  slotExec always (sSem (.sltku kd ka i kb imm)) s
/-- SEQK (R227). -/
def execSeqk (kd ka : BitVec 5) (i : BitVec 1) (kb : BitVec 5) (imm : BitVec 32)
    (s : State) : Out :=
  slotExec always (sSem (.seqk kd ka i kb imm)) s
/-- MOVK (R228). -/
def execMovk (kd : BitVec 5) (i : BitVec 1) (ka : BitVec 5) (imm : BitVec 32)
    (s : State) : Out :=
  slotExec always (sSem (.movk kd i ka imm)) s
/-- MOVHK (R228). -/
def execMovhk (kd : BitVec 5) (imm : BitVec 32) (s : State) : Out := slotExec always (sSem (.movhk kd imm)) s
/-- ADDIK (R228). -/
def execAddik (kd ka : BitVec 5) (imm : BitVec 32) (s : State) : Out := slotExec always (sSem (.addik kd ka imm)) s
/-- LDK (R229). -/
def execLdk (kd ka : BitVec 5) (size : BitVec 2) (sx : BitVec 1) (hd : BitVec 4) (imm : BitVec 32)
    (s : State) : Out :=
  slotExec always (sSem (.ldk kd ka size sx hd imm)) s
/-- STK (R229). -/
def execStk (ka kb : BitVec 5) (size : BitVec 2) (hd : BitVec 4) (imm : BitVec 32)
    (s : State) : Out :=
  slotExec always (sSem (.stk ka kb size hd imm)) s
/-- BRK (R230). -/
def execBrk (off : BitVec 32) (s : State) : Out := slotExec always (sSem (.brk off)) s
/-- BNZK (R230). -/
def execBnzk (ka : BitVec 5) (off : BitVec 32) (s : State) : Out := slotExec always (sSem (.bnzk ka off)) s
/-- LOOP (R231). -/
def execLoop (n : BitVec 2) (i : BitVec 1) (ka : BitVec 5) (len count : BitVec 16)
    (s : State) : Out :=
  slotExec always (sSem (.loop n i ka len count)) s
/-- LEND (R231): its bundle stands at end(N). -/
def execLend (n : BitVec 2) (len : BitVec 16) (s : State) : Out := slotExec always (sSem (.lend n len)) s
/-- SETST (R232). -/
def execSetst (i : BitVec 1) (ka : BitVec 5) (mask : BitVec 8) (fc : BitVec 24)
    (s : State) : Out :=
  slotExec always (sSem (.setst i ka mask fc)) s
/-- SETBD (R233). -/
def execSetbd (n : BitVec 4) (i : BitVec 1) (ka : BitVec 5) (imm : BitVec 32)
    (s : State) : Out :=
  slotExec always (sSem (.setbd n i ka imm)) s
/-- SETAD (R233). -/
def execSetad (n : BitVec 4) (ka : BitVec 5) (step : BitVec 16)
    (s : State) : Out :=
  slotExec always (sSem (.setad n ka step)) s
/-- SETD (R233). -/
def execSetd (n ka : BitVec 5) (hd : BitVec 4) (imm : BitVec 32)
    (s : State) : Out :=
  slotExec always (sSem (.setd n ka hd imm)) s
/-- RDSRK (R233). -/
def execRdsrk (kd : BitVec 5) (num : BitVec 8) (s : State) : Out := slotExec always (sSem (.rdsrk kd num)) s
/-- WRSRK (R233). -/
def execWrsrk (ka : BitVec 5) (num : BitVec 8) (s : State) : Out := slotExec always (sSem (.wrsrk ka num)) s
/-- ARRK (R234). -/
def execArrk (kd : BitVec 5) (b : BitVec 4) (s : State) : Out := slotExec always (sSem (.arrk kd b)) s
/-- WAITK (R234). -/
def execWaitk (b : BitVec 4) (ka : BitVec 5) (s : State) : Out := slotExec always (sSem (.waitk b ka)) s
/-- SLEEPK (R234). -/
def execSleepk (ka : BitVec 5) (s : State) : Out := slotExec always (sSem (.sleepk ka)) s
/-- GRET (R236). -/
def execGret (s : State) : Out := slotExec always (sSem (.gret)) s

end Sys2Proof.Machine
end

