-- ==== Sys2Proof/Machine/Special.lean ====
section
/-!
DEFINITION. The special functions of R169: RCP, RSQ and SQRT correctly rounded; EXP2, LOG2, SIN, COS and TANH
faithfully rounded, where the choice between the two FP32 neighbours of the exact result is a free value for each
input code. The neighbours are found from the exact result by fixed-point series (log 7).
-/
namespace Sys2Proof.Machine

/-- Fraction bits of the fixed-point work. -/
def fxBits : Nat := 640
/-- 1 in fixed point. -/
def fxOne : Nat := 2 ^ 640
/-- A bound on the error of a fixed-point result, in its last places. -/
def fxErr : Nat := 2 ^ 24

/-- Product in fixed point, rounded down. -/
def fxMul (a b : Nat) : Nat := a * b / fxOne

/-- Σ x^n / n! from the `n`-th term on, over `fuel` terms. -/
def fxExpGo (x : Nat) : Nat → Nat → Nat → Nat
  | 0, _, _ => 0
  | fuel + 1, n, term => term + fxExpGo x fuel (n + 1) (fxMul term x / (n + 1))

/-- e^x for 0 ≤ x ≤ 1. -/
def fxExp (x : Nat) : Nat := fxExpGo x 180 0 fxOne

/-- Σ z^(2k+1) / (2k+1), with alternating signs when `alt`: atan z or atanh z. -/
def fxAtanGo (alt : Bool) (z2 : Nat) : Nat → Nat → Nat → Int
  | 0, _, _ => 0
  | fuel + 1, k, p =>
    let t : Int := (p / (2 * k + 1) : Nat)
    (if alt ∧ k % 2 = 1 then -t else t) + fxAtanGo alt z2 fuel (k + 1) (fxMul p z2)

/-- atanh z for 0 ≤ z ≤ 1/3. -/
def fxAtanh (z : Nat) : Nat := (fxAtanGo false (fxMul z z) 220 0 z).toNat
/-- atan (1 / n). -/
def fxAtanInv (n : Nat) : Int := fxAtanGo true (fxOne / (n * n)) 160 0 (fxOne / n)

/-- ln 2 = 2 atanh (1/3). -/
def fxLn2 : Nat := 2 * fxAtanh (fxOne / 3)
/-- π by Machin's formula. -/
def fxPi : Nat := (16 * fxAtanInv 5 - 4 * fxAtanInv 239).toNat

/-- Σ of the sine series in y, over `fuel` terms. -/
def fxSinGo (y2 : Nat) : Nat → Nat → Nat → Int
  | 0, _, _ => 0
  | fuel + 1, k, term =>
    (if k % 2 = 1 then -(term : Int) else term) + fxSinGo y2 fuel (k + 1) (fxMul term y2 / ((2 * k + 2) * (2 * k + 3)))

/-- sin(π t) for 0 ≤ t ≤ 1/2. -/
def fxSinPi (t : Nat) : Nat :=
  let y := fxMul fxPi t
  (fxSinGo (fxMul y y) 100 0 y).toNat

/-- 2^f for 0 ≤ f ≤ 1. -/
def fxExp2 (f : Nat) : Nat := fxExp (fxMul f fxLn2)

/-- A fixed-point magnitude scaled by `2^k`, as an exact value that is not representable. -/
def fxReal (neg : Bool) (v : Nat) (k : Int) : RVal := .num neg (v - fxErr) (k - fxBits) true

/-- The exact value of 2^a for a finite `a` that is no integer. -/
def exp2Val (s : Bool) (m : Nat) (e : Int) : RVal :=
  -- |a| below 2^24 here, so the fraction fits
  let a : Int := if s then -((m * 2 ^ (e + fxBits).toNat : Nat) : Int) else ((m * 2 ^ (e + fxBits).toNat : Nat) : Int)
  let n := a / fxOne
  let f := (a % fxOne).toNat
  if n < -200 then .num false 1 (-200) true
  else if 128 ≤ n then .inf false
  else fxReal false (fxExp2 f) n

/-- The exact value of log2 of a positive value that is no power of two. -/
def log2Val (m : Nat) (e : Int) : RVal :=
  let l := Nat.log2 m
  let k : Int := e + l
  let x := m * 2 ^ fxBits / 2 ^ l
  let z := (x - fxOne) * fxOne / (x + fxOne)
  let fr := 2 * fxAtanh z * fxOne / fxLn2
  let v : Int := k * fxOne + fr
  if v < 0 then .num true (v.natAbs - fxErr) (-fxBits) true else .num false (v.natAbs - fxErr) (-fxBits) true

/-- |a| mod 2 in fixed point. -/
def mod2 (m : Nat) (e : Int) : Nat := (m * 2 ^ (e + fxBits).toNat) % (2 * fxOne)

/-- sin(π a): exact at multiples of a half. -/
def sinPiVal (s : Bool) (m : Nat) (e : Int) : RVal :=
  let t := mod2 m e
  let s' := if fxOne ≤ t then !s else s
  let t := t % fxOne
  if t = 0 then .num s 0 0 false
  else if 2 * t = fxOne then .num s' 1 0 false
  else fxReal s' (fxSinPi (if fxOne < 2 * t then fxOne - t else t)) 0

/-- cos(π a): exact at multiples of a half. -/
def cosPiVal (m : Nat) (e : Int) : RVal :=
  let t := mod2 m e
  let t := if fxOne < t then 2 * fxOne - t else t
  if t = 0 then .num false 1 0 false
  else if t = fxOne then .num true 1 0 false
  else if 2 * t = fxOne then .num false 0 0 false
  else if 2 * t < fxOne then fxReal false (fxSinPi (fxOne / 2 - t)) 0
  else fxReal true (fxSinPi (t - fxOne / 2)) 0

/-- tanh a for a finite non-zero `a`. -/
def tanhVal (s : Bool) (m : Nat) (e : Int) : RVal :=
  let top := ilogb m e
  if top < -12 then .num s (m * 2 ^ 40 - 1) (e - 40) true
  else if 7 ≤ top then .num s (2 ^ 60 - 1) (-60) true
  else
    let x2 := 2 * (m * 2 ^ (e + fxBits).toNat)
    let u := x2 * fxOne / fxLn2
    let n := u / fxOne
    let f := u % fxOne
    let ex := fxExp2 (fxOne - f) / 2 ^ (n + 1)
    fxReal s ((fxOne - ex) * fxOne / (fxOne + ex)) 0

/-- A faithfully rounded FP32 code of an exact value: the value's code where it has one, else the neighbour that the
free choice for this function and input names (R169). -/
def faithful (op : Nat) (code : Word) (v : RVal) : Nat :=
  let dn := roundTo 0x11 2 false v
  let up := roundTo 0x11 3 false v
  if dn = up then dn else if Config.faithfulUp op code then up else dn

/-- EXP2 (R169). -/
def exp2Code (a : Word) : Nat :=
  match valueOf a.toNat 0x11 with
  | .nan => 0x7FC00000
  | .inf s => if s then 0 else 0x7F800000
  | .fin s m e =>
    if m = 0 then 0x3F800000
    else if 24 ≤ ilogb m e then
      (if s then faithful 3 a (.num false 1 (-200) true) else 0x7F800000)
    else if 0 ≤ e ∨ m % 2 ^ (-e).toNat = 0 then
      let n : Int := if 0 ≤ e then m * 2 ^ e.toNat else m / 2 ^ (-e).toNat
      faithful 3 a (if 128 ≤ n ∧ !s then .inf false else .num false 1 (if s then -n else n) false)
    else faithful 3 a (exp2Val s m e)

/-- LOG2 (R169). -/
def log2Code (a : Word) : Nat :=
  match valueOf a.toNat 0x11 with
  | .nan => 0x7FC00000
  | .inf s => if s then 0x7FC00000 else 0x7F800000
  | .fin s m e =>
    if m = 0 then 0xFF800000
    else if s then 0x7FC00000
    else if m = 2 ^ Nat.log2 m then
      roundTo 0x11 0 false (scaledVal (ilogb m e) 0).toR
    else faithful 4 a (log2Val m e)

/-- SIN, of half-turns (R169). -/
def sinCode (a : Word) : Nat :=
  match valueOf a.toNat 0x11 with
  | .fin s m e => if m = 0 then a.toNat else faithful 5 a (sinPiVal s m e)
  | _ => 0x7FC00000

/-- COS, of half-turns (R169). -/
def cosCode (a : Word) : Nat :=
  match valueOf a.toNat 0x11 with
  | .fin _ m e => faithful 6 a (cosPiVal m e)
  | _ => 0x7FC00000

/-- TANH (R169). -/
def tanhCode (a : Word) : Nat :=
  match valueOf a.toNat 0x11 with
  | .nan => 0x7FC00000
  | .inf s => if s then 0xBF800000 else 0x3F800000
  | .fin s m e => if m = 0 then a.toNat else faithful 7 a (tanhVal s m e)

/-- RCP, rounded once to format `f` by mode `rm` (R169, R240). -/
def rcpCode (f rm : Nat) (sat : Bool) (x : Val) : Nat := roundTo f rm sat (recipVal 40 x)
/-- RSQ, rounded once to format `f` by mode `rm` (R169, R240). -/
def rsqCode (f rm : Nat) (sat : Bool) (x : Val) : Nat := roundTo f rm sat (rsqrtVal 40 x)

end Sys2Proof.Machine
end

