-- ==== Sys2Proof/Machine/TileV.lean ====
section
/-!
DEFINITION. The V slot: lane arithmetic, comparison, conversion, reductions and row movement (R237 to R244).
-/
namespace Sys2Proof.Machine

-- Operands

/-- The row that vd names, offset in a loop nest (R245). -/
def TCtx.rd (q : TCtx) (vd : BitVec 7) : Nat := q.vrow (vd.toNat + q.ovd)
/-- The contents of the row that va names. -/
def TCtx.ra (q : TCtx) (va : BitVec 7) : BitVec 2048 := q.q.row (q.vrow (va.toNat + q.ova))
/-- The contents of the row that vb names. -/
def TCtx.rb (q : TCtx) (vb : BitVec 7) : BitVec 2048 := q.q.row (q.vrow (vb.toNat + q.ovb))
/-- The contents of the row that vc names. -/
def TCtx.rc (q : TCtx) (vc : BitVec 7) : BitVec 2048 := q.q.row (q.vrow (vc.toNat + q.ovc))

/-- The issue check of an operation typed by lane (R237). -/
def typeCheck (t : BitVec 5) (q : TCtx) (_ : State) : Option TTrap :=
  if t.toNat ≠ q.q.tsq.acctype then some (tBounds t.toNat 41) else none

/-- A V-slot operation whose whole result row lands after a latency. -/
def vRow (vd : BitVec 7) (lat : Nat) (v : TCtx → BitVec 2048) (check : TCtx → State → Option TTrap := fun _ _ => none) : SlotSem :=
  { check := check, commit := fun q s => q.land 1 lat (.row (q.rd vd)) (v q).toNat s }

/-- Lane by lane over one row. -/
def lanes1 (w : Nat) (f : Nat → Nat) (a : BitVec 2048) : BitVec 2048 := rowOfLanes w ((lanesOf a w).map f)
/-- Lane by lane over two rows. -/
def lanes2 (w : Nat) (f : Nat → Nat → Nat) (a b : BitVec 2048) : BitVec 2048 :=
  rowOfLanes w (List.zipWith f (lanesOf a w) (lanesOf b w))
/-- Lane by lane over three rows. -/
def lanes3 (w : Nat) (f : Nat → Nat → Nat → Nat) (a b c : BitVec 2048) : BitVec 2048 :=
  rowOfLanes w (List.zipWith (fun x y => x y) (List.zipWith f (lanesOf a w) (lanesOf b w)) (lanesOf c w))

/-- A typed operation over one row. -/
def vMap1 (vd va : BitVec 7) (t : BitVec 5) (lat : Nat) (f : Nat → Nat) : SlotSem :=
  vRow vd lat (fun q => lanes1 (fmtWidth t.toNat) f (q.ra va)) (typeCheck t)
/-- A typed operation over two rows. -/
def vMap2 (vd va vb : BitVec 7) (t : BitVec 5) (lat : Nat) (f : Nat → Nat → Nat) : SlotSem :=
  vRow vd lat (fun q => lanes2 (fmtWidth t.toNat) f (q.ra va) (q.rb vb)) (typeCheck t)
/-- A typed operation over three rows. -/
def vMap3 (vd va vb vc : BitVec 7) (t : BitVec 5) (lat : Nat) (f : Nat → Nat → Nat → Nat) : SlotSem :=
  vRow vd lat (fun q => lanes3 (fmtWidth t.toNat) f (q.ra va) (q.rb vb) (q.rc vc)) (typeCheck t)
/-- A bitwise operation (R238). -/
def vBits (vd va vb : BitVec 7) (f : BitVec 2048 → BitVec 2048 → BitVec 2048) : SlotSem :=
  vRow vd 2 fun q => f (q.ra va) (q.rb vb)

-- Lane results (R238 to R240)

/-- An integer lane result: saturated or wrapped. -/
def laneFit (w : Nat) (sat : BitVec 1) (v : Int) : Nat := if sat = 1 then satSignedN v w else wrapN v w

/-- A lane operation with an integer and a float form. -/
def laneOp2 (t : BitVec 5) (sat : BitVec 1) (i : Int → Int → Int) (f : Nat → Nat → Nat) (a b : Nat) : Nat :=
  let w := fmtWidth t.toNat
  if isIntFmt t.toNat then laneFit w sat (i (sextN a w) (sextN b w)) else f a b

/-- VFMA's lane result. -/
def laneFma (t : BitVec 5) (rm : BitVec 2) (sat : BitVec 1) (a b c : Nat) : Nat :=
  let w := fmtWidth t.toNat
  if isIntFmt t.toNat then laneFit w sat (sextN a w * sextN b w + sextN c w)
  else fFma t.toNat rm.toNat a b c (sat = 1)

/-- Addition of lanes. -/
def laneAdd (t : BitVec 5) (rm : BitVec 2) (sat : BitVec 1) : Nat → Nat → Nat :=
  laneOp2 t sat (· + ·) fun a b => fAdd t.toNat rm.toNat a b (sat = 1)
/-- The lesser or greater of lanes. -/
def laneMinMax (mx : Bool) (t : BitVec 5) : Nat → Nat → Nat :=
  laneOp2 t 0 (fun a b => if decide (a ≤ b) = mx then b else a) (fminmax mx t.toNat)

/-- Magnitude of a lane. -/
def laneAbs (t : BitVec 5) (sat : BitVec 1) (a : Nat) : Nat :=
  let w := fmtWidth t.toNat
  if isIntFmt t.toNat then laneFit w sat (sextN a w).natAbs else fAbs t.toNat a
/-- Negated lane. -/
def laneNeg (t : BitVec 5) (sat : BitVec 1) (a : Nat) : Nat :=
  let w := fmtWidth t.toNat
  if isIntFmt t.toNat then laneFit w sat (-(sextN a w)) else fNeg t.toNat a

/-- A lane's comparison (R239). -/
def laneCmp (t : BitVec 5) (cc : BitVec 3) (a b : Nat) : Nat :=
  let w := fmtWidth t.toNat
  if (if isIntFmt t.toNat then cmpInt cc.toNat (sextN a w) (sextN b w) else cmpFloat cc.toNat t.toNat a b) then 1 else 0

/-- VEXP2's and VLOG2's lane result: the FP32 result rounded to a narrower type (R240). -/
def laneSpecial (t : BitVec 5) (rm : BitVec 2) (sat : BitVec 1) (f : Word → Nat) (a : Nat) : Nat :=
  if t.toNat = 0x11 then f (BitVec.ofNat 32 a)
  else convert t.toNat 0x11 rm.toNat (sat = 1) (f (BitVec.ofNat 32 (convert 0x11 t.toNat 0 false a)))

-- Conversions (R241)

/-- The width of a format's element in a row. -/
def elemWidth (f : Nat) : Nat := max 8 (fmtWidth f)

/-- VCVT and VSCALE (R241); `scale` gives the scale of element number `j` of va. -/
def vConvert (vd va : BitVec 7) (sf df : BitVec 5) (part rm : BitVec 2) (sat : BitVec 1) (scale : TCtx → Nat → Option Val) : SlotSem :=
  { commit := fun q s =>
      let ws := elemWidth sf.toNat
      let wd := elemWidth df.toNat
      let n := 2048 / max ws wd
      let lo := part.toNat * n
      let out := (List.range n).map fun j =>
        let sj := if wd ≤ ws then j else lo + j
        convert df.toNat sf.toNat rm.toNat (sat = 1) (laneOf (q.ra va) ws sj % 2 ^ fmtWidth sf.toNat) (scale q sj) %
          2 ^ fmtWidth df.toNat
      let at_ := if wd ≤ ws then lo * wd else 0
      q.land 1 5 (.rowPart (q.rd vd) at_ (at_ + n * wd)) (rowOfLanes wd out).toNat s }

-- Reductions (R242)

/-- A node of a reduction by operation code. -/
def redOp (t : BitVec 5) (op rm : BitVec 2) (sat : BitVec 1) : Nat → Nat → Nat :=
  if op = 0 then laneAdd t rm sat else laneMinMax (op = 1) t

/-- VREDL (R242). -/
def vRedl (vd va : BitVec 7) (t : BitVec 5) (op rm : BitVec 2) (sat : BitVec 1) : SlotSem :=
  let w := fmtWidth t.toNat
  let lg := Nat.log2 (2048 / w)
  vRow vd (3 * lg) (fun q =>
    let v := reducePairwise (redOp t op rm sat) 0 lg (lanesOf (q.ra va) w)
    rowOfLanes w (List.replicate (2048 / w) v)) (typeCheck t)

/-- VREDR (R242). -/
def vRedr (vd va : BitVec 7) (t : BitVec 5) (op : BitVec 2) (cnt : BitVec 5) (rm : BitVec 2) (sat : BitVec 1) : SlotSem :=
  let w := fmtWidth t.toNat
  let n := cnt.toNat + 1
  vRow vd (4 * n) (fun q =>
    let rows := (List.range n).map fun i => q.q.row (q.vrow (va.toNat + q.ova + i))
    (reduceAsc (fun a b => lanes2 w (redOp t op rm sat) a b) rows).getD 0) (typeCheck t)

-- Row movement (R243, R244)

/-- The offset of VLD and VST. -/
def TCtx.vOff (q : TCtx) (ad : BitVec 4) (use : BitVec 1) (off : BitVec 9) : Int :=
  (if use = 1 then q.ad ad.toNat else 0) + 256 * off.toNat

/-- VLD (R243). -/
def vLd (vd : BitVec 7) (hd ad : BitVec 4) (use : BitVec 1) (off : BitVec 9) : SlotSem :=
  { check := fun q _ => trapOf (q.spmAt hd.toNat (q.vOff ad use off) 256 256)
    commit := fun q s =>
      q.spmRead 1 (addrOf (q.spmAt hd.toNat (q.vOff ad use off) 256 256)) 256 false (.row (q.rd vd)) s }

/-- VST (R243). -/
def vSt (va : BitVec 7) (hd ad : BitVec 4) (use : BitVec 1) (off : BitVec 9) : SlotSem :=
  { check := fun q _ => trapOf (q.spmAt hd.toNat (q.vOff ad use off) 256 256)
    commit := fun q s =>
      q.land 1 1 (.spm (addrOf (q.spmAt hd.toNat (q.vOff ad use off) 256 256)) 256) (q.ra va).toNat s }

/-- VBCAST (R243). -/
def vBcast (vd va : BitVec 7) (t : BitVec 5) (usek : BitVec 1) (lane : BitVec 8) : SlotSem :=
  let w := fmtWidth t.toNat
  vRow vd 2 (fun q =>
    let v := if usek = 1 then (q.kReg (lane.toNat % 32)).toNat % 2 ^ w else laneOf (q.ra va) w lane.toNat
    rowOfLanes w (List.replicate (2048 / w) v))
    fun q s => match typeCheck t q s with
      | some e => some e
      | none => if usek = 0 ∧ 2048 / w ≤ lane.toNat then some (tBounds lane.toNat 42) else none

/-- Whether VQPOP's queue is without a head entry for its context (R53, R224). -/
def qWaits (q : TCtx) (n : Nat) : Bool :=
  if q.q.qOwner = none then true
  else if q.q.qOwner ≠ some q.k.ctx then false
  else (q.q.queue n).data.isEmpty && (q.q.queue n).term.isNone

/-- VQPOP (R244). -/
def vQpop (vd : BitVec 7) (n : BitVec 3) : SlotSem :=
  { wait := fun q _ => if qWaits q n.toNat then some (.qempty n.toNat) else none
    check := fun q _ => queueCheck q.q q.k.ctx n.toNat 1
    commit := fun q s =>
      match (s.core q.c).queue n.toNat with
      | { data := e :: rest, term } =>
        q.land 1 4 (.row (q.rd vd)) (ofBytes e) (s.modCore q.c fun k =>
          { k with queues := k.queues.set n.toNat { data := rest, term := term } })
      | _ => q.land 1 4 (.row (q.rd vd)) 0 (q.land 1 1 .fc 0 s) }

/-- The parts of a V-slot operation but for the rows that it reads. -/
def vParts : VOp → SlotSem
  | .vnop _ => {}
  | .vadd _ vd va vb t rm sat => vMap2 vd va vb t 4 (laneAdd t rm sat)
  | .vsub _ vd va vb t rm sat => vMap2 vd va vb t 4 (laneOp2 t sat (· - ·) fun a b => fSub t.toNat rm.toNat a b (sat = 1))
  | .vmul _ vd va vb t rm sat => vMap2 vd va vb t 5 (laneOp2 t sat (· * ·) fun a b => fMul t.toNat rm.toNat a b (sat = 1))
  | .vfma _ vd va vb vc t rm sat => vMap3 vd va vb vc t 5 (laneFma t rm sat)
  | .vmin _ vd va vb t => vMap2 vd va vb t 4 (laneMinMax false t)
  | .vmax _ vd va vb t => vMap2 vd va vb t 4 (laneMinMax true t)
  | .vabs _ vd va t sat => vMap1 vd va t 4 (laneAbs t sat)
  | .vneg _ vd va t sat => vMap1 vd va t 4 (laneNeg t sat)
  | .vand _ vd va vb => vBits vd va vb (· &&& ·)
  | .vor _ vd va vb => vBits vd va vb (· ||| ·)
  | .vxor _ vd va vb => vBits vd va vb (· ^^^ ·)
  | .vshl _ vd va vb t => vMap2 vd va vb t 2 fun a b => if b < fmtWidth t.toNat then a * 2 ^ b % 2 ^ fmtWidth t.toNat else 0
  | .vshr _ vd va vb t => vMap2 vd va vb t 2 fun a b => if b < fmtWidth t.toNat then a / 2 ^ b else 0
  | .vsar _ vd va vb t => vMap2 vd va vb t 2 fun a b =>
      wrapN (sextN a (fmtWidth t.toNat) / 2 ^ (min b (fmtWidth t.toNat))) (fmtWidth t.toNat)
  | .vcmp _ vd va vb t cc => vMap2 vd va vb t 2 (laneCmp t cc)
  | .vsel _ vd va vb vc t => vMap3 vd va vb vc t 2 fun a b c => if c ≠ 0 then a else b
  | .vrcp _ vd va t rm sat => vMap1 vd va t 12 fun a => rcpCode t.toNat rm.toNat (sat = 1) (valueOf a t.toNat)
  | .vrsq _ vd va t rm sat => vMap1 vd va t 12 fun a => rsqCode t.toNat rm.toNat (sat = 1) (valueOf a t.toNat)
  | .vexp2 _ vd va t rm sat => vMap1 vd va t 12 (laneSpecial t rm sat exp2Code)
  | .vlog2 _ vd va t rm sat => vMap1 vd va t 12 (laneSpecial t rm sat log2Code)
  | .vcvt _ vd va sf df part rm sat => vConvert vd va sf df part rm sat fun _ _ => none
  | .vscale _ vd va vb sf df part e8 lg rm sat => vConvert vd va sf df part rm sat fun q j =>
      some (valueOf (laneOf (q.rb vb) 8 (j / 2 ^ lg.toNat)) (if e8 = 1 then 0x1F else 0x1E))
  | .vredl _ vd va t op rm sat => vRedl vd va t op rm sat
  | .vredr _ vd va t op cnt rm sat => vRedr vd va t op cnt rm sat
  | .vld _ vd hd ad use off => vLd vd hd ad use off
  | .vst _ va hd ad use off => vSt va hd ad use off
  | .vbcast _ vd va t usek lane => vBcast vd va t usek lane
  | .vmov _ vd va => vRow vd 2 fun q => q.ra va
  | .vqpop _ vd n => vQpop vd n

/-- The names of the rows that a V-slot operation reads. -/
def vNames (q : TCtx) : VOp → List Nat
  | .vnop _ | .vld _ _ _ _ _ _ | .vqpop _ _ _ => []
  | .vadd _ _ a b _ _ _ | .vsub _ _ a b _ _ _ | .vmul _ _ a b _ _ _ | .vmin _ _ a b _ | .vmax _ _ a b _ | .vand _ _ a b
  | .vor _ _ a b | .vxor _ _ a b | .vshl _ _ a b _ | .vshr _ _ a b _ | .vsar _ _ a b _ | .vcmp _ _ a b _ _
  | .vscale _ _ a b _ _ _ _ _ _ _ => [a.toNat + q.ova, b.toNat + q.ovb]
  | .vfma _ _ a b c _ _ _ | .vsel _ _ a b c _ => [a.toNat + q.ova, b.toNat + q.ovb, c.toNat + q.ovc]
  | .vabs _ _ a _ _ | .vneg _ _ a _ _ | .vrcp _ _ a _ _ _ | .vrsq _ _ a _ _ _ | .vexp2 _ _ a _ _ _ | .vlog2 _ _ a _ _ _
  | .vcvt _ _ a _ _ _ _ _ | .vredl _ _ a _ _ _ _ | .vst _ a _ _ _ _ | .vmov _ _ a => [a.toNat + q.ova]
  | .vbcast _ _ a _ usek _ => if usek = 1 then [] else [a.toNat + q.ova]
  | .vredr _ _ a _ _ n _ _ => (List.range (n.toNat + 1)).map fun i => a.toNat + q.ova + i

/-- The parts of a V-slot operation. -/
def vSem (o : VOp) : SlotSem := { vParts o with rows := fun q => (vNames q o).map q.vrow }

-- The operations alone in a bundle

/-- VNOP (R143). -/
def execVnop (g : SGuard) (s : State) : Out := slotExec g (vSem (.vnop g)) s
/-- VADD (R238). -/
def execVadd (g : SGuard) (vd va vb : BitVec 7) (t : BitVec 5) (rm : BitVec 2) (sat : BitVec 1)
    (s : State) : Out :=
  slotExec g (vSem (.vadd g vd va vb t rm sat)) s
/-- VSUB (R238). -/
def execVsub (g : SGuard) (vd va vb : BitVec 7) (t : BitVec 5) (rm : BitVec 2) (sat : BitVec 1)
    (s : State) : Out :=
  slotExec g (vSem (.vsub g vd va vb t rm sat)) s
/-- VMUL (R238). -/
def execVmul (g : SGuard) (vd va vb : BitVec 7) (t : BitVec 5) (rm : BitVec 2) (sat : BitVec 1)
    (s : State) : Out :=
  slotExec g (vSem (.vmul g vd va vb t rm sat)) s
/-- VFMA (R238). -/
def execVfma (g : SGuard) (vd va vb vc : BitVec 7) (t : BitVec 5) (rm : BitVec 2) (sat : BitVec 1)
    (s : State) : Out :=
  slotExec g (vSem (.vfma g vd va vb vc t rm sat)) s
/-- VMIN (R238). -/
def execVmin (g : SGuard) (vd va vb : BitVec 7) (t : BitVec 5)
    (s : State) : Out :=
  slotExec g (vSem (.vmin g vd va vb t)) s
/-- VMAX (R238). -/
def execVmax (g : SGuard) (vd va vb : BitVec 7) (t : BitVec 5)
    (s : State) : Out :=
  slotExec g (vSem (.vmax g vd va vb t)) s
/-- VABS (R238). -/
def execVabs (g : SGuard) (vd va : BitVec 7) (t : BitVec 5) (sat : BitVec 1)
    (s : State) : Out :=
  slotExec g (vSem (.vabs g vd va t sat)) s
/-- VNEG (R238). -/
def execVneg (g : SGuard) (vd va : BitVec 7) (t : BitVec 5) (sat : BitVec 1)
    (s : State) : Out :=
  slotExec g (vSem (.vneg g vd va t sat)) s
/-- VAND (R238). -/
def execVand (g : SGuard) (vd va vb : BitVec 7) (s : State) : Out := slotExec g (vSem (.vand g vd va vb)) s
/-- VOR (R238). -/
def execVor (g : SGuard) (vd va vb : BitVec 7) (s : State) : Out := slotExec g (vSem (.vor g vd va vb)) s
/-- VXOR (R238). -/
def execVxor (g : SGuard) (vd va vb : BitVec 7) (s : State) : Out := slotExec g (vSem (.vxor g vd va vb)) s
/-- VSHL (R238). -/
def execVshl (g : SGuard) (vd va vb : BitVec 7) (t : BitVec 5)
    (s : State) : Out :=
  slotExec g (vSem (.vshl g vd va vb t)) s
/-- VSHR (R238). -/
def execVshr (g : SGuard) (vd va vb : BitVec 7) (t : BitVec 5)
    (s : State) : Out :=
  slotExec g (vSem (.vshr g vd va vb t)) s
/-- VSAR (R238). -/
def execVsar (g : SGuard) (vd va vb : BitVec 7) (t : BitVec 5)
    (s : State) : Out :=
  slotExec g (vSem (.vsar g vd va vb t)) s
/-- VCMP (R239). -/
def execVcmp (g : SGuard) (vd va vb : BitVec 7) (t : BitVec 5) (cc : BitVec 3)
    (s : State) : Out :=
  slotExec g (vSem (.vcmp g vd va vb t cc)) s
/-- VSEL (R239). -/
def execVsel (g : SGuard) (vd va vb vc : BitVec 7) (t : BitVec 5)
    (s : State) : Out :=
  slotExec g (vSem (.vsel g vd va vb vc t)) s
/-- VRCP (R240). -/
def execVrcp (g : SGuard) (vd va : BitVec 7) (t : BitVec 5) (rm : BitVec 2) (sat : BitVec 1)
    (s : State) : Out :=
  slotExec g (vSem (.vrcp g vd va t rm sat)) s
/-- VRSQ (R240). -/
def execVrsq (g : SGuard) (vd va : BitVec 7) (t : BitVec 5) (rm : BitVec 2) (sat : BitVec 1)
    (s : State) : Out :=
  slotExec g (vSem (.vrsq g vd va t rm sat)) s
/-- VEXP2 (R240). -/
def execVexp2 (g : SGuard) (vd va : BitVec 7) (t : BitVec 5) (rm : BitVec 2) (sat : BitVec 1)
    (s : State) : Out :=
  slotExec g (vSem (.vexp2 g vd va t rm sat)) s
/-- VLOG2 (R240). -/
def execVlog2 (g : SGuard) (vd va : BitVec 7) (t : BitVec 5) (rm : BitVec 2) (sat : BitVec 1)
    (s : State) : Out :=
  slotExec g (vSem (.vlog2 g vd va t rm sat)) s
/-- VCVT (R241). -/
def execVcvt (g : SGuard) (vd va : BitVec 7) (sf df : BitVec 5) (part : BitVec 2) (rm : BitVec 2) (sat : BitVec 1)
    (s : State) : Out :=
  slotExec g (vSem (.vcvt g vd va sf df part rm sat)) s
/-- VSCALE (R241). -/
def execVscale (g : SGuard) (vd va vb : BitVec 7) (sf df : BitVec 5) (part : BitVec 2) (e8 : BitVec 1) (lg : BitVec 3) (rm : BitVec 2) (sat : BitVec 1)
    (s : State) : Out :=
  slotExec g (vSem (.vscale g vd va vb sf df part e8 lg rm sat)) s
/-- VREDL (R242). -/
def execVredl (g : SGuard) (vd va : BitVec 7) (t : BitVec 5) (op : BitVec 2) (rm : BitVec 2) (sat : BitVec 1)
    (s : State) : Out :=
  slotExec g (vSem (.vredl g vd va t op rm sat)) s
/-- VREDR (R242). -/
def execVredr (g : SGuard) (vd va : BitVec 7) (t : BitVec 5) (op : BitVec 2) (cnt : BitVec 5) (rm : BitVec 2) (sat : BitVec 1)
    (s : State) : Out :=
  slotExec g (vSem (.vredr g vd va t op cnt rm sat)) s
/-- VLD (R243). -/
def execVld (g : SGuard) (vd : BitVec 7) (hd ad : BitVec 4) (use : BitVec 1) (off : BitVec 9)
    (s : State) : Out :=
  slotExec g (vSem (.vld g vd hd ad use off)) s
/-- VST (R243). -/
def execVst (g : SGuard) (va : BitVec 7) (hd ad : BitVec 4) (use : BitVec 1) (off : BitVec 9)
    (s : State) : Out :=
  slotExec g (vSem (.vst g va hd ad use off)) s
/-- VBCAST (R243). -/
def execVbcast (g : SGuard) (vd va : BitVec 7) (t : BitVec 5) (usek : BitVec 1) (lane : BitVec 8)
    (s : State) : Out :=
  slotExec g (vSem (.vbcast g vd va t usek lane)) s
/-- VMOV (R243). -/
def execVmov (g : SGuard) (vd va : BitVec 7) (s : State) : Out := slotExec g (vSem (.vmov g vd va)) s
/-- VQPOP (R244). -/
def execVqpop (g : SGuard) (vd : BitVec 7) (q : BitVec 3) (s : State) : Out := slotExec g (vSem (.vqpop g vd q)) s

end Sys2Proof.Machine
end

