-- ==== Sys2Proof/Machine/Bundle.lean ====
section
/-!
DEFINITION. Bundles: the issue of a bundle's slots together (R142 to R144, R220), loop-nest bundles (R245) and the repeat
prefix (R253).
-/
namespace Sys2Proof.Machine
open Sys2Proof.Decode (bundleS bundleV bundleM bundleC bundleX bundleRep bundleNest)

-- The slots of a bundle

/-- The operations of a bundle. -/
structure Slots where
  s : SOp
  v : VOp
  m : MOp
  c : COp
  x : XOp

/-- A slot that decodes and breaks no rule of the sealer. -/
def slotOk {α : Type} (r : Except SealCode α) (check : α → Option SealCode) : Except SealCode α :=
  match r with
  | .error e => .error e
  | .ok o => match check o with
    | some e => .error e
    | none => .ok o

/-- An M-slot operation with its start unit as unit 0: the sealer's other checks remain, and at issue a bad unit of BLOAD or
BLOADQ is BOUNDS (R68). -/
def atUnit0 : MOp → MOp
  | .bload g _ src bf corr mx => .bload g 0 src bf corr mx
  | .bloadq g _ q bf corr mx => .bloadq g 0 q bf corr mx
  | o => o

/-- The operations of a bundle, its M slot as given. -/
def slotsOf (w : BitVec 256) (m : BitVec 48) (c : BitVec 48) (x : BitVec 24) : Except SealCode Slots :=
  match slotOk (Decode.decodeS (bundleS w)) WellFormed.checkS, slotOk (Decode.decodeV (bundleV w)) WellFormed.checkV,
    slotOk (Decode.decodeM m) (fun o => WellFormed.checkM (atUnit0 o)), slotOk (Decode.decodeC c) WellFormed.checkC,
    slotOk (Decode.decodeX x) WellFormed.checkX with
  | .ok s, .ok v, .ok m, .ok c, .ok x => .ok ⟨s, v, m, c, x⟩
  | .error e, _, _, _, _ => .error e
  | _, .error e, _, _, _ => .error e
  | _, _, .error e, _, _ => .error e
  | _, _, _, .error e, _ => .error e
  | _, _, _, _, .error e => .error e

/-- The refusal of a bundle with a slot that no sealed bundle has (R149, R319). -/
def badSlot (e : SealCode) : Out := .refused (if e = .opcode then .unassigned else .reservedEncoding)

/-- Header bit ROT. -/
def bundleRot (w : BitVec 256) : Bool := w.getLsbD 1
/-- Header field SSEL. -/
def bundleSsel (w : BitVec 256) : Nat := (w.toNat / 4) % 8
/-- The must-understand hint of a bundle (R143, R151). -/
def bundleMust (w : BitVec 256) : Bool := w.getLsbD 70 || w.getLsbD 71

/-- Whether the S slot is active (R142). -/
def sActive (t : Tsq) (w : BitVec 256) : Bool := bundleSsel w = 0 || t.st.getLsbD (bundleSsel w)
/-- Whether a slot with its enable at bit `e` of the bundle is active (R143). -/
def slotActive (t : Tsq) (w : BitVec 256) (e : Nat) : Bool := !w.getLsbD e || t.st.getLsbD ((w.toNat / 2 ^ (e + 1)) % 8)

/-- An operation if its slot is active. -/
def when (p : Bool) (x : SlotSem) : List SlotSem := if p then [x] else []

/-- A trap-on-execute mark as the first check (R151, R220 step 1). -/
def marking (w : BitVec 256) (l : List SlotSem) : List SlotSem :=
  if bundleMust w then [{ check := fun _ _ => some { code := 0x01 } }] else l

-- The repeat (R253)

/-- The sequencer as an issue of a repeat reads it. -/
def Repeat.view (r : Repeat) (t : Tsq) : Tsq :=
  { t with ad := r.ads, vrot := r.vrot, vbase := r.vbase, k := r.k, planes := r.planes, acctype := r.acctype }

/-- An address register advanced by its step `n` times; the step stays. -/
def adStep (v : BitVec 48) (n : Nat) : BitVec 48 :=
  let step := sextN (v.toNat / 2 ^ 32) 16
  BitVec.ofNat 48 (wrapN ((v.toNat % 2 ^ 32 : Nat) + step * n) 32 + v.toNat / 2 ^ 32 * 2 ^ 32)

/-- The address registers that INCM names, each advanced `n` times. -/
def adsStep (m : FMap (BitVec 48)) (incm : BitVec 16) (n : Nat) : FMap (BitVec 48) :=
  (List.range 16).foldl (fun m i => if incm.getLsbD i then m.set i (adStep (m.get i 0) n) else m) m

/-- The check of issue `j` of a repeat; POISON beyond MMAQ's first issue is met later. -/
def repeatCheck (k : Core) (t : Tsq) (ctx : Nat) (r : MReq) (incm : BitVec 16) (j : Nat) : Option TTrap :=
  let t' := { t with ad := adsStep t.ad incm j }
  if r.op = 2 ∧ j ≠ 0 then runCheck t' r.c (r.rows * rowsPerC t'.acctype) else mxeCheck k t' ctx r

/-- The first failing check of issues from `j` on; `fuel` counts them. -/
def repeatChecks (k : Core) (t : Tsq) (ctx : Nat) (r : MReq) (incm : BitVec 16) : Nat → Nat → Option TTrap
  | 0, _ => none
  | fuel + 1, j => match repeatCheck k t ctx r incm j with
    | some e => some e
    | none => repeatChecks k t ctx r incm fuel (j + 1)

/-- The state of a repeat after its first issue at the issue of its bundle. -/
def TCtx.newRepeat (q : TCtx) (p : Repeat) (m : BitVec 48) (occ : Nat) : Repeat :=
  { p with
    done := 1, next := q.t + occ, ads := adsStep q.q.tsq.ad p.incm 1, vrot := q.q.tsq.vrot, vbase := q.q.tsq.vbase,
    k := q.q.tsq.k, planes := q.q.tsq.planes, acctype := q.q.tsq.acctype, m := m, seq := q.q.issueNo, slot := q.b,
    ctx := q.k.ctx, grant := q.q.tsq.grant, idx := q.q.tsq.cmdCount 1 }

/-- The advance of the address registers by the whole repeat, latency 1. -/
def TCtx.landAds (q : TCtx) (incm : BitVec 16) (n : Nat) (s : State) : State :=
  (List.range 16).foldl (fun s i =>
    if incm.getLsbD i then q.land 2 1 (.ad i) (adStep (q.q.tsq.ad.get i 0) n).toNat s else s) s

/-- An M operation under a repeat prefix. A repeat counts as one command in the index of R223 (log 84). -/
def mRepeat (p : Repeat) (m : BitVec 48) (pop : Option Nat) (o : MOp) : SlotSem :=
  let r := mReqAfter pop o
  { wait := fun q _ => mxeWait q.q q.k.ctx r
    check := fun q _ => repeatChecks q.q q.q.tsq q.k.ctx r p.incm (p.cnt + 1) 0
    commit := fun q s =>
      let j := q.mJob r
      let rep := q.newRepeat p m j.occupancy
      let s := s.modCore q.c fun k =>
        startJob { k with tsq := { k.tsq.countCmd 1 with repeat_ := if p.cnt = 0 then none else some rep } } j
      q.landAds p.incm (p.cnt + 1) s }

/-- The queue of which a V operation takes an entry. -/
def vPops : VOp → Option Nat
  | .vqpop _ _ q => some q.toNat
  | _ => none

/-- An M operation outside a repeat in a bundle whose V slot takes an entry of queue `pop`. -/
def mPlain : Option Nat → MOp → SlotSem
  | none, o => mSem o
  | some _, .mnop _ => {}
  | some q, o => mReqSem (mReqAfter (some q) o)

/-- The M operation of a bundle: plain, or under the prefix of the bundle before it. -/
def mSlot (q : TCtx) (m : BitVec 48) (pop : Option Nat) (o : MOp) : SlotSem :=
  match q.q.tsq.prefix_ with
  | some p => if p.at_ + 32 = q.pc then mRepeat p m pop o else mPlain pop o
  | none => mPlain pop o

/-- The end of a repeat at POISON met after its first issue: STREAM_FAULT as an engine fault (R253). `rows` is the queue entry
met, counted from the first of the command. -/
def repeatStop (k : Core) (r : Repeat) (rows : Nat) (t : TTrap) : Trap :=
  { code := 0x0B, info0 := t.info0, info1 := t.info1, async := true
    stop := some { engine := 1, trap := 0x0B, cmdidx := BitVec.ofNat 32 r.idx, status := mxeStatus 2 rows
                   spc := if tileRuns k r.slot r.grant then k.tsq.pc.setWidth 64 else 0, progress := k.progress } }

/-- REPEAT_ISSUE (R253): the next issue of a repeat starts in its cycle, MMAQ's also once its entries are there, and none while
an exposed read of it would fall before an earlier command's write (R250). After a late issue the next starts an occupancy
after that one (log 83). -/
def execRepeatIssue (core : Nat) (s : State) : Out :=
  let k := s.core core
  match k.tsq.repeat_ with
  | none => .next s
  | some r =>
    match Decode.decodeM r.m with
    | .error _ => .next (s.setCore core { k with tsq := { k.tsq with repeat_ := none } })
    | .ok o =>
      let q := mReq o
      let j := { newJob k (r.view k.tsq) r.ctx q with slot := r.slot, idx := r.idx, grant := r.grant, seq := r.seq }
      if k.seqCyc < r.next ∨ !canStart k j ∨ (q.op = 2 ∧ !entriesReady k r.ctx q) then .next s
      else match (if q.op = 2 then queueCheck k r.ctx q.queue q.need else none) with
        | some t =>
          let s := s.setCore core { k with tsq := { k.tsq with repeat_ := none } }
          .next (routeFault s core r.ctx (.tile r.slot r.idx r.grant) (repeatStop k r (r.done * q.need + (k.queue q.queue).data.length) t)).1
        | none =>
          let r' := { r with done := r.done + 1, next := k.seqCyc + j.occupancy, ads := adsStep r.ads r.incm 1 }
          .next (s.setCore core
            (startJob { k with tsq := { k.tsq with repeat_ := if r.cnt < r'.done then none else some r' } } j))

-- Ordinary bundles and prefixes

/-- The active slots of a bundle, in the order S, V, M, C, X. -/
def bundleSlots (w : BitVec 256) (o : Slots) (m : BitVec 48) (q : TCtx) : List SlotSem :=
  let t := q.q.tsq
  marking w (when (sActive t w) (sSem o.s) ++ when (slotActive t w 78) (vSem o.v) ++
    when (slotActive t w 141) (mSlot q m (if slotActive t w 78 then vPops o.v else none) o.m) ++ when (slotActive t w 189) (cSem o.c) ++
    when (slotActive t w 236) (xSem o.x))

/-- BUNDLE_ISSUE (R220). -/
def execBundleIssue (w : BitVec 256) (s : State) : Out :=
  match slotsOf w (bundleM w) (bundleC w) (bundleX w) with
  | .error e => badSlot e
  | .ok o => tileExec (bundleSlots w o (bundleM w)) (bundleRot w) s

/-- The prefix that a REP bundle carries (R253). -/
def prefixOf (w : BitVec 256) (pc : VAddr) : Repeat :=
  let m := (bundleM w).toNat
  { at_ := pc, cnt := bitsN m 24 9, incm := BitVec.ofNat 16 (bitsN m 40 25) }

/-- The prefix stands for the next bundle. -/
def setPrefix (w : BitVec 256) : SlotSem :=
  { after := fun q s => s.modCore q.c fun k => { k with tsq := { k.tsq with prefix_ := some (prefixOf w q.pc) } } }

/-- REPEAT_PREFIX (R253): the other slots issue as usual. -/
def execRepeatPrefix (w : BitVec 256) (s : State) : Out :=
  if bitsN (bundleM w).toNat 8 0 ≠ 0 ∨ bitsN (bundleM w).toNat 47 41 ≠ 0 then .refused .reservedEncoding
  else match slotsOf w 0 (bundleC w) (bundleX w) with
    | .error e => badSlot e
    | .ok o => tileExec (fun q => bundleSlots w o 0 q ++ [setPrefix w]) (bundleRot w) s

-- Loop nests (R245)

/-- The extents of a loop-nest bundle, level 0 first. -/
def nestExts (w : BitVec 256) : List Nat := [136, 148, 160, 172, 184].map fun b => (w.toNat >>> b) % 4096 + 1
/-- The stride field at a bit of the bundle: five 3-bit strides. -/
def nestStrides (w : BitVec 256) (b : Nat) : List Nat := (List.range 5).map fun l => (w.toNat >>> (b + 3 * l)) % 8
/-- The iterations of a loop-nest bundle. -/
def nestTotal (w : BitVec 256) : Nat := volume (nestExts w)

/-- An iteration's operand offset. -/
def nestOff (w : BitVec 256) (b j : Nat) : Nat :=
  (List.zipWith (· * ·) (unflat (nestExts w) j) (nestStrides w b)).foldl (· + ·) 0

/-- The issuer of iteration `j`. -/
def TCtx.iteration (q : TCtx) (w : BitVec 256) (j : Nat) : TCtx :=
  { q with ovd := nestOff w 196 j, ova := nestOff w 211 j, ovb := nestOff w 226 j, ovc := nestOff w 241 j }

/-- The V operation of a loop-nest bundle: its checks, and its first iteration. -/
def nestFirst (w : BitVec 256) (o : VOp) : SlotSem :=
  { check := fun q s => (vSem o).check q s, commit := fun q s => (vSem o).run (q.iteration w 0) s }

/-- The record of the iterations still to come, and the hold on the next bundle (R245). -/
def nestRest (w : BitVec 256) (active : Bool) : SlotSem :=
  { after := fun q s =>
      let n := nestTotal w
      let nest : Nest :=
        { word := w, total := n, done := 1, next := q.t + 1, active := active, rot := bundleRot w, vrot := q.q.tsq.vrot,
          vbase := q.q.tsq.vbase, acctype := q.q.tsq.acctype, k := q.q.tsq.k, seq := q.q.issueNo, slot := q.b,
          grant := q.q.tsq.grant, pc := q.pc }
      s.modCore q.c fun k =>
        { k with tsq := { k.tsq with nest := if n ≤ 1 then k.tsq.nest else some nest
                                     holdTill := if k.tsq.grant = q.q.tsq.grant then q.t + n else k.tsq.holdTill } } }

/-- LOOP_NEST_BUNDLE (R245). -/
def execLoopNestBundle (w : BitVec 256) (s : State) : Out :=
  match slotOk (Decode.decodeS (bundleS w)) WellFormed.checkS, slotOk (Decode.decodeV (bundleV w)) WellFormed.checkV with
  | .error e, _ => badSlot e
  | _, .error e => badSlot e
  | .ok so, .ok vo =>
    tileExec (fun q =>
      let t := q.q.tsq
      let v := slotActive t w 78
      nestRest w v :: marking w (when (sActive t w) (sSem so) ++ when v (nestFirst w vo)))
      (bundleRot w && decide (nestTotal w = 1)) s

/-- LOOP_NEST_ITERATION (R245): the next iteration in its cycle, its operands read in that cycle, its rows and
operation by the sequencer values of the bundle's issue (R233), its k register live while the program holds the sequencer; the
rotation after the last. -/
def execLoopNestIteration (core : Nat) (s : State) : Out :=
  let k := s.core core
  match k.tsq.nest with
  | none => .next s
  | some n =>
    if k.seqCyc < n.next then .next s
    else
      let own := k.tsq.active && decide (k.tsq.grant = n.grant)
      let t := { k.tsq with vrot := n.vrot, vbase := n.vbase, acctype := n.acctype, k := if own then k.tsq.k else n.k }
      let q : TCtx := ⟨core, n.slot, {}, { k with tsq := t, issueNo := n.seq }, 0, 0, 0, 0, 0⟩
      let s := match n.active, Decode.decodeV (bundleV n.word) with
        | true, .ok o => (vSem o).run (q.iteration n.word n.done) s
        | _, _ => s
      let last := decide (n.total ≤ n.done + 1)
      .next (s.modCore core fun k =>
        let t := { k.tsq with nest := if last then none else some { n with done := n.done + 1, next := n.next + 1 } }
        { k with tileIssued := some (s.cycle, n.pc.toNat)
                 tsq := if last && n.rot && decide (t.grant = n.grant) && t.active then rotate t else t })

end Sys2Proof.Machine
end

