-- ==== Sys2Proof/Machine/Trap.lean ====
section
/-!
DEFINITION. Traps in progress: the wait for a frame slot, the delivery of pending traps, and ERET (R216, R289, R354 to
R361, R446).
-/
namespace Sys2Proof.Machine

-- Entry

/-- TRAP_ENTRY (R354): a fibre that waits for a frame slot tries again. -/
def execTrapEntry (core slot fib : Nat) (s : State) : Out :=
  match s.fibre core slot fib with
  | some x =>
    match x.status with
    | .trapping t => .next (takeTrap s core slot fib t)
    | _ => .next s
  | none => .next s

/-- Whether a pending trap may reach a fibre now: it is ready or in a wait of R54, and not in the gate after its block's
request (R356, R357). -/
def Fibre.takesPending (x : Fibre) : Bool :=
  match x.status with
  | .ready => true
  | .waiting .lamp => false
  | .waiting _ => true
  | _ => false

/-- PENDING_TRAP_DELIVERY (R356, R357, R446): the oldest pending trap of a fibre at DEPTH 0; the fibre leaves the round in
which it waits and reissues its instruction after ERET. None is delivered while a forced save is in progress (R291). -/
def execPendingTrapDelivery (core slot fib : Nat) (s : State) : Out :=
  match fctx s core slot fib with
  | none => .next s
  | some q =>
    match q.x.takesPending, duePending (leaveRounds q.k fib) q.x fib with
    | true, some (t, k) => .next (if (s.core core).preempting then s else q.takePending s t k)
    | _, _ => .next s

-- Return

/-- CMDIDX of a frame's stop record (R363, R366). -/
def frameIdx (bytes : List Byte) : Nat := ofBytes (slice bytes 164 4)
/-- ADDR of a frame's stop record. -/
def frameStopAddr (bytes : List Byte) : Nat := ofBytes (slice bytes 168 8)

/-- The head command of the copy engine runs again from its start, if it stands stopped, is one of these, and its stop record
has the command index and address of the frame's (R289). -/
def restartHead (s : State) (c : Nat) (bytes : List Byte) (mine : CmdOwner → Bool) : State :=
  s.modCore c fun k => match k.cpe with
    | x :: t => if x.stop.any (fun r => r.cmdidx.toNat = frameIdx bytes ∧ r.addr.toNat = frameStopAddr bytes) && mine x.owner then { k with cpe := { x with stop := none } :: t } else k
    | [] => k

/-- Whether a command belongs to a fibre, or to the tile program of its block (R289, R446). -/
def resumes (b f : Nat) (tile : Bool) : CmdOwner → Bool
  | .tile b' _ _ => b' = b
  | .fibre b' f' _ => !tile && decide (b' = b) && decide (f' = f)

/-- What a returning frame says of its trap: the TILE and STOP bits, and whether the stop record is the copy engine's. -/
def frameTile (bytes : List Byte) : Bool := (ofBytes (slice bytes 16 4)).testBit 8
/-- Whether a frame holds a stop record of the copy engine (R363, R366). -/
def frameCpe (bytes : List Byte) : Bool := (ofBytes (slice bytes 16 4)).testBit 10 && decide (ofBytes (slice bytes 160 1) = 2)
/-- The PC of a frame. -/
def framePc (bytes : List Byte) : Nat := ofBytes (slice bytes 0 8)

/-- The block once a fibre has returned to DEPTH 0: its trap of R446 is no longer owed. -/
def Block.settled (k : Block) (f : Nat) (depth : Nat) : Block :=
  if depth = 0 ∧ (k.owed.map (·.1)) = some f then { k with owed := none } else k

/-- The effects of a return from a frame whose PC is aligned (R360 steps 2 to 4, R289). -/
def FCtx.resume (q : FCtx) (s : State) (bytes : List Byte) : State :=
  let tile := frameTile bytes
  let y := (restoreFibre q.x q.k.win bytes).acquire s.cycle
  let back := tile && decide ((s.core q.c).lamp = some q.b)
  let y := { y with status := if back then .waiting .lamp else .ready, readyAt := s.cycle, urgentAt := none }
  let s := s.setBlock q.c q.b ((({ q.k with fibres := q.k.fibres.set q.f y } : Block)).settled q.f y.depth)
  let s := freeFrame s q.c q.k.ctx q.x.frames.head?
  let s := if frameCpe bytes then restartHead s q.c bytes (resumes q.b q.f tile) else s
  if back then
    s.modCore q.c fun k => { k with tsq := { k.tsq with stopped := none, pc := BitVec.ofNat 56 (framePc bytes) } }
  else s

/-- The return of a fibre from its current frame (R360): ALIGN for a misaligned PC, and a failed read stops the fibre. -/
def FCtx.returnFrom (q : FCtx) (s : State) : State :=
  match readVirt s q.k.ctx q.x.frame.toNat (256 + 8 * q.k.win) with
  | .ok bytes =>
    let al := if frameTile bytes then 32 else 8
    if framePc bytes % al ≠ 0 then q.align s (framePc bytes) al else q.resume s bytes
  | _ => stopFibre (badVirt s q.k.ctx q.x.frame.toNat (256 + 8 * q.k.win)) q.c q.b q.f 2 q.x.frame.toNat q.x q.k.ctx { code := 0 } q.x.depth

/-- ERET (R216, R360): its acquire reads of the frame see every write that the handler has made; they take a place in the strong
order (R92). -/
def execEret (f : FHdr) (s : State) : Out :=
  fibreExec f ({ act := fun q s => if q.x.depth = 0 then q.illegal s 2 else q.released s .order fun q s => q.returnFrom s.stampNext }) s

end Sys2Proof.Machine
end

