-- ==== Sys2Proof/Machine/Debug.lean ====
section
/-!
DEFINITION. The debug monitor: stop notices, resumption, its commands and its breakpoint table (R361, R405 to R410).
-/
namespace Sys2Proof.Machine

/-- The physical address of a cluster's debug page (R405). -/
def debugPage (s : State) (cl : Nat) : Nat := devBits s (offDbg cl 8) 51 12 * 4096

/-- A field of the debug page, or POISON. -/
def pageNum (s : State) (cl o n : Nat) : Option Nat := (physRead s hubKey (debugPage s cl + o) n).map ofBytes

/-- Bytes written in the debug page. -/
def pagePut (s : State) (cl o : Nat) (bytes : List Byte) : State :=
  physWrite s (devBits s (offDbg cl 0) 6 1) hubKey (debugPage s cl + o) bytes

/-- BREAKPOINT_NOTICE (R410): the oldest notice enters the ring while NSTOP − NTAKEN is below 128. -/
def execBreakpointNotice (cluster : Nat) (s : State) : Out :=
  match (s.cluster cluster).notices, pageNum s cluster 2032 8, pageNum s cluster 2040 8 with
  | n :: t, some nstop, some ntaken =>
    if (nstop + 2 ^ 64 - ntaken) % 2 ^ 64 = 128 then .next s
    else
      let s := s.modCluster cluster fun q => { q with notices := t }
      let s := pagePut s cluster (2048 + 16 * (nstop % 128))
        (toBytes 8 n.frame ++ toBytes 2 n.core ++ toBytes 2 n.slot ++ toBytes 2 n.fib ++ [0, 0])
      .next (pagePut s cluster 2032 (toBytes 8 (nstop + 1)))
  | _, _, _ => .next s

/-- Whether a fibre is stopped under R361 with this frame. -/
def stoppedAt (frame : Nat) (x : Fibre) : Bool :=
  match x.status with
  | .debug => decide (x.frame.toNat = frame)
  | _ => false

/-- The fibre of a cluster that is stopped with a frame address. -/
def stoppedFibre (s : State) (cl frame : Nat) : Option FCtx :=
  (List.range Config.coresPerCluster).findSome? fun i =>
    let c := cl * Config.coresPerCluster + i
    List.findSome? (fun (bk : Nat × Block) =>
      (List.find? (fun (fx : Nat × Fibre) => stoppedAt frame fx.2) bk.2.fibres).bind fun fx => fctx s c bk.1 fx.1) (s.core c).blocks

/-- A write of DBGRSM (R361, R405): the stopped fibre with that frame resumes with the effect of ERET. -/
def resumeStopped (s : State) (cl frame : Nat) : State :=
  match stoppedFibre s cl frame with
  | some q => q.returnFrom s
  | none => s

/-- DBGRSM_WRITE (R405). -/
def execDbgrsmWrite (cluster : Nat) (v : BitVec 64) (s : State) : Out := .next (resumeStopped s cluster (v.toNat % 2 ^ 56))

-- Commands (R407 to R409)

/-- A request's argument bytes. -/
structure DbgArgs where
  bytes : List Byte
deriving DecidableEq, Repr

/-- An argument of the debug page by its byte offset there. -/
def DbgArgs.num (a : DbgArgs) (o n : Nat) : Nat := ofBytes (slice a.bytes (o - 64) n)

/-- Whether argument bytes from `lo` up to `hi` are zero (R409). -/
def DbgArgs.zero (a : DbgArgs) (lo hi : Nat) : Bool := (slice a.bytes (lo - 64) (hi - lo)).all (· == 0)

/-- A request is answered: STATUS, then RSPSEQ := REQSEQ (R407). -/
def reply (s : State) (cl status seq : Nat) : State :=
  pagePut (pagePut s cl 20 (toBytes 4 status)) cl 8 (toBytes 8 seq)

/-- A command of the monitor, if it is the one that the host requests; a request with no command's code answers
STATUS 1 (R407, R408). -/
def serve (s : State) (cl code : Nat) (act : DbgArgs → Nat × State) : Out :=
  match pageNum s cl 0 8, pageNum s cl 8 8, pageNum s cl 16 4, physRead s hubKey (debugPage s cl + 64) 192 with
  | some req, some rsp, some cmd, some args =>
    if req = rsp then .next s
    else if cmd = code then
      let r := act ⟨args⟩
      .next (reply r.2 cl r.1 req)
    else if cmd = 0 ∨ 4 < cmd then .next (reply s cl 1 req)
    else .next s
  | _, _, _, _ => .next s

/-- DEBUG_READ (R408, R409). -/
def execDebugRead (cluster : Nat) (s : State) : Out :=
  serve s cluster 1 fun a =>
    let va := a.num 64 8
    let n := a.num 72 4
    if 2 ^ 56 ≤ va ∨ n = 0 ∨ 1024 < n ∨ !a.zero 76 256 then (4, s)
    else match readVirt s (devBits s (offDbg cluster 0) 6 1) va n with
      | .ok l => (0, pagePut s cluster 256 l)
      | .fault _ bad => (3, pagePut s cluster 256 (toBytes 8 bad))
      | .poison bad => (3, pagePut (badVirt s (devBits s (offDbg cluster 0) 6 1) va n) cluster 256 (toBytes 8 bad))

/-- DEBUG_WRITE (R408, R409). -/
def execDebugWrite (cluster : Nat) (s : State) : Out :=
  serve s cluster 2 fun a =>
    let frame := a.num 64 8
    let off := a.num 72 4
    if frame % 8 ≠ 0 ∨ !a.zero 76 80 ∨ !a.zero 88 256 then (4, s)
    else match stoppedFibre s cluster frame with
      | none => (2, s)
      | some q =>
        if off ≠ 0 ∧ (off < 256 ∨ off % 8 ≠ 0 ∨ q.k.win ≤ (off - 256) / 8) then (2, s)
        else
          let ctx := devBits s (offDbg cluster 0) 6 1
          if (rangeFault s ctx 1 2 (frame + off) 8).isSome then (3, s)
          else (0, writeVirt s ctx (frame + off) (toBytes 8 (a.num 80 8)))

/-- DEBUG_RESUME (R408, R409). -/
def execDebugResume (cluster : Nat) (s : State) : Out :=
  serve s cluster 3 fun a =>
    let frame := a.num 64 8
    if frame % 8 ≠ 0 ∨ !a.zero 72 256 then (4, s)
    else if (stoppedFibre s cluster frame).isNone then (2, s)
    else (0, resumeStopped s cluster frame)

/-- Whether a field of a breakpoint entry keeps its limit: up to `hi`, or 0xFFFF for any (R409). -/
def anyOr (v hi : Nat) : Bool := decide (v ≤ hi) || decide (v = 0xFFFF)

/-- DEBUG_BPSET (R408, R409). -/
def execDebugBpset (cluster : Nat) (s : State) : Out :=
  serve s cluster 4 fun a =>
    let n := a.num 64 1
    let en := a.num 65 1
    let e : Bpt := ⟨a.num 68 4, a.num 72 2, a.num 74 2, a.num 76 2⟩
    if 15 < n ∨ 1 < en ∨ 2 ^ 24 ≤ e.imm ∨ !anyOr e.core 1535 ∨ !anyOr e.slot 1022 ∨ !anyOr e.fib 1022 ∨
        !a.zero 66 68 ∨ !a.zero 78 256 then (4, s)
    else (0, s.modCluster cluster fun q => { q with bpts := if en = 1 then q.bpts.set n e else q.bpts.del n })

-- Notices taken (R410)

/-- Whether a breakpoint entry matches a notice whose frame holds INFO0 (R409). -/
def Bpt.matches (e : Bpt) (n : Notice) (info0 : Nat) : Bool :=
  decide (e.imm = info0) && (decide (e.core = 0xFFFF) || decide (e.core = n.core)) &&
    (decide (e.slot = 0xFFFF) || decide (e.slot = n.slot)) && (decide (e.fib = 0xFFFF) || decide (e.fib = n.fib))

/-- The monitor takes the oldest notice (R410): held where an entry matches, and passed with the fibre resumed at once
where none does. -/
def takeNotice (s : State) (cl : Nat) : State :=
  match pageNum s cl 2032 8, pageNum s cl 2040 8 with
  | some nstop, some ntaken =>
    if nstop = ntaken then s
    else
      let at_ := 2048 + 16 * (ntaken % 128)
      let num (o n : Nat) : Nat := (pageNum s cl (at_ + o) n).getD 0
      let n : Notice := ⟨num 0 8, num 8 2, num 10 2, num 12 2⟩
      let info0 := match readVirt s (devBits s (offDbg cl 0) 6 1) (n.frame + 32) 8 with
        | .ok l => ofBytes l
        | _ => 2 ^ 64
      let held := (s.cluster cl).bpts.vals.any fun e => e.matches n info0
      let s := pagePut s cl (at_ + 14) [if held then 1 else 2]
      let s := if held then s else resumeStopped s cl n.frame
      pagePut s cl 2040 (toBytes 8 (ntaken + 1))
  | _, _ => s

end Sys2Proof.Machine
end

