-- ==== Sys2Proof/Machine/FibreMem.lean ====
section
/-!
DEFINITION. Fibre set: loads, stores and atomics to global memory and to the scratchpad, fences, prefetch and cache control,
queue pops and Lantern messages (R187 to R198).
-/
namespace Sys2Proof.Machine

-- Operands

/-- gaddr of R189: the exact sum of an address pair and an offset, or a non-canonical number where it is negative. A sum
of 2^64 or more does not wrap, and is non-canonical (R152 does not say: log 101, DESIGN CHOICE). -/
def gaddr (base : DWord) (off : Int) : Nat :=
  let v := (base.toNat : Int) + off
  if v < 0 then wrapN v 64 else v.toNat

/-- A register, pair or quad as bytes, least significant first; of field 0 it reads zero (R153). -/
def FCtx.regBytes (q : FCtx) (d : BitVec 8) (n : Nat) : List Byte :=
  (List.range n).flatMap fun i => toBytes 4 (q.x.g q.k.win (if d = 0 then 0 else d.toNat + i)).toNat

/-- The run of `n` registers from `d` on as bytes: one that begins at g0 goes on with g1 (R198). -/
def FCtx.runBytes (q : FCtx) (d : BitVec 8) (n : Nat) : List Byte :=
  (List.range n).flatMap fun i => toBytes 4 (q.x.g q.k.win (d.toNat + i)).toNat

/-- The registers that `n` bytes take. -/
def regsOf (n : Nat) : Nat := if n ≤ 4 then 1 else n / 4

/-- A global load (R189). -/
def loadG (f : FHdr) (d sa : BitVec 8) (kind scope : BitVec 3) (off : BitVec 16) (n : Nat) (sgn : Bool) : FSem :=
  { srcs := [srcA sa 2]
    dsts := [(d.toNat, regsOf n)]
    act := fun q s =>
      let va := gaddr (q.gg sa) off.toInt
      q.globalChecks s 0 va n fun t => q.issueAccess s
        { id := 0, slot := 0, fib := 0, op := .load sgn n, va := va, pa := t.pa va, key := t.key, size := n,
          kind := kind.toNat, scope := scope.toNat, dst := d.toNat, nregs := regsOf n } }

/-- A global store (R189); its data are read at issue. -/
def storeG (f : FHdr) (d sa : BitVec 8) (kind scope : BitVec 3) (off : BitVec 16) (n : Nat) : FSem :=
  { srcs := [srcA sa 2, srcD d (regsOf n)]
    act := fun q s =>
      let va := gaddr (q.gg sa) off.toInt
      q.globalChecks s 1 va n fun t => q.issueAccess s
        { id := 0, slot := 0, fib := 0, op := .store, va := va, pa := t.pa va, key := t.key, size := n,
          kind := kind.toNat, scope := scope.toNat, data := (q.regBytes d (regsOf n)).take n } }

/-- spm_check of R61 at the issue of a fibre instruction. -/
def FCtx.spmChecks (q : FCtx) (s : State) (hd off n : Nat) (act : Buf → Nat → State) : State :=
  match spmCheck q.k hd off n with
  | .null => q.ownership s hd
  | .bounds => q.bounds s off 0
  | .align => q.align s off n
  | .ok b a => act b a

/-- A scratchpad load (R190). -/
def loadS (f : FHdr) (d sa : BitVec 8) (hd : BitVec 4) (kind scope : BitVec 3) (off : BitVec 14) (n : Nat) (sgn : Bool) : FSem :=
  { srcs := [srcA sa]
    dsts := [(d.toNat, regsOf n)]
    act := fun q s => q.spmChecks s hd.toNat ((q.g sa).toNat + off.toNat) n fun b a => q.issueAccess s
      { id := 0, slot := 0, fib := 0, op := .load sgn n, spm := some b, pa := a, size := n, kind := kind.toNat,
        scope := scope.toNat, dst := d.toNat, nregs := regsOf n } }

/-- A scratchpad store (R190). -/
def storeS (f : FHdr) (d sa : BitVec 8) (hd : BitVec 4) (kind scope : BitVec 3) (off : BitVec 14) (n : Nat) : FSem :=
  { srcs := [srcA sa, srcD d (regsOf n)]
    act := fun q s => q.spmChecks s hd.toNat ((q.g sa).toNat + off.toNat) n fun b a => q.issueAccess s
      { id := 0, slot := 0, fib := 0, op := .store, spm := some b, pa := a, size := n, kind := kind.toNat,
        scope := scope.toNat, data := (q.regBytes d (regsOf n)).take n } }

/-- A global read-modify-write by its minor code (R191, R192). -/
def rmwG (f : FHdr) (d sa sb : BitVec 8) (kind scope : BitVec 3) (op n : Nat) (sc : Option (BitVec 8) := none) : FSem :=
  { srcs := [srcA sa 2, srcB sb (regsOf n)] ++ (match sc with
      | some r => [srcC r (regsOf n)]
      | none => [])
    dsts := [(d.toNat, regsOf n)]
    act := fun q s =>
      let va := (q.gg sa).toNat
      q.globalChecks s 2 va n fun t => q.issueAccess s
        { id := 0, slot := 0, fib := 0, op := .rmw op, va := va, pa := t.pa va, key := t.key, size := n,
          kind := kind.toNat, scope := scope.toNat, data := q.regBytes sb (regsOf n)
          cmp := (sc.map fun r => q.regBytes r (regsOf n)).getD [], dst := d.toNat, nregs := regsOf n } }

/-- A scratchpad read-modify-write (R193). -/
def rmwS (f : FHdr) (d sa sb : BitVec 8) (hd : BitVec 4) (kind scope : BitVec 2) (op n : Nat) (sc : Option (BitVec 8) := none) : FSem :=
  { srcs := [srcA sa, srcB sb (regsOf n)] ++ (match sc with
      | some r => [srcC r (regsOf n)]
      | none => [])
    dsts := [(d.toNat, regsOf n)]
    act := fun q s => q.spmChecks s hd.toNat (q.g sa).toNat n fun b a => q.issueAccess s
      { id := 0, slot := 0, fib := 0, op := .rmw op, spm := some b, pa := a, size := n, kind := kind.toNat + 1,
        scope := scope.toNat, data := q.regBytes sb (regsOf n)
        cmp := (sc.map fun r => q.regBytes r (regsOf n)).getD [], dst := d.toNat, nregs := regsOf n } }

-- Loads and stores (R189, R190)

/-- LD.G.I8 (R189). -/
def execLdGI8 (f : FHdr) (d sa : BitVec 8) (kind scope : BitVec 3) (off : BitVec 16) (s : State) : Out :=
  fibreExec f (loadG f d sa kind scope off 1 true) s
/-- LD.G.UI8 (R189). -/
def execLdGUi8 (f : FHdr) (d sa : BitVec 8) (kind scope : BitVec 3) (off : BitVec 16) (s : State) : Out :=
  fibreExec f (loadG f d sa kind scope off 1 false) s
/-- LD.G.I16 (R189). -/
def execLdGI16 (f : FHdr) (d sa : BitVec 8) (kind scope : BitVec 3) (off : BitVec 16) (s : State) : Out :=
  fibreExec f (loadG f d sa kind scope off 2 true) s
/-- LD.G.UI16 (R189). -/
def execLdGUi16 (f : FHdr) (d sa : BitVec 8) (kind scope : BitVec 3) (off : BitVec 16) (s : State) : Out :=
  fibreExec f (loadG f d sa kind scope off 2 false) s
/-- LD.G.B32 (R189). -/
def execLdGB32 (f : FHdr) (d sa : BitVec 8) (kind scope : BitVec 3) (off : BitVec 16) (s : State) : Out :=
  fibreExec f (loadG f d sa kind scope off 4 false) s
/-- LD.G.B64 (R189). -/
def execLdGB64 (f : FHdr) (d sa : BitVec 8) (kind scope : BitVec 3) (off : BitVec 16) (s : State) : Out :=
  fibreExec f (loadG f d sa kind scope off 8 false) s
/-- LD.G.B128 (R189). -/
def execLdGB128 (f : FHdr) (d sa : BitVec 8) (kind scope : BitVec 3) (off : BitVec 16) (s : State) : Out :=
  fibreExec f (loadG f d sa kind scope off 16 false) s
/-- ST.G.B8 (R189). -/
def execStGB8 (f : FHdr) (d sa : BitVec 8) (kind scope : BitVec 3) (off : BitVec 16) (s : State) : Out :=
  fibreExec f (storeG f d sa kind scope off 1) s
/-- ST.G.B16 (R189). -/
def execStGB16 (f : FHdr) (d sa : BitVec 8) (kind scope : BitVec 3) (off : BitVec 16) (s : State) : Out :=
  fibreExec f (storeG f d sa kind scope off 2) s
/-- ST.G.B32 (R189). -/
def execStGB32 (f : FHdr) (d sa : BitVec 8) (kind scope : BitVec 3) (off : BitVec 16) (s : State) : Out :=
  fibreExec f (storeG f d sa kind scope off 4) s
/-- ST.G.B64 (R189). -/
def execStGB64 (f : FHdr) (d sa : BitVec 8) (kind scope : BitVec 3) (off : BitVec 16) (s : State) : Out :=
  fibreExec f (storeG f d sa kind scope off 8) s
/-- ST.G.B128 (R189). -/
def execStGB128 (f : FHdr) (d sa : BitVec 8) (kind scope : BitVec 3) (off : BitVec 16) (s : State) : Out :=
  fibreExec f (storeG f d sa kind scope off 16) s
/-- LD.S.I8 (R190). -/
def execLdSI8 (f : FHdr) (d sa : BitVec 8) (hd : BitVec 4) (kind scope : BitVec 3) (off : BitVec 14) (s : State) : Out :=
  fibreExec f (loadS f d sa hd kind scope off 1 true) s
/-- LD.S.UI8 (R190). -/
def execLdSUi8 (f : FHdr) (d sa : BitVec 8) (hd : BitVec 4) (kind scope : BitVec 3) (off : BitVec 14) (s : State) : Out :=
  fibreExec f (loadS f d sa hd kind scope off 1 false) s
/-- LD.S.I16 (R190). -/
def execLdSI16 (f : FHdr) (d sa : BitVec 8) (hd : BitVec 4) (kind scope : BitVec 3) (off : BitVec 14) (s : State) : Out :=
  fibreExec f (loadS f d sa hd kind scope off 2 true) s
/-- LD.S.UI16 (R190). -/
def execLdSUi16 (f : FHdr) (d sa : BitVec 8) (hd : BitVec 4) (kind scope : BitVec 3) (off : BitVec 14) (s : State) : Out :=
  fibreExec f (loadS f d sa hd kind scope off 2 false) s
/-- LD.S.B32 (R190). -/
def execLdSB32 (f : FHdr) (d sa : BitVec 8) (hd : BitVec 4) (kind scope : BitVec 3) (off : BitVec 14) (s : State) : Out :=
  fibreExec f (loadS f d sa hd kind scope off 4 false) s
/-- LD.S.B64 (R190). -/
def execLdSB64 (f : FHdr) (d sa : BitVec 8) (hd : BitVec 4) (kind scope : BitVec 3) (off : BitVec 14) (s : State) : Out :=
  fibreExec f (loadS f d sa hd kind scope off 8 false) s
/-- LD.S.B128 (R190). -/
def execLdSB128 (f : FHdr) (d sa : BitVec 8) (hd : BitVec 4) (kind scope : BitVec 3) (off : BitVec 14) (s : State) : Out :=
  fibreExec f (loadS f d sa hd kind scope off 16 false) s
/-- ST.S.B8 (R190). -/
def execStSB8 (f : FHdr) (d sa : BitVec 8) (hd : BitVec 4) (kind scope : BitVec 3) (off : BitVec 14) (s : State) : Out :=
  fibreExec f (storeS f d sa hd kind scope off 1) s
/-- ST.S.B16 (R190). -/
def execStSB16 (f : FHdr) (d sa : BitVec 8) (hd : BitVec 4) (kind scope : BitVec 3) (off : BitVec 14) (s : State) : Out :=
  fibreExec f (storeS f d sa hd kind scope off 2) s
/-- ST.S.B32 (R190). -/
def execStSB32 (f : FHdr) (d sa : BitVec 8) (hd : BitVec 4) (kind scope : BitVec 3) (off : BitVec 14) (s : State) : Out :=
  fibreExec f (storeS f d sa hd kind scope off 4) s
/-- ST.S.B64 (R190). -/
def execStSB64 (f : FHdr) (d sa : BitVec 8) (hd : BitVec 4) (kind scope : BitVec 3) (off : BitVec 14) (s : State) : Out :=
  fibreExec f (storeS f d sa hd kind scope off 8) s
/-- ST.S.B128 (R190). -/
def execStSB128 (f : FHdr) (d sa : BitVec 8) (hd : BitVec 4) (kind scope : BitVec 3) (off : BitVec 14) (s : State) : Out :=
  fibreExec f (storeS f d sa hd kind scope off 16) s

-- Atomics (R191 to R193)

/-- ATOM.ADD.I32 (R192). -/
def execAtomAddI32 (f : FHdr) (d sa sb : BitVec 8) (kind scope : BitVec 3) (s : State) : Out :=
  fibreExec f (rmwG f d sa sb kind scope 0 4) s
/-- ATOMS.ADD.I32 (R193). -/
def execAtomsAddI32 (f : FHdr) (d sa sb : BitVec 8) (hd : BitVec 4) (kind scope : BitVec 2) (s : State) : Out :=
  fibreExec f (rmwS f d sa sb hd kind scope 0 4) s
/-- ATOM.ADD.I64 (R192). -/
def execAtomAddI64 (f : FHdr) (d sa sb : BitVec 8) (kind scope : BitVec 3) (s : State) : Out :=
  fibreExec f (rmwG f d sa sb kind scope 1 8) s
/-- ATOMS.ADD.I64 (R193). -/
def execAtomsAddI64 (f : FHdr) (d sa sb : BitVec 8) (hd : BitVec 4) (kind scope : BitVec 2) (s : State) : Out :=
  fibreExec f (rmwS f d sa sb hd kind scope 1 8) s
/-- ATOM.AND.B32 (R192). -/
def execAtomAndB32 (f : FHdr) (d sa sb : BitVec 8) (kind scope : BitVec 3) (s : State) : Out :=
  fibreExec f (rmwG f d sa sb kind scope 2 4) s
/-- ATOMS.AND.B32 (R193). -/
def execAtomsAndB32 (f : FHdr) (d sa sb : BitVec 8) (hd : BitVec 4) (kind scope : BitVec 2) (s : State) : Out :=
  fibreExec f (rmwS f d sa sb hd kind scope 2 4) s
/-- ATOM.OR.B32 (R192). -/
def execAtomOrB32 (f : FHdr) (d sa sb : BitVec 8) (kind scope : BitVec 3) (s : State) : Out :=
  fibreExec f (rmwG f d sa sb kind scope 3 4) s
/-- ATOMS.OR.B32 (R193). -/
def execAtomsOrB32 (f : FHdr) (d sa sb : BitVec 8) (hd : BitVec 4) (kind scope : BitVec 2) (s : State) : Out :=
  fibreExec f (rmwS f d sa sb hd kind scope 3 4) s
/-- ATOM.XOR.B32 (R192). -/
def execAtomXorB32 (f : FHdr) (d sa sb : BitVec 8) (kind scope : BitVec 3) (s : State) : Out :=
  fibreExec f (rmwG f d sa sb kind scope 4 4) s
/-- ATOMS.XOR.B32 (R193). -/
def execAtomsXorB32 (f : FHdr) (d sa sb : BitVec 8) (hd : BitVec 4) (kind scope : BitVec 2) (s : State) : Out :=
  fibreExec f (rmwS f d sa sb hd kind scope 4 4) s
/-- ATOM.MIN.I32 (R192). -/
def execAtomMinI32 (f : FHdr) (d sa sb : BitVec 8) (kind scope : BitVec 3) (s : State) : Out :=
  fibreExec f (rmwG f d sa sb kind scope 5 4) s
/-- ATOMS.MIN.I32 (R193). -/
def execAtomsMinI32 (f : FHdr) (d sa sb : BitVec 8) (hd : BitVec 4) (kind scope : BitVec 2) (s : State) : Out :=
  fibreExec f (rmwS f d sa sb hd kind scope 5 4) s
/-- ATOM.MAX.I32 (R192). -/
def execAtomMaxI32 (f : FHdr) (d sa sb : BitVec 8) (kind scope : BitVec 3) (s : State) : Out :=
  fibreExec f (rmwG f d sa sb kind scope 6 4) s
/-- ATOMS.MAX.I32 (R193). -/
def execAtomsMaxI32 (f : FHdr) (d sa sb : BitVec 8) (hd : BitVec 4) (kind scope : BitVec 2) (s : State) : Out :=
  fibreExec f (rmwS f d sa sb hd kind scope 6 4) s
/-- ATOM.MIN.UI32 (R192). -/
def execAtomMinUi32 (f : FHdr) (d sa sb : BitVec 8) (kind scope : BitVec 3) (s : State) : Out :=
  fibreExec f (rmwG f d sa sb kind scope 7 4) s
/-- ATOMS.MIN.UI32 (R193). -/
def execAtomsMinUi32 (f : FHdr) (d sa sb : BitVec 8) (hd : BitVec 4) (kind scope : BitVec 2) (s : State) : Out :=
  fibreExec f (rmwS f d sa sb hd kind scope 7 4) s
/-- ATOM.MAX.UI32 (R192). -/
def execAtomMaxUi32 (f : FHdr) (d sa sb : BitVec 8) (kind scope : BitVec 3) (s : State) : Out :=
  fibreExec f (rmwG f d sa sb kind scope 8 4) s
/-- ATOMS.MAX.UI32 (R193). -/
def execAtomsMaxUi32 (f : FHdr) (d sa sb : BitVec 8) (hd : BitVec 4) (kind scope : BitVec 2) (s : State) : Out :=
  fibreExec f (rmwS f d sa sb hd kind scope 8 4) s
/-- ATOM.EXCH.B32 (R192). -/
def execAtomExchB32 (f : FHdr) (d sa sb : BitVec 8) (kind scope : BitVec 3) (s : State) : Out :=
  fibreExec f (rmwG f d sa sb kind scope 9 4) s
/-- ATOMS.EXCH.B32 (R193). -/
def execAtomsExchB32 (f : FHdr) (d sa sb : BitVec 8) (hd : BitVec 4) (kind scope : BitVec 2) (s : State) : Out :=
  fibreExec f (rmwS f d sa sb hd kind scope 9 4) s
/-- ATOM.EXCH.B64 (R192). -/
def execAtomExchB64 (f : FHdr) (d sa sb : BitVec 8) (kind scope : BitVec 3) (s : State) : Out :=
  fibreExec f (rmwG f d sa sb kind scope 10 8) s
/-- ATOMS.EXCH.B64 (R193). -/
def execAtomsExchB64 (f : FHdr) (d sa sb : BitVec 8) (hd : BitVec 4) (kind scope : BitVec 2) (s : State) : Out :=
  fibreExec f (rmwS f d sa sb hd kind scope 10 8) s
/-- ATOM.CAS.B32 (R192). -/
def execAtomCasB32 (f : FHdr) (d sa sb sc : BitVec 8) (kind scope : BitVec 3) (s : State) : Out :=
  fibreExec f (rmwG f d sa sb kind scope 11 4 (some sc)) s
/-- ATOMS.CAS.B32 (R193). -/
def execAtomsCasB32 (f : FHdr) (d sa sb sc : BitVec 8) (hd : BitVec 4) (kind scope : BitVec 2) (s : State) : Out :=
  fibreExec f (rmwS f d sa sb hd kind scope 11 4 (some sc)) s
/-- ATOM.CAS.B64 (R192). -/
def execAtomCasB64 (f : FHdr) (d sa sb sc : BitVec 8) (kind scope : BitVec 3) (s : State) : Out :=
  fibreExec f (rmwG f d sa sb kind scope 12 8 (some sc)) s
/-- ATOMS.CAS.B64 (R193). -/
def execAtomsCasB64 (f : FHdr) (d sa sb sc : BitVec 8) (hd : BitVec 4) (kind scope : BitVec 2) (s : State) : Out :=
  fibreExec f (rmwS f d sa sb hd kind scope 12 8 (some sc)) s
/-- ATOM.ADD.F32 (R192). -/
def execAtomAddF32 (f : FHdr) (d sa sb : BitVec 8) (kind scope : BitVec 3) (s : State) : Out :=
  fibreExec f (rmwG f d sa sb kind scope 13 4) s
/-- ATOMS.ADD.F32 (R193). -/
def execAtomsAddF32 (f : FHdr) (d sa sb : BitVec 8) (hd : BitVec 4) (kind scope : BitVec 2) (s : State) : Out :=
  fibreExec f (rmwS f d sa sb hd kind scope 13 4) s
/-- ATOM.MIN.F32 (R192). -/
def execAtomMinF32 (f : FHdr) (d sa sb : BitVec 8) (kind scope : BitVec 3) (s : State) : Out :=
  fibreExec f (rmwG f d sa sb kind scope 14 4) s
/-- ATOMS.MIN.F32 (R193). -/
def execAtomsMinF32 (f : FHdr) (d sa sb : BitVec 8) (hd : BitVec 4) (kind scope : BitVec 2) (s : State) : Out :=
  fibreExec f (rmwS f d sa sb hd kind scope 14 4) s
/-- ATOM.MAX.F32 (R192). -/
def execAtomMaxF32 (f : FHdr) (d sa sb : BitVec 8) (kind scope : BitVec 3) (s : State) : Out :=
  fibreExec f (rmwG f d sa sb kind scope 15 4) s
/-- ATOMS.MAX.F32 (R193). -/
def execAtomsMaxF32 (f : FHdr) (d sa sb : BitVec 8) (hd : BitVec 4) (kind scope : BitVec 2) (s : State) : Out :=
  fibreExec f (rmwS f d sa sb hd kind scope 15 4) s

-- Fences and cache control (R194 to R196)

/-- FENCE (R88, R194): issue goes on, and the part holds back the accesses that it orders, whatever its scope (log 72); once
it is passed, no older L1 copy serves the fibre's later loads (R70, R88, log 95), and a .sc fence has its place in the strong
order (R92). -/
def execFence (f : FHdr) (order : BitVec 2) (scope : BitVec 3) (s : State) : Out :=
  fibreExec f ({
    act := fun q s =>
      if (openOf s q.c q.b q.f).isEmpty then q.retire (if order = 3 then s.stampNext else s) (q.x.acquire s.cycle)
      else q.leaveMark (q.retire s q.x) (.fence order.toNat) }) s

/-- A translation for an instruction that traps on none: a cached or walked page that may be read. -/
def quietPage (s : State) (ctx va : Nat) : Option Tlb :=
  match translate s ctx 0 va with
  | .ok t => some t
  | .error _ => none

/-- PREF (R195). -/
def execPref (f : FHdr) (sa : BitVec 8) (s : State) : Out :=
  fibreExec f ({
    srcs := [srcA sa 2]
    act := fun q s =>
      let va := (q.gg sa).toNat
      match quietPage s q.k.ctx va with
      | none => q.retire s q.x
      | some t => q.issueAccess s
        { id := 0, slot := 0, fib := 0, op := .pref (q.h.h ≠ 1), va := va, pa := t.pa va / 128 * 128, key := t.key, size := 0 } }) s

/-- The L1 lease of a line ends for accesses of a core (R196). -/
def dropLease (s : State) (c line : Nat) : State :=
  s.modCore (l1Core s c (line * 128)) fun k => { k with l1 := k.l1.del line }

/-- Every L1 lease ends that may serve weak loads of a core: its own L1's, and in a fused cluster those of all its cores
(R71, R196). -/
def dropLeases (s : State) (c : Nat) : State :=
  if (s.cluster (clusterOf c)).fused then
    { s with cores := s.cores.map fun p => (p.1, if clusterOf p.1 = clusterOf c then { p.2 with l1 := [] } else p.2) }
  else s.modCore c fun k => { k with l1 := [] }

/-- LDROP (R196). -/
def execLdrop (f : FHdr) (sa : BitVec 8) (s : State) : Out :=
  fibreExec f ({
    srcs := [srcA sa 2]
    act := fun q s =>
      let s := q.retire s q.x
      if sa = 0 then dropLeases s q.c
      else match quietPage s q.k.ctx (q.gg sa).toNat with
        | none => s
        | some t => dropLease s q.c (t.pa (q.gg sa).toNat / 128) }) s

-- Queues and messages (R197, R198)

/-- 64 registers and a predicate written with latency 8 (R197). -/
def popped (q : FCtx) (s : State) (d pe : BitVec 8) (words : List Word) (eos : Bool) : Fibre :=
  let x := (if d = 0 then q.x else q.x.setRegs q.k.win d.toNat words).setPred pe.toNat eos
  let x := if d = 0 then x else (List.range (min 64 (256 - d.toNat))).foldl (fun x i => x.holdKey (d.toNat + i) (s.cycle + 8)) x
  x.holdKey (256 + pe.toNat) (s.cycle + 8)

/-- STREAM_FAULT of the issuing fibre (R281, R362). -/
def FCtx.streamFault (q : FCtx) (s : State) (n : Nat) (pay : List Byte) : State :=
  q.trapAt s 0x0B 0 (streamTrap n pay).info0 (streamTrap n pay).info1

/-- QPOP (R197, R53). -/
def execQpop (f : FHdr) (d q pe : BitVec 8) (s : State) : Out :=
  let qn := q.toNat
  fibreExec f ({
    dsts := [(d.toNat, 64)]
    act := fun q s =>
      let k := s.core q.c
      match k.qOwner with
      | none => q.wait s (.qempty qn)
      | some o =>
        if o ≠ q.k.ctx then q.bounds s qn 0
        else match (k.queue qn).data, (k.queue qn).term with
          | e :: rest, _ =>
            let words := (List.range 64).map fun i => BitVec.ofNat 32 (ofBytes (slice e (4 * i) 4))
            let s := s.modCore q.c fun k => { k with queues := k.queues.set qn { (k.queue qn) with data := rest } }
            q.retire s (popped q s d pe words false)
          | [], some (.poison, pay) => q.streamFault s qn pay
          | [], some _ => q.retire s (popped q s d pe (List.replicate 64 0) true)
          | [], none => q.wait s (.qempty qn) }) s

/-- LMSG (R198, R357): it does not wait at issue; the message, a release, is sent once the fibre's earlier accesses have been
performed, and its status returns to d. -/
def execLmsg (f : FHdr) (d sa sb : BitVec 8) (len : BitVec 3) (sel : BitVec 4) (s : State) : Out :=
  fibreExec f ({
    srcs := [srcA sa 2, runB sb (len.toNat + 1)]
    dsts := [(d.toNat, 1)]
    act := fun q s =>
      let va := (q.gg sa).toNat
      q.translated s 0 va fun t => q.issueAccess s
        { id := 0, slot := 0, fib := 0, op := .lmsg sel.toNat, va := va, pa := t.pa va, key := t.key, size := 0, kind := 3,
          data := q.runBytes sb (len.toNat + 1), dst := d.toNat, nregs := 1 } }) s

end Sys2Proof.Machine
end

