-- ==== Sys2Proof/Machine/FibreEngine.lean ====
section
/-!
DEFINITION. Fibre set: handles passed between cores (R62 to R64, R199), copies and publishes (R207 to R210).
-/
namespace Sys2Proof.Machine

-- Handles

/-- Whether an SPM range of a core lies in a buffer. -/
def Buf.covers (b : Buf) (c a n : Nat) : Bool := decide (b.home = c) && decide (b.base < a + n) && decide (a < b.base + b.len)

/-- Whether a list of buffers holds one. -/
def hasBuf (l : List Buf) (b : Buf) : Bool := l.any fun x => x = b

/-- Whether an access or an engine of the block still uses a buffer (R62, R199). -/
def bufBusy (k : Core) (c slot : Nat) (b : Buf) : Bool :=
  (k.pend.any fun a => a.open_ && decide (a.slot = slot) && decide (a.spm = some b)) ||
  (k.cpe.any fun x => decide (x.owner.slot = slot) && (decide (x.srcBuf = some b) || decide (x.dstBuf = some b))) ||
  (k.reads.any fun r => b.covers c r.base r.len) ||
  (k.landings.any fun l => match l.dst with
    | .spm a n => b.covers c a n
    | _ => false) ||
  (match k.xcu.run with
    | some r => decide (r.slot = slot) && hasBuf r.bufs b
    | none => false)

/-- HGIVE (R62, R199). -/
def execHgive (f : FHdr) (hd sb : BitVec 8) (tag : BitVec 16) (s : State) : Out :=
  fibreExec f ({
    srcs := [srcB sb]
    act := fun q s =>
      match q.k.handles.find? hd.toNat with
      | none => q.ownership s hd.toNat
      | some b =>
        if !b.valid then q.ownership s hd.toNat
        else if 191 < (q.g sb).toNat then q.bounds s (q.g sb).toNat 1
        else q.released s .handle fun q s =>
          let target := clusterOf q.c * Config.coresPerCluster + (q.g sb).toNat
          if bufBusy (s.core q.c) q.c q.b b ∨ 16 ≤ (s.core target).inbox.length then q.wait s .handle
          else
            let s := (q.retire s q.x).modBlock q.c q.b fun k => { k with handles := k.handles.del hd.toNat }
            s.modCore target fun k => { k with inbox := k.inbox ++ [⟨b, tag, q.k.ctx⟩] } }) s

/-- The list without its first element that satisfies a test. -/
def dropFirst {α : Type} (p : α → Bool) : List α → List α
  | [] => []
  | a :: t => if p a then t else a :: dropFirst p t

/-- HTAKE (R62, R199). -/
def execHtake (f : FHdr) (hd : BitVec 8) (tag : BitVec 16) (s : State) : Out :=
  fibreExec f ({
    act := fun q s =>
      if (q.k.handles.find? hd.toNat).isSome then q.bounds s hd.toNat 0
      else
        let mine (e : InboxEntry) : Bool := decide (e.ctx = q.k.ctx) && decide (e.tag = tag)
        match (s.core q.c).inbox.find? mine with
        | none => q.wait s .handle
        | some e =>
          let s := (q.retire s (q.x.acquire s.cycle)).modBlock q.c q.b fun k => { k with handles := k.handles.set hd.toNat e.buf }
          s.modCore q.c fun k => { k with inbox := dropFirst mine k.inbox } }) s

-- Copies

/-- A failed check as a precise trap of the issuing fibre. -/
def FCtx.failed (q : FCtx) (s : State) (t : TTrap) : State := q.trapAt s t.code t.addr t.info0 t.info1

/-- Step 4 of R208 on a record's control word and reserved bytes: the operation and factor, or BOUNDS. -/
def recordControl (bytes : List Byte) : Except TTrap (Nat × Nat) :=
  let w := ofBytes (slice bytes 128 8)
  let op := w % 16
  let fac := bitsN w 15 8
  if ¬ (op = 1 ∨ op = 3 ∨ op = 4) ∨ bitsN w 7 4 ≠ 0 ∨ bitsN w 63 16 ≠ 0 ∨ (op = 1 ∧ fac ≠ 0) then .error (tBounds w 30)
  else if ofBytes (slice bytes 136 120) ≠ 0 then .error (tBounds (ofBytes (slice bytes 136 8)) 31)
  else .ok (op, fac)

/-- An XCOPY whose record has been read (R208 steps 4 and 5). -/
def FCtx.queueCopy (q : FCtx) (s : State) (d : BitVec 8) (bar : Option Nat) (pm pt : Bool) (bytes : List Byte) : State :=
  match recordControl bytes with
  | .error t => q.failed s t
  | .ok (op, fac) =>
    let src := BitVec.ofNat 512 (ofBytes (bytes.take 64))
    let dst := BitVec.ofNat 512 (ofBytes (slice bytes 64 64))
    match copyCheck q.k op pm src dst 0 0 fac with
    | some t => q.failed s t
    | none =>
      match bar, bar.bind q.k.barOf with
      | some n, none => q.bounds s n 2
      | _, cb =>
        let p := newPromise s
        let s := enqueueCmd s.draw q.c
          { owner := .fibre q.b q.f q.x.xcopies, op := op, pm := pm, ctx := q.k.ctx, src := src, dst := dst,
            srcBuf := descBuf q.k src, dstBuf := descBuf q.k dst, factor := fac, bar := cb, promise := p, pt := pt }
        ({ q with x := { q.x with xcopies := q.x.xcopies + 1 } } : FCtx).putPair s d.toNat (BitVec.ofNat 64 p) 4

/-- XCOPY (R207, R208). A record that reads POISON stops the command as an engine fault; its
status gives OP 2 for .PM and else 0, as the operation was not read (R99, R288, log 16). -/
def execXcopy (f : FHdr) (d sa bar : BitVec 8) (pm pt arr : BitVec 1) (s : State) : Out :=
  fibreExec f ({
    srcs := [srcA sa 2]
    dsts := [(d.toNat, 2)]
    act := fun q s =>
      let va := (q.gg sa).toNat
      q.globalChecks s 0 va 256 fun t =>
        if !cpeFree (s.core q.c) then q.wait s .engbusy
        else q.released s .engbusy fun q s =>
          match physRead s t.key (t.pa va) 256 with
          | some bytes => q.queueCopy s d (if arr = 1 then some bar.toNat else none) (pm = 1) (pt = 1) bytes
          | none =>
            let st := if pm = 1 then 33 else 1
            let k := s.core q.c
            let r : StopRec := { engine := 2, trap := 0x03, cmdidx := BitVec.ofNat 32 q.x.xcopies, addr := BitVec.ofNat 64 va, status := st
                                 spc := k.spc, progress := k.progress }
            let s := badRead s q.k.ctx (t.pa va) 256
            addPending (q.retire s { q.x with xcopies := q.x.xcopies + 1 }) q.c q.b q.f (stopTrap r 0) }) s

/-- The first page of a set that a publish finds at fault, or, before any such page, without a cached translation (R210 step 4,
R385). -/
def publishLook (s : State) (ctx : Nat) : List Nat → Option (Nat × Option (PFault × Nat))
  | [] => none
  | p :: t =>
    if (tlbFind s ctx p).isNone then some (p, none)
    else match publishFault s ctx [p] with
      | some e => some (p, some e)
      | none => publishLook s ctx t

/-- PUBLISH (R210): its point is taken when no publish-mode command into the set is outstanding (R101). -/
def execPublish (f : FHdr) (sa sb : BitVec 8) (s : State) : Out :=
  fibreExec f ({
    srcs := [srcA sa 2, srcB sb]
    act := fun q s =>
      let base := (q.gg sa).toNat
      let len := (q.g sb).toNat
      if len = 0 then q.bounds s 0 1
      else if 2 ^ 56 ≤ base then q.pageFault s ⟨0, 0⟩ 1 base
      else if base % 4096 ≠ 0 then q.align s base 4096
      else match publishLook s q.k.ctx (pagesOf base len) with
        | some (p, none) => askWalk (q.wait s (.xlate 1 (4096 * p))) (dieOf q.c) q.k.ctx p
        | some (_, some (e, va)) => q.pageFault s e 1 va
        | none => q.released s .engbusy fun q s =>
          if publishBlocked s q.k.ctx base len s.cycle then q.wait s .engbusy
          else publishAll (q.retire s (q.x.acquire s.cycle)) q.k.ctx (pagesOf base len) }) s

end Sys2Proof.Machine
end

