-- ==== Sys2Proof/Machine/FibreFloat.lean ====
section
/-!
DEFINITION. Fibre set: FP32, packed 16-bit, FP64, special functions and conversion (R166 to R172).
-/
namespace Sys2Proof.Machine

/-- A 32-bit code as a register value. -/
def code32 (n : Nat) : Word := BitVec.ofNat 32 n

/-- FADD (R166). -/
def execFadd (f : FHdr) (d sa sb : BitVec 8) (rm : BitVec 2) (s : State) : Out :=
  fibreExec f (form2 sa sb d 5 fun a b => code32 (fAdd 0x11 rm.toNat a.toNat b.toNat)) s
/-- FSUB (R166). -/
def execFsub (f : FHdr) (d sa sb : BitVec 8) (rm : BitVec 2) (s : State) : Out :=
  fibreExec f (form2 sa sb d 5 fun a b => code32 (fSub 0x11 rm.toNat a.toNat b.toNat)) s
/-- FMUL (R166). -/
def execFmul (f : FHdr) (d sa sb : BitVec 8) (rm : BitVec 2) (s : State) : Out :=
  fibreExec f (form2 sa sb d 5 fun a b => code32 (fMul 0x11 rm.toNat a.toNat b.toNat)) s
/-- FFMA (R166). -/
def execFfma (f : FHdr) (d sa sb sc : BitVec 8) (rm : BitVec 2) (s : State) : Out :=
  fibreExec f (form3 sa sb sc d 5 fun a b c => code32 (fFma 0x11 rm.toNat a.toNat b.toNat c.toNat)) s
/-- FMIN (R166, R128). -/
def execFmin (f : FHdr) (d sa sb : BitVec 8) (s : State) : Out :=
  fibreExec f (form2 sa sb d 5 fun a b => code32 (fminmax false 0x11 a.toNat b.toNat)) s
/-- FMAX (R166, R128). -/
def execFmax (f : FHdr) (d sa sb : BitVec 8) (s : State) : Out :=
  fibreExec f (form2 sa sb d 5 fun a b => code32 (fminmax true 0x11 a.toNat b.toNat)) s
/-- FABS (R166). -/
def execFabs (f : FHdr) (d sa : BitVec 8) (s : State) : Out :=
  fibreExec f (form1 sa d 4 fun a => code32 (fAbs 0x11 a.toNat)) s
/-- FNEG (R166). -/
def execFneg (f : FHdr) (d sa : BitVec 8) (s : State) : Out :=
  fibreExec f (form1 sa d 4 fun a => code32 (fNeg 0x11 a.toNat)) s
/-- FDIV (R166). -/
def execFdiv (f : FHdr) (d sa sb : BitVec 8) (rm : BitVec 2) (s : State) : Out :=
  fibreExec f (form2 sa sb d 20 fun a b => code32 (fDiv 0x11 rm.toNat a.toNat b.toNat)) s

/-- The lane format of a packed instruction (R167). -/
def halfFmt (bf : BitVec 1) : Nat := if bf = 1 then 0x13 else 0x12

/-- Both lanes of a packed result (R167). -/
def halves2 (v : Nat → Nat → Nat → Nat) (a b c : Word) : Word :=
  code32 (v (a.toNat % 2 ^ 16) (b.toNat % 2 ^ 16) (c.toNat % 2 ^ 16) +
    2 ^ 16 * v (a.toNat / 2 ^ 16) (b.toNat / 2 ^ 16) (c.toNat / 2 ^ 16))

/-- HADD2 (R167). -/
def execHadd2 (f : FHdr) (d sa sb : BitVec 8) (rm : BitVec 2) (bf : BitVec 1) (s : State) : Out :=
  fibreExec f (form2 sa sb d 5 fun a b => halves2 (fun x y _ => fAdd (halfFmt bf) rm.toNat x y) a b 0) s
/-- HSUB2 (R167). -/
def execHsub2 (f : FHdr) (d sa sb : BitVec 8) (rm : BitVec 2) (bf : BitVec 1) (s : State) : Out :=
  fibreExec f (form2 sa sb d 5 fun a b => halves2 (fun x y _ => fSub (halfFmt bf) rm.toNat x y) a b 0) s
/-- HMUL2 (R167). -/
def execHmul2 (f : FHdr) (d sa sb : BitVec 8) (rm : BitVec 2) (bf : BitVec 1) (s : State) : Out :=
  fibreExec f (form2 sa sb d 5 fun a b => halves2 (fun x y _ => fMul (halfFmt bf) rm.toNat x y) a b 0) s
/-- HFMA2 (R167). -/
def execHfma2 (f : FHdr) (d sa sb sc : BitVec 8) (rm : BitVec 2) (bf : BitVec 1) (s : State) : Out :=
  fibreExec f (form3 sa sb sc d 5 fun a b c => halves2 (fun x y z => fFma (halfFmt bf) rm.toNat x y z) a b c) s
/-- HMIN2 (R167). -/
def execHmin2 (f : FHdr) (d sa sb : BitVec 8) (bf : BitVec 1) (s : State) : Out :=
  fibreExec f (form2 sa sb d 5 fun a b => halves2 (fun x y _ => fminmax false (halfFmt bf) x y) a b 0) s
/-- HMAX2 (R167). -/
def execHmax2 (f : FHdr) (d sa sb : BitVec 8) (bf : BitVec 1) (s : State) : Out :=
  fibreExec f (form2 sa sb d 5 fun a b => halves2 (fun x y _ => fminmax true (halfFmt bf) x y) a b 0) s

/-- A 64-bit code as a pair value. -/
def code64 (n : Nat) : DWord := BitVec.ofNat 64 n

/-- DADD (R168). -/
def execDadd (f : FHdr) (d sa sb : BitVec 8) (rm : BitVec 2) (s : State) : Out :=
  fibreExec f (pair2 sa sb d 10 fun a b => code64 (fAdd 0x10 rm.toNat a.toNat b.toNat)) s
/-- DSUB (R168). -/
def execDsub (f : FHdr) (d sa sb : BitVec 8) (rm : BitVec 2) (s : State) : Out :=
  fibreExec f (pair2 sa sb d 10 fun a b => code64 (fSub 0x10 rm.toNat a.toNat b.toNat)) s
/-- DMUL (R168). -/
def execDmul (f : FHdr) (d sa sb : BitVec 8) (rm : BitVec 2) (s : State) : Out :=
  fibreExec f (pair2 sa sb d 10 fun a b => code64 (fMul 0x10 rm.toNat a.toNat b.toNat)) s
/-- DFMA (R168). -/
def execDfma (f : FHdr) (d sa sb sc : BitVec 8) (rm : BitVec 2) (s : State) : Out :=
  fibreExec f (pair3 sa sb sc d 10 fun a b c => code64 (fFma 0x10 rm.toNat a.toNat b.toNat c.toNat)) s
/-- DMIN (R168). -/
def execDmin (f : FHdr) (d sa sb : BitVec 8) (s : State) : Out :=
  fibreExec f (pair2 sa sb d 5 fun a b => code64 (fminmax false 0x10 a.toNat b.toNat)) s
/-- DMAX (R168). -/
def execDmax (f : FHdr) (d sa sb : BitVec 8) (s : State) : Out :=
  fibreExec f (pair2 sa sb d 5 fun a b => code64 (fminmax true 0x10 a.toNat b.toNat)) s
/-- DDIV (R168). -/
def execDdiv (f : FHdr) (d sa sb : BitVec 8) (rm : BitVec 2) (s : State) : Out :=
  fibreExec f (pair2 sa sb d 48 fun a b => code64 (fDiv 0x10 rm.toNat a.toNat b.toNat)) s
/-- DSQRT (R168). -/
def execDsqrt (f : FHdr) (d sa : BitVec 8) (rm : BitVec 2) (s : State) : Out :=
  fibreExec f (pair1 sa d 48 fun a => code64 (fSqrt 0x10 rm.toNat a.toNat)) s

-- Special functions (R169)

/-- RCP (R169). -/
def execRcp (f : FHdr) (d sa : BitVec 8) (s : State) : Out :=
  fibreExec f (form1 sa d 12 fun a => code32 (rcpCode 0x11 0 false (valueOf a.toNat 0x11))) s
/-- RSQ (R169). -/
def execRsq (f : FHdr) (d sa : BitVec 8) (s : State) : Out :=
  fibreExec f (form1 sa d 12 fun a => code32 (rsqCode 0x11 0 false (valueOf a.toNat 0x11))) s
/-- SQRT (R169). -/
def execSqrt (f : FHdr) (d sa : BitVec 8) (s : State) : Out :=
  fibreExec f (form1 sa d 12 fun a => code32 (fSqrt 0x11 0 a.toNat)) s
/-- EXP2 (R169). -/
def execExp2 (f : FHdr) (d sa : BitVec 8) (s : State) : Out :=
  fibreExec f (form1 sa d 12 fun a => code32 (exp2Code a)) s
/-- LOG2 (R169). -/
def execLog2 (f : FHdr) (d sa : BitVec 8) (s : State) : Out :=
  fibreExec f (form1 sa d 12 fun a => code32 (log2Code a)) s
/-- SIN (R169). -/
def execSin (f : FHdr) (d sa : BitVec 8) (s : State) : Out := fibreExec f (form1 sa d 12 fun a => code32 (sinCode a)) s
/-- COS (R169). -/
def execCos (f : FHdr) (d sa : BitVec 8) (s : State) : Out := fibreExec f (form1 sa d 12 fun a => code32 (cosCode a)) s
/-- TANH (R169). -/
def execTanh (f : FHdr) (d sa : BitVec 8) (s : State) : Out :=
  fibreExec f (form1 sa d 12 fun a => code32 (tanhCode a)) s

-- Conversion (R170 to R172)

/-- A converted code placed in its destination (R170): INT8 and INT16 sign-extended, narrower codes zero-extended. -/
def placeCode (df c : Nat) : DWord :=
  if df = 0x00 then BitVec.ofInt 64 (sextN c 8)
  else if df = 0x02 then BitVec.ofInt 64 (sextN c 16)
  else BitVec.ofNat 64 c

/-- CVT (R170). -/
def execCvt (f : FHdr) (d sa : BitVec 8) (df sf : BitVec 5) (sat : BitVec 1) (rm : BitVec 2) (s : State) : Out :=
  fibreExec f (fixW [srcW 0 sa (fmtWidth sf.toNat = 64)] [] d (fmtWidth df.toNat = 64) 5 fun q =>
    placeCode df.toNat (convert df.toNat sf.toNat rm.toNat (sat = 1)
      ((q.gw sa (fmtWidth sf.toNat = 64)).toNat % 2 ^ fmtWidth sf.toNat))) s
/-- CVTS (R171). -/
def execCvts (f : FHdr) (d sa sb : BitVec 8) (e8 : BitVec 1) (df sf : BitVec 5) (sat : BitVec 1) (rm : BitVec 2)
    (s : State) : Out :=
  fibreExec f (form2 sa sb d 5 fun a b =>
    lo32 (placeCode df.toNat (convert df.toNat sf.toNat rm.toNat (sat = 1) (a.toNat % 2 ^ fmtWidth sf.toNat)
      (some (valueOf (b.toNat % 256) (if e8 = 1 then 0x1F else 0x1E)))))) s
/-- CVTPK (R172). -/
def execCvtpk (f : FHdr) (d sa sb sc : BitVec 8) (df : BitVec 5) (sat : BitVec 1) (rm : BitVec 2) (s : State) : Out :=
  let w := fmtWidth df.toNat
  let cv (a : Word) : Nat := convert df.toNat 0x11 rm.toNat (sat = 1) a.toNat % 2 ^ w
  fibreExec f (form3 sa sb sc d 5 fun a b c =>
    if w = 16 then code32 (cv a + 2 ^ 16 * cv b)
    else code32 (cv a + 2 ^ 8 * cv b + 2 ^ 16 * (c.toNat % 2 ^ 16))) s
/-- CVTUPK (R172). -/
def execCvtupk (f : FHdr) (d sa : BitVec 8) (sf : BitVec 5) (idx : BitVec 2) (s : State) : Out :=
  let w := fmtWidth sf.toNat
  fibreExec f (form1 sa d 5 fun a =>
    code32 (convert 0x11 sf.toNat 0 false ((a.toNat >>> (w * idx.toNat)) % 2 ^ w))) s

end Sys2Proof.Machine
end

