-- ==== Sys2Proof/Machine/MemEvents.lean ====
section
/-!
DEFINITION. Events of memory: leases, L2 requests, fills and merge windows (R70 to R75), format windows (R76 to R80),
writes that are performed (R87), data that return (R364, R441), network slots (R300, R301) and page walks (R385).
-/
namespace Sys2Proof.Machine

/-- L1_LEASE_EXPIRY (R70, R87): the lease of a line lapses, at its bound or earlier (log 9). -/
def execL1LeaseExpiry (core line : Nat) (s : State) : Out :=
  .next (s.modCore core fun k => { k with l1 := k.l1.del line })

/-- Whether an access asks its slice for a line to read it. -/
def Access.reads (a : Access) : Bool :=
  match a.op with
  | .load _ _ | .pref _ => true
  | _ => false

/-- Whether an access has its value and not yet returned it. -/
def Access.valued (a : Access) : Bool :=
  match a.phase with
  | .performed => (!a.val.isEmpty) || a.poison
  | _ => false

/-- L2_REQUEST (R73): a global read reaches its slice. -/
def execL2Request (core id : Nat) (s : State) : Out :=
  match findAccess s core id with
  | some a => .next (if a.waiting ∧ a.reads ∧ a.spm.isNone ∧ mayPerform (s.core core) a then l2Access s core a else s)
  | none => .next s

/-- Whether a store or read-modify-write (not a join word's decrement). -/
def Access.stores (a : Access) : Bool :=
  match a.op with
  | .store | .rmw _ => true
  | _ => false

/-- Whether another agent has written bytes of a scratchpad read-modify-write in this cycle: it is then performed in a later
cycle, as its read would return the value before that write (R91, R95). -/
def spmRaces (s : State) (c : Nat) (b : Buf) (a : Access) : Bool :=
  a.loads && a.writes && (s.core b.home).spmRaced s.cycle (fibreAgent c a.slot a.fib) a.pa a.size

/-- WRITE_PERFORMED (R87): a store or read-modify-write reaches its point of coherence, once the line is in its slice. A
remote SPM write goes by NETSLOT_BEAT. -/
def execWritePerformed (core id : Nat) (s : State) : Out :=
  match findAccess s core id with
  | none => .next s
  | some a =>
    if ¬ (a.waiting ∧ a.stores ∧ mayPerform (s.core core) a) then .next s
    else match a.spm with
      | some b => .next (if b.home = core ∧ !spmRaces s core b a ∧ !spmAway s a.ctx a.spm then performFor s core a else s)
      | none =>
        if !backed a.pa || lineReady (s.slice' (sliceOf (dieOf core) a.pa)) (a.pa / 128) then .next (performFor s core a)
        else .next (missAlone s core a)

/-- L2_FILL_ARRIVAL (R73, R391, R395): the line enters the slice and its registrants receive it, now, or after the handler
that will have the FILL returns. `line` has a multiple of 2^60 added for a fill outside any merge entry. -/
def execL2FillArrival (slice line : Nat) (s : State) : Out := .next (fillArrives s slice line)

/-- MERGE_WINDOW_CLOSE (R73): an entry closes once its window has elapsed and its fill has arrived. -/
def execMergeWindowClose (slice line : Nat) (s : State) : Out :=
  match (s.slice' slice).merges.find? line with
  | some m =>
    .next (if m.over s.cycle then
      s.modSlice slice fun x => { x with merges := x.merges.del line } else s)
  | none => .next s

/-- Whether a window's fields let it be enabled (R76). -/
def windowFits (s : State) (stack win : Nat) (v : BitVec 64) : Bool :=
  let spl := bitsN v.toNat 7 4
  let ngrp := bitsN v.toNat 55 32
  let base := devBits s (offFW stack win 0) 51 12 * 4096
  decide (2 ≤ spl) && decide (spl ≤ 8) && decide (bitsN v.toNat 11 8 ≤ 1) && decide (ngrp ≠ 0) &&
    decide (base / 2 ^ 36 = stack) && decide (base % 2 ^ 36 + ngrp * spl * 128 ≤ Config.stackBytes)

/-- FWCTL_WRITE (R76, R80): while EN is 1 only EN may be written; setting it asks that the window fits; clearing it drops
the window's views. -/
def execFwctlWrite (stack win : Nat) (v : BitVec 64) (s : State) : Out :=
  let off := offFW stack win 8
  if devBits s off 0 0 = 1 then
    .next (if v.getLsbD 0 then s else dropViews (devPut s off 0 0 0) stack win none)
  else
    let v := v &&& 0x00FFFFFF00000FF3
    .next (devSet s off (if v.getLsbD 0 && !windowFits s stack win v then v &&& ~~~1#64 else v))

-- Return of data (R364, R440, R441)

/-- The error-ring entry of a read that met an uncorrectable error (R441). -/
def poisonEntryLog (s : State) (a : Access) : State :=
  if !a.poison then s
  else match a.spm with
    | some b => if unitBad (s.core b.home).spmBad a.pa a.size then badUnit s a.ctx (islandOf b.home) else s
    | none => badRead s a.ctx a.pa a.size

/-- LOAD_DATA_RETURN (R364): data return to their fibre. A load of the core's own SPM is performed as it returns. -/
def execLoadDataReturn (core id : Nat) (s : State) : Out :=
  match findAccess s core id with
  | none => .next s
  | some a =>
    if a.valued ∧ a.beat.isNone then .next (returnData (poisonEntryLog s a) core a)
    else if a.waiting ∧ a.reads ∧ (a.spm.any fun b => b.home = core) ∧ mayPerform (s.core core) a ∧ !spmAway s a.ctx a.spm then
      let s := performFor s core a
      match findAccess s core id with
      | some a => .next (returnData (poisonEntryLog s a) core a)
      | none => .next s
    else .next s

-- Network slots (R300, R301)

/-- The entry that a core uses in a fabric cycle: 0 is idle. -/
def Core.entryAt (k : Core) (f : Nat) : Nat := k.slotTable.getD (f % 64) 0

/-- Whether a core's table has an owned entry that reaches a home core. -/
def Core.owns (k : Core) (core home : Nat) : Bool := hasN k.slotTable (distance core home)

/-- Whether a fibre's or XCOPY's access may use the entry of a fabric cycle (R301). -/
def Core.usable (k : Core) (core home f : Nat) : Bool :=
  if k.owns core home then decide (k.entryAt f = distance core home) else decide (k.entryAt f = 0)

/-- Whether a home core takes a beat of a core in a fabric cycle: any owned beat of its own table, and one other (R301). -/
def homeTakes (s : State) (core home f : Nat) (owned : Bool) : Bool :=
  (owned && decide ((s.core core).slotTable = (s.core home).slotTable)) || decide ((s.core home).idleBeat ≠ some f)

/-- A beat of a core goes to a home core in a fabric cycle; an entry carries one. -/
def sendBeat (s : State) (core home f : Nat) (owned : Bool) : State :=
  let s := if owned && decide ((s.core core).slotTable = (s.core home).slotTable) then s
    else s.modCore home fun h => { h with idleBeat := some f }
  s.modCore core fun k => { k with sentBeat := some f }

/-- A beat of the head copy command (R301): for its source while there are any, then for its destination once the source's
answers are there. A C-slot command uses owned entries only. -/
def copyBeat (core : Nat) (x : CpeCmd) (s : State) : State :=
  let k := s.core core
  let f := s.cycle / 2
  let src := decide (0 < x.toSrc)
  match (if src then x.srcBuf else if 0 < x.toDst ∧ x.answer ≤ f then x.dstBuf else none) with
  | none => s
  | some b =>
    let owned := k.owns core b.home
    let may := match x.owner with
      | .tile _ _ _ => owned && decide (k.entryAt f = distance core b.home)
      | .fibre _ _ _ => k.usable core b.home f
    if !may ∨ k.sentBeat = some f ∨ !homeTakes s core b.home f owned then s
    else (sendBeat s core b.home f owned).modCore core fun k => { k with cpe := k.cpe.map fun y =>
      if y.id ≠ x.id then y
      else if src then { y with toSrc := y.toSrc - 1, answer := f + 8 } else { y with toDst := y.toDst - 1 } }

/-- NETSLOT_BEAT (R301): an access to a remote SPM, or for a number from 2^60 on a beat of the head copy command, finds its
entry. Beats move in the second cycle of a fabric cycle, so that a home core can take the lowest core first (log 85). -/
def execNetslotBeat (core id : Nat) (s : State) : Out :=
  if s.cycle % 2 = 0 then .next s
  else if aloneBit ≤ id then
    match (s.core core).cpe with
    | x :: _ => .next (if x.id = id - aloneBit ∧ x.asked ∧ x.stop.isNone then copyBeat core x s else s)
    | [] => .next s
  else match findAccess s core id with
    | none => .next s
    | some a =>
      match a.spm with
      | none => .next s
      | some b =>
        let k := s.core core
        let f := s.cycle / 2
        let owned := k.owns core b.home
        if b.home = core ∨ ¬ (a.waiting ∧ mayPerform k a ∧ k.usable core b.home f) ∨ spmRaces s core b a ∨ spmAway s a.ctx a.spm ∨
          k.sentBeat = some f ∨ !homeTakes s core b.home f owned then .next s
        else .next (performFor (sendBeat s core b.home f owned) core { a with beat := some s.cycle })

/-- NETSLOT_REPLY (R301): the home core's answer arrives 8 fabric cycles after its request. -/
def execNetslotReply (core id : Nat) (s : State) : Out :=
  match findAccess s core id with
  | none => .next s
  | some a =>
    .next (match a.beat with
      | some t => if a.valued ∧ t / 2 + 8 ≤ s.cycle / 2 then returnData (poisonEntryLog s a) core a else s
      | none => s)

-- Page walks (R385)

/-- A fibre that waits for a page takes the page fault of its walk (R187, R385). -/
def faultWaiter (e : PFault) (ctx page c b : Nat) (s : State) (f : Nat) : State :=
  match s.block c b, s.fibre c b f with
  | some k, some x =>
    match x.status with
    | .waiting (.xlate acc va) =>
      if k.ctx = ctx ∧ va / 4096 = page then (FCtx.mk c b f k x {} true).pageFault s e acc va else s
    | _ => s
  | _, _ => s

/-- Walks that a compute die runs at once (R385). -/
def walksAtOnce : Nat := 384

/-- The walks under way: on each die the first 384 that were asked for there (R385). -/
def runningWalks (s : State) : List (Nat × Nat × Nat) :=
  (List.range 4).flatMap fun d => (s.walks.filter fun w => w.1 = d).take walksAtOnce

/-- PAGE_WALK (R385): a walk under way ends; its translation is cached, or every fibre that it served takes its page fault. -/
def execPageWalk (ctx page : Nat) (s : State) : Out :=
  if !((runningWalks s).any fun w => w.2 = (ctx, page)) then .next s
  else
    let s := { s with walks := s.walks.filter fun w => w.2 ≠ (ctx, page) }
    match walkPage s ctx (4096 * page) with
    | .ok t => .next { s with tlb := if (tlbFind s ctx page).isSome then s.tlb else t :: s.tlb }
    | .error e =>
      .next (s.cores.foldl (fun s (c, k) => k.blocks.foldl (fun s (b, x) =>
        x.fibres.foldl (fun s (f, _) => faultWaiter e ctx page c b s f) s) s) s)

end Sys2Proof.Machine
end

