-- ==== Sys2Proof/Machine/Rv.lean ====
section
/-!
DEFINITION. The instructions of a Lantern: RV64IMAC with Zicsr, Zba and Zbb (R386), as the RISC-V specifications define
them (PRESUMED, log 18). What an instruction asks for is data; Machine/Lantern.lean carries it out.
-/
namespace Sys2Proof.Machine

/-- What one RISC-V instruction does. -/
inductive RvStep where
  | reg (rd : Nat) (v : BitVec 64)
  | jump (rd : Nat) (dest : BitVec 64)
  | load (rd : Nat) (addr : BitVec 64) (n : Nat) (signed : Bool)
  | store (addr : BitVec 64) (n : Nat) (v : BitVec 64)
  | lr (rd : Nat) (addr : BitVec 64) (n : Nat)
  | sc (rd : Nat) (addr : BitVec 64) (n : Nat) (v : BitVec 64)
  | amo (op rd : Nat) (addr : BitVec 64) (n : Nat) (v : BitVec 64)
  | csr (f3 rd num src : Nat) (v : BitVec 64)
  | illegal
deriving DecidableEq, Repr

-- Arithmetic

/-- A 32-bit result, sign-extended. -/
def sx32 (v : Nat) : BitVec 64 := BitVec.ofInt 64 (sextN v 32)

/-- Signed division of RV64M over `w` bits. -/
def rvDiv (w : Nat) (a b : Int) : Int := if b = 0 then -1 else if a = -(2 ^ (w - 1)) ∧ b = -1 then a else a.tdiv b
/-- Signed remainder of RV64M over `w` bits. -/
def rvRem (w : Nat) (a b : Int) : Int := if b = 0 then a else if a = -(2 ^ (w - 1)) ∧ b = -1 then 0 else a.tmod b

/-- Rotate left over `w` bits. -/
def rolN (a n w : Nat) : Nat := let n := n % w; (a * 2 ^ n % 2 ^ w) ||| ((a % 2 ^ w) >>> (w - n))

/-- Each byte all ones where it is non-zero (orc.b). -/
def orcB (a : Nat) : Nat := (List.range 8).foldl (fun m i => m + (if (a >>> (8 * i)) % 256 = 0 then 0 else 255 * 2 ^ (8 * i))) 0
/-- The bytes in reverse order (rev8). -/
def rev8 (a : Nat) : Nat := (List.range 8).foldl (fun m i => m + ((a >>> (8 * i)) % 256) * 2 ^ (8 * (7 - i))) 0

/-- OP: register-register operations over 64 bits, by funct7 and funct3. -/
def rvOp (f7 f3 : Nat) (a b : BitVec 64) : Option (BitVec 64) :=
  let sh := b.toNat % 64
  match f7, f3 with
  | 0x00, 0 => some (a + b)
  | 0x00, 1 => some (a <<< sh)
  | 0x00, 2 => some (if a.toInt < b.toInt then 1 else 0)
  | 0x00, 3 => some (if a.toNat < b.toNat then 1 else 0)
  | 0x00, 4 => some (a ^^^ b)
  | 0x00, 5 => some (a >>> sh)
  | 0x00, 6 => some (a ||| b)
  | 0x00, 7 => some (a &&& b)
  | 0x20, 0 => some (a - b)
  | 0x20, 4 => some (~~~(a ^^^ b))
  | 0x20, 5 => some (a.sshiftRight sh)
  | 0x20, 6 => some (a ||| ~~~b)
  | 0x20, 7 => some (a &&& ~~~b)
  | 0x01, 0 => some (a * b)
  | 0x01, 1 => some (BitVec.ofInt 64 (a.toInt * b.toInt / 2 ^ 64))
  | 0x01, 2 => some (BitVec.ofInt 64 (a.toInt * b.toNat / 2 ^ 64))
  | 0x01, 3 => some (BitVec.ofNat 64 (a.toNat * b.toNat / 2 ^ 64))
  | 0x01, 4 => some (BitVec.ofInt 64 (rvDiv 64 a.toInt b.toInt))
  | 0x01, 5 => some (if b = 0 then -1 else BitVec.ofNat 64 (a.toNat / b.toNat))
  | 0x01, 6 => some (BitVec.ofInt 64 (rvRem 64 a.toInt b.toInt))
  | 0x01, 7 => some (if b = 0 then a else BitVec.ofNat 64 (a.toNat % b.toNat))
  | 0x05, 4 => some (if a.toInt < b.toInt then a else b)
  | 0x05, 5 => some (if a.toNat < b.toNat then a else b)
  | 0x05, 6 => some (if a.toInt < b.toInt then b else a)
  | 0x05, 7 => some (if a.toNat < b.toNat then b else a)
  | 0x10, 2 => some ((a <<< 1) + b)
  | 0x10, 4 => some ((a <<< 2) + b)
  | 0x10, 6 => some ((a <<< 3) + b)
  | 0x30, 1 => some (BitVec.ofNat 64 (rolN a.toNat sh 64))
  | 0x30, 5 => some (BitVec.ofNat 64 (rolN a.toNat (64 - sh) 64))
  | _, _ => none

/-- OP-32: register-register operations over 32 bits; zext.h has its rs2 field 0. -/
def rvOp32 (f7 f3 rs2 : Nat) (a b : BitVec 64) : Option (BitVec 64) :=
  let u : Nat := a.toNat % 2 ^ 32
  let v : Nat := b.toNat % 2 ^ 32
  let sh := v % 32
  let z : BitVec 64 := BitVec.ofNat 64 u
  match f7, f3 with
  | 0x00, 0 => some (sx32 (u + v))
  | 0x00, 1 => some (sx32 (u <<< sh))
  | 0x00, 5 => some (sx32 (u >>> sh))
  | 0x20, 0 => some (sx32 (u + 2 ^ 32 - v))
  | 0x20, 5 => some (BitVec.ofInt 64 (sextN u 32 / 2 ^ sh))
  | 0x01, 0 => some (sx32 (u * v))
  | 0x01, 4 => some (BitVec.ofInt 64 (rvDiv 32 (sextN u 32) (sextN v 32)))
  | 0x01, 5 => some (if v = 0 then -1 else sx32 (u / v))
  | 0x01, 6 => some (BitVec.ofInt 64 (rvRem 32 (sextN u 32) (sextN v 32)))
  | 0x01, 7 => some (if v = 0 then sx32 u else sx32 (u % v))
  | 0x04, 0 => some (z + b)
  | 0x04, 4 => if rs2 = 0 then some (BitVec.ofNat 64 (a.toNat % 2 ^ 16)) else none
  | 0x10, 2 => some ((z <<< 1) + b)
  | 0x10, 4 => some ((z <<< 2) + b)
  | 0x10, 6 => some ((z <<< 3) + b)
  | 0x30, 1 => some (sx32 (rolN u sh 32))
  | 0x30, 5 => some (sx32 (rolN u (32 - sh) 32))
  | _, _ => none

/-- OP-IMM by funct3 and the 12-bit immediate field. -/
def rvImm (f3 imm : Nat) (a : BitVec 64) : Option (BitVec 64) :=
  let i : BitVec 64 := BitVec.ofInt 64 (sextN imm 12)
  let sh := imm % 64
  match f3 with
  | 0 => some (a + i)
  | 2 => some (if a.toInt < i.toInt then 1 else 0)
  | 3 => some (if a.toNat < i.toNat then 1 else 0)
  | 4 => some (a ^^^ i)
  | 6 => some (a ||| i)
  | 7 => some (a &&& i)
  | 1 =>
    if imm / 64 = 0 then some (a <<< sh)
    else match imm with
      | 0x600 => some (BitVec.ofNat 64 (clzN a.toNat 64))
      | 0x601 => some (BitVec.ofNat 64 (ctzN a.toNat 64 0))
      | 0x602 => some (BitVec.ofNat 64 (popcN a.toNat 64))
      | 0x604 => some (BitVec.ofInt 64 (sextN a.toNat 8))
      | 0x605 => some (BitVec.ofInt 64 (sextN a.toNat 16))
      | _ => none
  | _ =>
    if imm = 0x287 then some (BitVec.ofNat 64 (orcB a.toNat))
    else if imm = 0x6B8 then some (BitVec.ofNat 64 (rev8 a.toNat))
    else if imm / 64 = 0 then some (a >>> sh)
    else if imm / 64 = 0x10 then some (a.sshiftRight sh)
    else if imm / 64 = 0x18 then some (BitVec.ofNat 64 (rolN a.toNat (64 - sh) 64))
    else none

/-- OP-IMM-32 by funct3 and the 12-bit immediate field. -/
def rvImm32 (f3 imm : Nat) (a : BitVec 64) : Option (BitVec 64) :=
  let u : Nat := a.toNat % 2 ^ 32
  let sh := imm % 32
  match f3 with
  | 0 => some (BitVec.ofInt 64 (sextN (wrapN (Int.ofNat u + sextN imm 12) 32) 32))
  | 1 =>
    if imm / 32 = 0 then some (sx32 (u <<< sh))
    else if imm / 64 = 2 then some (BitVec.ofNat 64 u <<< (imm % 64))
    else match imm with
      | 0x600 => some (BitVec.ofNat 64 (clzN u 32))
      | 0x601 => some (BitVec.ofNat 64 (ctzN u 32 0))
      | 0x602 => some (BitVec.ofNat 64 (popcN u 32))
      | _ => none
  | 5 =>
    if imm / 32 = 0 then some (sx32 (u >>> sh))
    else if imm / 32 = 0x20 then some (BitVec.ofInt 64 (sextN u 32 / 2 ^ sh))
    else if imm / 32 = 0x30 then some (sx32 (rolN u (32 - sh) 32))
    else none
  | _ => none

/-- The new value of an atomic's location, by funct5. -/
def rvAmo (op n : Nat) (old v : Nat) : Option Nat :=
  let w := 8 * n
  match op with
  | 0x01 => some v
  | 0x00 => some ((old + v) % 2 ^ w)
  | 0x04 => some (old ^^^ v)
  | 0x0C => some (old &&& v)
  | 0x08 => some (old ||| v)
  | 0x10 => some (if sextN old w ≤ sextN v w then old else v)
  | 0x14 => some (if sextN old w ≤ sextN v w then v else old)
  | 0x18 => some (min old v)
  | 0x1C => some (max old v)
  | _ => none

-- 32-bit instructions

/-- Whether a branch is taken, by funct3. -/
def rvBranch (f3 : Nat) (a b : BitVec 64) : Option Bool :=
  match f3 with
  | 0 => some (a == b)
  | 1 => some (a != b)
  | 4 => some (decide (a.toInt < b.toInt))
  | 5 => some (!decide (a.toInt < b.toInt))
  | 6 => some (decide (a.toNat < b.toNat))
  | 7 => some (!decide (a.toNat < b.toNat))
  | _ => none

/-- A 32-bit instruction `w` at `pc`, of `len` bytes as fetched, over registers `x`. -/
def rvStep (w : Nat) (pc : BitVec 64) (len : Nat) (x : Nat → BitVec 64) : RvStep :=
  let rd := bitsN w 11 7
  let f3 := bitsN w 14 12
  let rs2 := bitsN w 24 20
  let f7 := bitsN w 31 25
  let a := x (bitsN w 19 15)
  let b := x rs2
  let immI : BitVec 64 := BitVec.ofInt 64 (sextN (w / 2 ^ 20) 12)
  let immS : BitVec 64 := BitVec.ofInt 64 (sextN (f7 * 32 + rd) 12)
  let out (r : Option (BitVec 64)) : RvStep := match r with
    | some v => .reg rd v
    | none => .illegal
  match w % 128 with
  | 0x37 => .reg rd (BitVec.ofInt 64 (sextN (w / 2 ^ 12 * 2 ^ 12) 32))
  | 0x17 => .reg rd (pc + BitVec.ofInt 64 (sextN (w / 2 ^ 12 * 2 ^ 12) 32))
  | 0x6F =>
    let i := bitsN w 31 31 * 2 ^ 20 + bitsN w 19 12 * 2 ^ 12 + bitsN w 20 20 * 2 ^ 11 + bitsN w 30 21 * 2
    .jump rd (pc + BitVec.ofInt 64 (sextN i 21))
  | 0x67 => if f3 = 0 then .jump rd ((a + immI) &&& ~~~1#64) else .illegal
  | 0x63 =>
    let i := bitsN w 31 31 * 2 ^ 12 + bitsN w 7 7 * 2 ^ 11 + bitsN w 30 25 * 32 + bitsN w 11 8 * 2
    match rvBranch f3 a b with
    | some t => .jump 0 (if t then pc + BitVec.ofInt 64 (sextN i 13) else pc + BitVec.ofNat 64 len)
    | none => .illegal
  | 0x03 => if f3 = 7 then .illegal else .load rd (a + immI) (2 ^ (f3 % 4)) (decide (f3 < 4))
  | 0x23 => if 4 ≤ f3 then .illegal else .store (a + immS) (2 ^ f3) b
  | 0x13 => out (rvImm f3 (w / 2 ^ 20) a)
  | 0x1B => out (rvImm32 f3 (w / 2 ^ 20) a)
  | 0x33 => out (rvOp f7 f3 a b)
  | 0x3B => out (rvOp32 f7 f3 rs2 a b)
  | 0x0F => if f3 = 0 then .reg 0 0 else .illegal
  | 0x2F =>
    if f3 ≠ 2 ∧ f3 ≠ 3 then .illegal
    else
      let n := 2 ^ f3
      match f7 / 4 with
      | 0x02 => if rs2 = 0 then .lr rd a n else .illegal
      | 0x03 => .sc rd a n b
      | op => if (rvAmo op n 0 0).isSome then .amo op rd a n b else .illegal
  | 0x73 =>
    if f3 = 0 ∨ f3 = 4 then .illegal
    else .csr (f3 % 4) rd (w / 2 ^ 20) (bitsN w 19 15) (if f3 < 4 then a else BitVec.ofNat 64 (bitsN w 19 15))
  | _ => .illegal

-- Compressed instructions

/-- An I-type word. -/
def encI (op f3 rd rs1 : Nat) (imm : Int) : Nat := op + rd * 2 ^ 7 + f3 * 2 ^ 12 + rs1 * 2 ^ 15 + wrapN imm 12 * 2 ^ 20
/-- An R-type word. -/
def encR (op f3 f7 rd rs1 rs2 : Nat) : Nat := op + rd * 2 ^ 7 + f3 * 2 ^ 12 + rs1 * 2 ^ 15 + rs2 * 2 ^ 20 + f7 * 2 ^ 25
/-- An S-type word. -/
def encS (f3 rs1 rs2 imm : Nat) : Nat :=
  0x23 + imm % 32 * 2 ^ 7 + f3 * 2 ^ 12 + rs1 * 2 ^ 15 + rs2 * 2 ^ 20 + imm / 32 * 2 ^ 25
/-- A B-type word that compares a register with x0. -/
def encB (f3 rs1 : Nat) (imm : Int) : Nat :=
  let i := wrapN imm 13
  0x63 + bitsN i 11 11 * 2 ^ 7 + bitsN i 4 1 * 2 ^ 8 + f3 * 2 ^ 12 + rs1 * 2 ^ 15 + bitsN i 10 5 * 2 ^ 25 + bitsN i 12 12 * 2 ^ 31
/-- A JAL word with rd 0. -/
def encJ (imm : Int) : Nat :=
  let i := wrapN imm 21
  0x6F + bitsN i 19 12 * 2 ^ 12 + bitsN i 11 11 * 2 ^ 20 + bitsN i 10 1 * 2 ^ 21 + bitsN i 20 20 * 2 ^ 31

/-- The instruction that a 16-bit word of quadrant 0 stands for. -/
def expandQ0 (h : Nat) : Option Nat :=
  let rd := 8 + bitsN h 4 2
  let rs := 8 + bitsN h 9 7
  let w := bitsN h 12 10 * 8 + bitsN h 6 6 * 4 + bitsN h 5 5 * 64
  let d := bitsN h 12 10 * 8 + bitsN h 6 5 * 64
  match bitsN h 15 13 with
  | 0 =>
    let i := bitsN h 12 11 * 16 + bitsN h 10 7 * 64 + bitsN h 6 6 * 4 + bitsN h 5 5 * 8
    if i = 0 then none else some (encI 0x13 0 rd 2 i)
  | 2 => some (encI 0x03 2 rd rs w)
  | 3 => some (encI 0x03 3 rd rs d)
  | 6 => some (encS 2 rs rd w)
  | 7 => some (encS 3 rs rd d)
  | _ => none

/-- The instruction that a 16-bit word of quadrant 1 stands for. -/
def expandQ1 (h : Nat) : Option Nat :=
  let rd := bitsN h 11 7
  let imm := sextN (bitsN h 12 12 * 32 + bitsN h 6 2) 6
  let sh := bitsN h 12 12 * 32 + bitsN h 6 2
  let rp := 8 + bitsN h 9 7
  let rq := 8 + bitsN h 4 2
  match bitsN h 15 13 with
  | 0 => some (encI 0x13 0 rd rd imm)
  | 1 => if rd = 0 then none else some (encI 0x1B 0 rd rd imm)
  | 2 => some (encI 0x13 0 rd 0 imm)
  | 3 =>
    if rd = 2 then
      let i := sextN (bitsN h 12 12 * 512 + bitsN h 6 6 * 16 + bitsN h 5 5 * 64 + bitsN h 4 3 * 128 + bitsN h 2 2 * 32) 10
      if i = 0 then none else some (encI 0x13 0 2 2 i)
    else if imm = 0 then none
    else some (0x37 + rd * 2 ^ 7 + wrapN imm 20 * 2 ^ 12)
  | 4 =>
    match bitsN h 11 10 with
    | 0 => some (encI 0x13 5 rp rp sh)
    | 1 => some (encI 0x13 5 rp rp (0x400 + sh))
    | 2 => some (encI 0x13 7 rp rp imm)
    | _ =>
      match bitsN h 12 12, bitsN h 6 5 with
      | 0, 0 => some (encR 0x33 0 0x20 rp rp rq)
      | 0, 1 => some (encR 0x33 4 0 rp rp rq)
      | 0, 2 => some (encR 0x33 6 0 rp rp rq)
      | 0, _ => some (encR 0x33 7 0 rp rp rq)
      | _, 0 => some (encR 0x3B 0 0x20 rp rp rq)
      | _, 1 => some (encR 0x3B 0 0 rp rp rq)
      | _, _ => none
  | 5 =>
    some (encJ (sextN (bitsN h 12 12 * 2048 + bitsN h 11 11 * 16 + bitsN h 10 9 * 256 + bitsN h 8 8 * 1024 + bitsN h 7 7 * 64 +
      bitsN h 6 6 * 128 + bitsN h 5 3 * 2 + bitsN h 2 2 * 32) 12))
  | f =>
    some (encB (if f = 6 then 0 else 1) rp
      (sextN (bitsN h 12 12 * 256 + bitsN h 11 10 * 8 + bitsN h 6 5 * 64 + bitsN h 4 3 * 2 + bitsN h 2 2 * 32) 9))

/-- The instruction that a 16-bit word of quadrant 2 stands for. -/
def expandQ2 (h : Nat) : Option Nat :=
  let rd := bitsN h 11 7
  let rs2 := bitsN h 6 2
  match bitsN h 15 13 with
  | 0 => some (encI 0x13 1 rd rd (bitsN h 12 12 * 32 + rs2))
  | 2 => if rd = 0 then none else some (encI 0x03 2 rd 2 (bitsN h 12 12 * 32 + bitsN h 6 4 * 4 + bitsN h 3 2 * 64))
  | 3 => if rd = 0 then none else some (encI 0x03 3 rd 2 (bitsN h 12 12 * 32 + bitsN h 6 5 * 8 + bitsN h 4 2 * 64))
  | 4 =>
    if bitsN h 12 12 = 0 then
      (if rs2 ≠ 0 then some (encR 0x33 0 0 rd 0 rs2) else if rd = 0 then none else some (encI 0x67 0 0 rd 0))
    else if rs2 ≠ 0 then some (encR 0x33 0 0 rd rd rs2)
    else if rd = 0 then none else some (encI 0x67 0 1 rd 0)
  | 6 => some (encS 2 2 rs2 (bitsN h 12 9 * 4 + bitsN h 8 7 * 64))
  | 7 => some (encS 3 2 rs2 (bitsN h 12 10 * 8 + bitsN h 9 7 * 64))
  | _ => none

/-- The 32-bit word and the length of the instruction that starts with these 32 bits; none for a 16-bit word that is
reserved or raises an exception. -/
def rvExpand (w : Nat) : Option (Nat × Nat) :=
  match w % 4 with
  | 0 => (expandQ0 (w % 2 ^ 16)).map (·, 2)
  | 1 => (expandQ1 (w % 2 ^ 16)).map (·, 2)
  | 2 => (expandQ2 (w % 2 ^ 16)).map (·, 2)
  | _ => some (w, 4)

end Sys2Proof.Machine
end

