-- ==== Sys2Proof/Machine/Lantern.lean ====
section
/-!
DEFINITION. Lanterns: events and their handlers, handler instructions and what they may touch, prefetches, sends and
mailboxes, and handler sets (R198, R386 to R401).
-/
namespace Sys2Proof.Machine

-- Regions and registers

/-- Bytes of a slice's handler SRAM from an address on. -/
def sramBytes (x : Slice) (a : Nat) : Nat → List Byte
  | 0 => []
  | n + 1 => x.sram.get a 0 :: sramBytes x (a + 1) n

/-- A slice's handler SRAM with bytes written; a unit that is written whole holds no error any more. -/
def sramPut (s : State) (sl a : Nat) (bytes : List Byte) : State :=
  s.modSlice sl fun x => { x with
    sram := spmPut x.sram a bytes
    sramBad := x.sramBad.filter fun u => !(decide (a ≤ 8 * u) && decide (8 * u + 8 ≤ a + bytes.length)) }

/-- The start of a set's region in the SRAM. -/
def regionBase (s : State) (sl k : Nat) : Nat := lhBits s sl k 8 4 0 * 4096
/-- The size of a set's region. -/
def regionSize (s : State) (sl k : Nat) : Nat := lhBits s sl k 8 13 8 * 4096

/-- The firmware address to which a handler returns (R393). -/
def firmwarePc : BitVec 64 := 1#2 ++ Config.firmwareReturn ++ 0#1

/-- A register of a handler. -/
def LRun.reg (r : LRun) (n : Nat) : BitVec 64 := if n = 0 then 0 else r.x.get n 0
/-- A register of a handler written. -/
def LRun.setReg (r : LRun) (n : Nat) (v : BitVec 64) : LRun := if n = 0 then r else { r with x := r.x.set n v }

/-- The running invocation of a slice changed. -/
def modRun (s : State) (sl : Nat) (f : LRun → LRun) : State := s.modSlice sl fun x => { x with run := x.run.map f }

-- The end of an event (R395, R396)

/-- The delivery that waited for a FILL handler (R395). -/
def releaseHeld (s : State) (sl line : Nat) : State :=
  match heldFill (s.slice' sl).merges line with
  | some key => deliver s sl key
  | none => s

/-- What follows an event's handler, or stands in its place: a FILL's line is delivered (R395). -/
def eventOver (s : State) (sl : Nat) (e : LEvent) : State :=
  if e.kind = 1 ∧ !(e.words.getD 0 0).getLsbD 9 then releaseHeld s sl (e.addr / 128) else s

/-- The running invocation ends with its event. -/
def endRun (s : State) (sl : Nat) (r : LRun) : State := eventOver (s.modSlice sl fun x => { x with run := none }) sl r.ev

/-- An invocation is aborted (R386, R396, R397): ABORT and OVR advance, and the third of a period sets DIS. -/
def abortRun (s : State) (sl : Nat) (r : LRun) : State :=
  let s := bumpStat s sl r.set_ 32
  let off := offLH sl r.set_ 0x20
  let ovr := min 3 (devBits s off 1 0 + 1)
  let s := devPut s off 1 0 ovr
  endRun (if ovr = 3 then devPut s off 2 2 1 else s) sl r

/-- LANTERN_RETURN (R393, R395): the handler has jumped to the firmware address. -/
def execLanternReturn (slice : Nat) (s : State) : Out :=
  match (s.slice' slice).run with
  | some r => .next (if r.pc = firmwarePc then endRun s slice r else s)
  | none => .next s

/-- LANTERN_BUDGET_ABORT (R396): the BUDGET-th Lantern cycle is over and the invocation has not returned. -/
def execLanternBudgetAbort (slice : Nat) (s : State) : Out :=
  match (s.slice' slice).run with
  | some r => .next (if r.budget ≤ r.used ∧ r.pc ≠ firmwarePc then abortRun s slice r else s)
  | none => .next s

-- Dispatch (R387, R391 to R394)

/-- The bytes that the slice writes into a region before an entry (R387). -/
def enterBytes (s : State) (sl k : Nat) (e : LEvent) : State :=
  let base := regionBase s sl k
  let s := sramPut s sl base (((s.slice' sl).vectors.get k []).flatMap fun v => toBytes 8 v.toNat)
  let s := sramPut s sl (base + 0x40) ((e.words.take 8).flatMap fun v => toBytes 8 v.toNat)
  if e.kind = 2 then sramPut s sl (base + 0x80) ((e.words.drop 8).flatMap fun v => toBytes 8 v.toNat) else s

/-- The invocation at its entry (R393). -/
def newRun (s : State) (sl k : Nat) (e : LEvent) (entry : BitVec 64) : LRun :=
  { set_ := k, ctx := lhBits s sl k 0 6 1, ev := e, base := regionBase s sl k, size := regionSize s sl k
    lo := lhBits s sl k 0x10 51 12, hi := lhBits s sl k 0x18 51 12, pc := entry
    x := [(1, firmwarePc), (10, BitVec.ofNat 64 e.kind), (11, 0x40)]
    budget := lhBits s sl k 0 27 16, no := (s.slice' sl).next }

/-- LANTERN_DISPATCH (R392, R393): an idle Lantern takes the oldest event and enters its handler; an event that no set now
receives, or whose vector entry is 0, takes its default action. -/
def execLanternDispatch (slice : Nat) (s : State) : Out :=
  let x := s.slice' slice
  match x.run, x.events with
  | none, e :: rest =>
    let s := s.modSlice slice fun y => { y with events := rest }
    match setFor s slice e.kind e.ctx e.addr with
    | none => .next (eventOver s slice e)
    | some k =>
      match (x.vectors.get k []).getD e.kind 0 with
      | 0 => .next (eventOver s slice e)
      | entry =>
        let s := enterBytes s slice k e
        .next (bumpCount (s.modSlice slice fun y =>
          { y with run := some (newRun s slice k e entry), next := y.next + 1 }) slice k 0 1)
  | _, _ => .next s

-- Handler instructions (R386, R387)

/-- One Lantern cycle of the running invocation. -/
def lanternCycle (s : State) (sl : Nat) (r : LRun) : State :=
  bumpCount (modRun s sl fun r => { r with used := r.used + 1 }) sl r.set_ 1 1

/-- The four bytes at a handler's PC, as they stand in the handler SRAM. -/
def lanternRaw (s : State) (sl : Nat) (r : LRun) : Nat := ofBytes (sramBytes (s.slice' sl) (r.base + r.pc.toNat) 4)

/-- A read of the running handler's SRAM returns POISON where a unit of it holds an uncorrectable error: the error is logged, and the
invocation is aborted, as with POISON through the window (R398, R440, R441, log 105); else the step goes on. -/
def sramRead (s : State) (sl : Nat) (r : LRun) (a n : Nat) (f : State) : State :=
  if unitBad (s.slice' sl).sramBad (r.base + a) n then abortRun (badUnit s r.ctx (sliceIsland sl)) sl r else f

/-- The instruction of the four bytes at a handler's PC, with its length, if it lies in the region. -/
def lanternWord (r : LRun) (raw : Nat) : Option (Nat × Nat) :=
  match rvExpand raw with
  | some (w, n) => if r.size < r.pc.toNat + n then none else some (w, n)
  | none => none

/-- The invocation goes on at its next instruction. -/
def goOn (s : State) (sl len : Nat) (f : LRun → LRun) : State :=
  modRun s sl fun r => let r := f r; { r with pc := r.pc + BitVec.ofNat 64 len }

/-- A loaded value, extended. -/
def extend (signed : Bool) (n : Nat) (l : List Byte) : BitVec 64 :=
  if signed then BitVec.ofInt 64 (sextN (ofBytes l) (8 * n)) else BitVec.ofNat 64 (ofBytes l)

/-- The physical address that a handler's address reaches through the window (R387). -/
def windowPa (addr : BitVec 64) : Option Nat :=
  if 2 ^ 63 ≤ addr.toNat ∧ addr.toNat < 2 ^ 63 + 2 ^ 52 then some (addr.toNat - 2 ^ 63) else none

/-- Whether a physical page lies in an invocation's range (R390). -/
def LRun.inRange (r : LRun) (pa : Nat) : Bool := decide (r.lo ≤ pa / 4096) && decide (pa / 4096 ≤ r.hi)

/-- Whether a window access is permitted (R398). -/
def windowOk (sl : Nat) (r : LRun) (pa : Nat) : Bool := r.inRange pa && decide (sliceOf (sl / 64) pa = sl)

/-- A window write is performed: a strong write at device scope that takes its place in the strong order and the line's ownership
(R92, R103, R398). -/
def windowWrite (s : State) (sl : Nat) (r : LRun) (pa : Nat) (bytes : List Byte) : State :=
  let s := physWrite s.stampNext r.ctx r.ctx pa bytes
  if backed pa then l2Own s sl (pa / 128) r.ctx else s

/-- A load, store or atomic through the window whose line is present: the access is performed as a strong one (R92, R103), or a read
of POISON aborts. -/
def windowDo (s : State) (sl len : Nat) (r : LRun) (pa : Nat) (q : RvStep) : State :=
  match q with
  | .load rd _ n sg =>
    match physRead s r.ctx pa n with
    | some l => goOn s.stampNext sl len fun r => r.setReg rd (extend sg n l)
    | none => abortRun (badRead s r.ctx pa n) sl r
  | .store _ n v => goOn (windowWrite s sl r pa (toBytes n v.toNat)) sl len id
  | .lr rd _ n =>
    match physRead s r.ctx pa n with
    | some l => goOn s.stampNext sl len fun r => { r.setReg rd (extend true n l) with resv := some (pa, n) }
    | none => abortRun (badRead s r.ctx pa n) sl r
  | .sc rd _ n v =>
    if r.resv = some (pa, n) then
      goOn (windowWrite s sl r pa (toBytes n v.toNat)) sl len fun r => { r.setReg rd 0 with resv := none }
    else goOn s sl len fun r => { r.setReg rd 1 with resv := none }
  | .amo op rd _ n v =>
    match physRead s r.ctx pa n with
    | none => abortRun (badRead s r.ctx pa n) sl r
    | some l =>
      match rvAmo op n (ofBytes l) (v.toNat % 2 ^ (8 * n)) with
      | some w => goOn (windowWrite s sl r pa (toBytes n w)) sl len fun r => r.setReg rd (extend true n l)
      | none => abortRun s sl r
  | _ => s

/-- A window access (R398): refused outside the set's range and slice; stalled while its line is filled; then performed. -/
def windowStep (s : State) (sl len : Nat) (r : LRun) (pa : Nat) (q : RvStep) : State :=
  if !windowOk sl r pa then abortRun s sl r
  else if ((s.slice' sl).lines.find? (pa / 128)).isNone && (backed pa || decide (aliasBase ≤ pa)) then
    l2Insert s sl (pa / 128) r.ctx false
  else windowDo s sl len r pa q

/-- A load or store within the region; atomics reach only the window (R387). -/
def regionStep (s : State) (sl len : Nat) (r : LRun) (a : Nat) (q : RvStep) : State :=
  match q with
  | .load rd _ n sg => sramRead s sl r a n (goOn s sl len fun y => y.setReg rd (extend sg n (sramBytes (s.slice' sl) (r.base + a) n)))
  | .store _ n v => goOn (sramPut s sl (r.base + a) (toBytes n v.toNat)) sl len id
  | _ => abortRun s sl r

/-- The address and size of a memory access. -/
def RvStep.access : RvStep → Option (BitVec 64 × Nat)
  | .load _ a n _ | .store a n _ | .lr _ a n | .sc _ a n _ | .amo _ _ a n _ => some (a, n)
  | _ => none

/-- A memory access of a handler: aligned, in its region or through the window, else an exception. -/
def accessStep (s : State) (sl len : Nat) (r : LRun) (a : BitVec 64) (n : Nat) (q : RvStep) : State :=
  if a.toNat % n ≠ 0 then abortRun s sl r
  else if a.toNat + n ≤ r.size then regionStep s sl len r a.toNat q
  else match windowPa a with
    | some pa => windowStep s sl len r pa q
    | none => abortRun s sl r

-- Services (R388, R399, R400)

/-- A write of LPREF (R399): refused outside the set's range; the seventeenth outstanding stalls. -/
def lprefStep (s : State) (sl : Nat) (r : LRun) (pa : BitVec 64) : State :=
  if 2 ^ 52 ≤ pa.toNat ∨ !r.inRange pa.toNat then abortRun s sl r
  else if 16 ≤ ((s.slice' sl).prefetches.filter fun p => p.run = r.no).length then s
  else goOn (s.modSlice sl fun x =>
    { x with prefetches := x.prefetches ++ [⟨pa.toNat / 128, r.ctx, r.cookie, r.no⟩] }) sl 4 id

/-- The send that a descriptor names, or none where it is invalid (R400). -/
def sendOf (s : State) (r : LRun) (no : Nat) (l : List Byte) : Option LSend :=
  let f (hi lo : Nat) : Nat := bitsN (ofBytes l) (8 * hi + 7) (8 * lo)
  let lantern := f 0 0 = 1
  if 1 < f 0 0 ∨ f 1 1 < 1 ∨ 8 < f 1 1 ∨ 15 < f 2 2 ∨ f 3 3 ≠ 0 ∨ (if lantern then 256 else Config.cores) ≤ f 7 4 ∨
      (!lantern ∧ (f 15 8 ≠ 0 ∨ devBits s (offCX r.ctx 0x40) 51 12 = 0)) then none
  else some { no := no, ctx := r.ctx, lantern := lantern, len := f 1 1, sel := f 2 2, dest := f 7 4, pa := f 15 8
              payload := (List.range 8).map fun i => BitVec.ofNat 32 (f (19 + 4 * i) (16 + 4 * i)) }

/-- A write of LSEND (R400): the descriptor is read; an invalid one is disposed of at once; a fifth outstanding stalls. -/
def lsendStep (s : State) (sl : Nat) (r : LRun) (addr : BitVec 64) : State :=
  let a := addr.toNat
  let x := s.slice' sl
  if a % 8 ≠ 0 ∨ r.size < a + 48 then abortRun s sl r
  else if 4 ≤ x.sends.length then s
  else sramRead s sl r a 48 <| match sendOf s r x.next (sramBytes x (r.base + a) 48) with
    | none => goOn s sl 4 fun r => { r with sent := none, stat := 2 }
    | some m =>
      goOn (s.modSlice sl fun y => { y with sends := y.sends ++ [m], next := y.next + 1 }) sl 4 fun r => { r with sent := some m.no }

/-- A read of LSTAT (R388): it waits until the invocation's latest send is disposed of. -/
def lstatStep (s : State) (sl : Nat) (r : LRun) (rd : Nat) : State :=
  if r.sent.isSome then s else goOn s sl 4 fun y => y.setReg rd (BitVec.ofNat 64 r.stat)

/-- An access of a write-only CSR (R388): a read gives zero (R8); a write, where there is one, does what `f` does with the
value, and the register is written when the instruction completes. -/
def woStep (s : State) (sl : Nat) (r : LRun) (rd : Nat) (write : Option (BitVec 64))
    (f : State → Nat → LRun → BitVec 64 → State) : State :=
  match write with
  | none => goOn s sl 4 fun y => y.setReg rd 0
  | some w => modRun (f s sl r w) sl fun y => if y.pc = r.pc then y else y.setReg rd 0

/-- A CSR instruction (R388): LCOOKIE is read and written, LPREF and LSEND only written, the rest only read. -/
def csrStep (s : State) (sl : Nat) (r : LRun) (f3 rd num src : Nat) (v : BitVec 64) : State :=
  let writes := f3 = 1 ∨ src ≠ 0
  let ro (w : BitVec 64) : State := if writes then abortRun s sl r else goOn s sl 4 fun y => y.setReg rd w
  let wo : Option (BitVec 64) := if writes then some (if f3 = 3 then 0 else v) else none
  match num with
  | 0x800 => woStep s sl r rd wo lprefStep
  | 0x802 => woStep s sl r rd wo lsendStep
  | 0x801 =>
    let old : BitVec 64 := r.cookie.setWidth 64
    let new := if f3 = 1 then v else if f3 = 2 then old ||| v else old &&& ~~~v
    goOn s sl 4 fun y => { y.setReg rd old with cookie := if writes then new.setWidth 32 else y.cookie }
  | 0xCC0 => ro (BitVec.ofNat 64 r.used)
  | 0xCC1 => ro (BitVec.ofNat 64 r.budget)
  | 0xCC2 => ro (BitVec.ofNat 64 sl)
  | 0xCC3 => if writes then abortRun s sl r else lstatStep s sl r rd
  | _ => abortRun s sl r

/-- What an instruction of an invocation asks for, with its length; none where it cannot be fetched. -/
def nextStep (r : LRun) (raw : Nat) : Option (RvStep × Nat) :=
  (lanternWord r raw).map fun (w, n) => (rvStep w r.pc n r.reg, n)

/-- One instruction of a handler. -/
def handlerStep (s : State) (sl : Nat) (r : LRun) (raw : Nat) : State :=
  match nextStep r raw with
  | none => abortRun s sl r
  | some (q, len) =>
    sramRead s sl r r.pc.toNat len <| match q with
    | .reg rd v => goOn s sl len fun y => y.setReg rd v
    | .jump rd dest => modRun s sl fun y => { y.setReg rd (y.pc + BitVec.ofNat 64 len) with pc := dest }
    | .csr f3 rd num src v => csrStep s sl r f3 rd num src v
    | .illegal => abortRun s sl r
    | q => match q.access with
      | some (a, n) => accessStep s sl len r a n q
      | none => abortRun s sl r

/-- A turn of the running invocation: one Lantern cycle, and what it does; nothing once the handler has returned. -/
def lanternTurn (sl : Nat) (f : State → LRun → State) (s : State) : Out :=
  match (s.slice' sl).run with
  | some r => .next (if r.pc = firmwarePc then s else f (lanternCycle s sl r) r)
  | none => .next s

/-- LANTERN_HANDLER_INSTRUCTION (R386): the Lantern of the current turn executes the instruction of these four bytes, of
which a compressed instruction takes the low two. -/
def execLanternHandlerInstruction (w : BitVec 32) (s : State) : Out :=
  match s.cur with
  | .lantern sl => lanternTurn sl (fun s r => handlerStep s sl r w.toNat) s
  | _ => .fault .noAgent

/-- LANTERN_WINDOW_ACCESS (R398): the handler's next instruction, where it is a window access. -/
def execLanternWindowAccess (slice : Nat) (s : State) : Out :=
  match (s.slice' slice).run with
  | none => .next s
  | some r =>
    match (nextStep r (lanternRaw s slice r)).bind fun (q, n) => q.access.bind fun (a, m) => (windowPa a).map fun pa => (q, n, a.toNat % m, pa) with
    | some (q, len, 0, pa) => lanternTurn slice (fun s r => windowStep s slice len r pa q) s
    | _ => .next s

/-- LPREF_WRITE (R399): the running handler writes a physical address to LPREF. -/
def execLprefWrite (slice : Nat) (pa : BitVec 64) (s : State) : Out := lanternTurn slice (fun s r => lprefStep s slice r pa) s
/-- LSEND_WRITE (R400): the running handler writes a region address to LSEND. -/
def execLsendWrite (slice : Nat) (addr : BitVec 64) (s : State) : Out := lanternTurn slice (fun s r => lsendStep s slice r addr) s
/-- LSTAT_READ (R388): the running handler reads LSTAT into a register. -/
def execLstatRead (slice : Nat) (rd : BitVec 5) (s : State) : Out := lanternTurn slice (fun s r => lstatStep s slice r rd.toNat) s

-- Prefetches (R399)

/-- LANTERN_PREFETCH_COMPLETE (R399): the line is present in its owning slice, which raises FILL where the prefetch has a
cookie. -/
def execLanternPrefetchComplete (slice line : Nat) (s : State) : Out :=
  match (s.slice' slice).prefetches.find? fun p => p.line = line with
  | none => .next s
  | some p =>
    let owner := sliceOf (slice / 64) (128 * line)
    let s := s.modSlice slice fun x => { x with prefetches := x.prefetches.erase p }
    let s := insertFill s owner line p.ctx
    .next (if p.cookie = 0 then s else (raiseFill s owner line p.ctx slice 2 p.cookie.toNat).1)

-- Messages (R198, R392, R400, R401)

/-- The enabled set of a context with a MSG handler on a slice. -/
def msgSet (s : State) (sl ctx : Nat) : Option Nat :=
  (List.range 8).find? fun k => setOn s sl k && decide (lhBits s sl k 0 6 1 = ctx) && (lhBits s sl k 0 11 8).testBit 3

/-- The status of a message that cannot be delivered to a slice, or none (R392). -/
def msgRefused (s : State) (sl ctx : Nat) : Option Nat :=
  match msgSet s sl ctx with
  | none => some 1
  | some k => if lhBits s sl k 0x20 2 2 = 1 then some 2 else none

/-- Whether a slice's event queue is full (R392). -/
def eventsFull (s : State) (sl : Nat) : Bool := decide (32 ≤ (s.slice' sl).events.length)

/-- A MSG event in a slice's queue. -/
def putMsg (s : State) (sl ctx pa flags src len sel cf block : Nat) (payload : List Word) : State :=
  s.modSlice sl fun x => { x with events := x.events ++ [{
    kind := 3, addr := pa, ctx := ctx, words := eventWords 3 flags src len sel pa cf block payload }] }

/-- LMSG_ARRIVAL (R198, R392): the message reaches its slice, which disposes of it once its queue has room. -/
def execLmsgArrival (core id : Nat) (s : State) : Out :=
  match findAccess s core id with
  | none => .next s
  | some a =>
    match a.op with
    | .lmsg sel =>
      if ¬ (a.waiting ∧ mayPerform (s.core core) a) then .next s
      else
        let sl := sliceOf (dieOf core) a.pa
        match msgRefused s sl a.ctx with
        | some st => .next (settleStatus s core id st)
        | none =>
          if eventsFull s sl then .next s
          else
            let pay := (List.range (a.data.length / 4)).map fun i => BitVec.ofNat 32 (ofBytes (slice a.data (4 * i) 4))
            .next (settleStatus (putMsg s sl a.ctx a.pa 0 core pay.length sel a.fib a.blk.toNat pay) core id 0)
    | _ => .next s

/-- A send is disposed of with a status. -/
def sendOver (s : State) (sl : Nat) (m : LSend) (st : Nat) : State :=
  let s := s.modSlice sl fun x => { x with sends := x.sends.filter fun y => y.no ≠ m.no }
  modRun s sl fun r => if r.sent = some m.no then { r with sent := none, stat := st } else r

/-- A mailbox entry (R401). -/
def mailEntry (sl : Nat) (m : LSend) : List Byte :=
  toBytes 2 sl ++ toBytes 1 m.sel ++ toBytes 1 m.len ++ toBytes 4 0 ++ (m.payload.flatMap fun w => toBytes 4 w.toNat) ++
    List.replicate 24 0

/-- A delivery into a core's mailbox (R401): status 1 where it is full. -/
def mailbox (s : State) (sl : Nat) (m : LSend) : State × Nat :=
  let a := devBits s (offCX m.ctx 0x40) 51 12 * 4096 + 4096 * m.dest
  match physWord s m.ctx a, physWord s m.ctx (a + 8) with
  | some head, some tail =>
    if 63 ≤ (head + 2 ^ 64 - tail) % 2 ^ 64 then (s, 1)
    else
      let put (s : State) (pa : Nat) (bytes : List Byte) : State :=
        l2Own (physWrite s m.ctx m.ctx pa bytes) (sliceOf (sl / 64) pa) (pa / 128) m.ctx
      (put (put s (a + 64 + 64 * (head % 63)) (mailEntry sl m)) a (toBytes 8 ((head + 1) % 2 ^ 64)), 0)
  | _, _ => (s, 1)

/-- The oldest send of a slice that can be disposed of: those to one destination go in order. -/
def nextSend (s : State) : List LSend → List Nat → Option LSend
  | [], _ => none
  | m :: t, blocked =>
    let key := m.dest + (if m.lantern then 2 ^ 16 else 0)
    if hasN blocked key then nextSend s t blocked
    else if m.lantern ∧ (msgRefused s m.dest m.ctx).isNone ∧ eventsFull s m.dest then nextSend s t (key :: blocked)
    else some m

/-- LANTERN_SEND_DELIVERY (R400, R401). -/
def execLanternSendDelivery (slice : Nat) (s : State) : Out :=
  match nextSend s (s.slice' slice).sends [] with
  | none => .next s
  | some m =>
    if m.lantern then
      let s := if (msgRefused s m.dest m.ctx).isSome then s
        else putMsg s m.dest m.ctx m.pa 2 slice m.len m.sel 0 0 (m.payload.take m.len)
      .next (sendOver s slice m 0)
    else
      let (s, st) := mailbox s slice m
      .next (sendOver s slice m st)

-- Handler sets (R389)

/-- The fields of LHCTL that are written: BUDGET clamped. -/
def lhctlValue (v : BitVec 64) : BitVec 64 :=
  let b := bitsN v.toNat 27 16
  (v &&& 0xF7F) ||| BitVec.ofNat 64 ((if b < 32 then 32 else if 2048 < b then 2048 else b) * 2 ^ 16)

/-- Whether EN of a set may be set (R389). -/
def setValid (s : State) (sl k : Nat) (v : BitVec 64) : Bool :=
  let base := lhBits s sl k 8 4 0
  let size := lhBits s sl k 8 13 8
  decide (size ≠ 0) && decide (base + size ≤ 32) && decide (lhBits s sl k 0x10 51 12 ≤ lhBits s sl k 0x18 51 12) &&
    (List.range 8).all fun j => decide (j = k) || !setOn s sl j ||
      (decide (lhBits s sl j 0 6 1 ≠ bitsN v.toNat 6 1) &&
        (decide (lhBits s sl j 8 4 0 + lhBits s sl j 8 13 8 ≤ base) || decide (base + size ≤ lhBits s sl j 8 4 0)))

/-- The events of a set that are still queued take their default action, whatever its DIS (R389). -/
def dropEvents (s : State) (sl k : Nat) : State :=
  match (s.slice' sl).events.filter fun e => setTakes s sl k e.kind e.ctx e.addr with
  | [] => s
  | l => l.foldl (fun t e => eventOver t sl e)
      (s.modSlice sl fun x => { x with events := x.events.filter fun e => !setTakes s sl k e.kind e.ctx e.addr })

/-- A set is disabled: its queued events take their default action, and EN reads 0 (R389). -/
def disableSet (s : State) (sl k : Nat) : State := devPut (dropEvents s sl k) (offLH sl k 0) 0 0 0

/-- A word of a handler vector as it is latched: one that reads POISON gives no handler (R440, log 105). -/
def vectorAt (x : Slice) (a : Nat) : BitVec 64 := if unitBad x.sramBad a 8 then 0 else BitVec.ofNat 64 (ofBytes (sramBytes x a 8))

/-- LHCTL_WRITE (R389, R414): while EN is 1 only EN may be cleared; setting it latches the vector. -/
def execLhctlWrite (slice set : Nat) (v : BitVec 64) (s : State) : Out :=
  let off := offLH slice set 0
  if tdiLocked s (lhBits s slice set 0 6 1) then .next s
  else if setOn s slice set then .next (if v.getLsbD 0 then s else disableSet s slice set)
  else
    let w := lhctlValue v
    if v.getLsbD 0 ∧ setValid s slice set w then
      let vec := (List.range 4).map fun i => vectorAt (s.slice' slice) (regionBase s slice set + 8 * i)
      .next ((devSet s off w).modSlice slice fun x => { x with vectors := x.vectors.set set vec })
    else .next (devSet s off (w &&& ~~~1#64))

/-- LHSTAT_REARM (R397, R414): a write of 1 to DIS clears DIS and OVR. -/
def execLhstatRearm (slice set : Nat) (s : State) : Out :=
  if tdiLocked s (lhBits s slice set 0 6 1) then .next s else .next (devPut s (offLH slice set 0x20) 2 0 0)

end Sys2Proof.Machine
end

