-- ==== Sys2Proof/Machine/Stream.lean ====
section
/-!
DEFINITION. Stream programs on the producer slot: their start, every stream word, the freeze, and the scout (R49 to R53,
R274 to R287).
-/
namespace Sys2Proof.Machine

/-- What a stream word does: it goes on with the producer's new state, some queues' new contents and its cycles (R287); it
waits at its word, for a queue or for the data of an address; it freezes the stream with a reason, or as a read of memory has
failed; or it ends the program. -/
inductive PStep where
  | fetch (va : Nat)
  | go (p : Producer) (queues : FMap Queue) (cost : Nat)
  | wait (p : Producer)
  | freeze (reason : Nat)
  | bad (va n : Nat)
  | finish (queues : FMap Queue)

/-- A register of the producer slot; ms0 reads zero (R274). -/
def Producer.m (p : Producer) (n : BitVec 4) : Word := if n = 0 then 0 else p.ms.get n.toNat 0
/-- A register of the producer slot written; ms0 ignores writes. -/
def Producer.setM (p : Producer) (n : BitVec 4) (v : Word) : Producer := if n = 0 then p else { p with ms := p.ms.set n.toNat v }
/-- The producer at its next word. -/
def Producer.next (p : Producer) : Producer := { p with pc := p.pc + 4 }
/-- The producer at a branch target (R282). -/
def Producer.jump {w : Nat} (p : Producer) (off : BitVec w) : Producer := { p with pc := p.pc + 4 * off.signExtend 56 }

/-- Queues of the feed mask without EOS (R280, R286). -/
def Producer.openQueues (p : Producer) : List Nat := (List.range 8).filter fun q => p.feed.getLsbD q && !p.eos.getLsbD q

/-- A terminal entry pushed into some queues (R281). -/
def closeQueues (k : Core) (kind : QKind) (pay : List Byte) (l : List Nat) : FMap Queue :=
  l.foldl (fun qs n => qs.set n { (qs.get n {}) with term := some (kind, pay) }) k.queues

/-- The index of the next chunk, counted from 0. -/
def Producer.nextChunk (p : Producer) : Nat := if p.open_ then p.chunk.toNat + 1 else 0

-- The end of a program

/-- A stream program is over: its slot is free, and its launch, which is one program, is complete (R340). -/
def endProgram (s : State) (core : Nat) (launch : Option Nat) (queues : FMap Queue) : State :=
  let s := s.modCore core fun k => { k with prs := none, queues := queues }
  match launch.bind fun l => (s.launches.find? l).map fun x => (l, x) with
  | some (l, x) => { s with launches := s.launches.set l { x with left := 0 } }
  | none => s

/-- The payload of a POISON entry (R281). -/
def poisonEntry (p : Producer) (reason : Nat) : List Byte :=
  toBytes 4 p.chunk.toNat ++ toBytes 4 p.cursor ++ toBytes 1 reason ++ List.replicate 247 0

/-- The stream freezes (R280). -/
def freezeStream (s : State) (core : Nat) (p : Producer) (reason : Nat) : State :=
  endProgram s core p.launch (closeQueues (s.core core) .poison (poisonEntry p reason) p.openQueues)

/-- Why a read of header or payload has no value: data that are still to come from an address on, a read that fails, or a reason of
R280. -/
inductive PStop where
  | data (va : Nat)
  | bad (va n : Nat)
  | reason (n : Nat)
deriving DecidableEq, Repr

/-- What a word does that cannot read its data. -/
def PStop.step : PStop → PStep
  | .data va => .fetch va
  | .bad va n => .bad va n
  | .reason n => .freeze n

/-- Whether the program of a core waits for data at an address: for the walk of their page (R385), or for their line, which comes
to the slice first (R72). -/
def dataAwaited (s : State) (c : Nat) (p : Producer) (va : Nat) : Bool :=
  walkNeeded s (dieOf c) p.ctx (va / 4096) p.walkFor ||
    match translate s p.ctx 0 va with
    | .ok t => !(unbacked (t.pa va) || lineReady (s.slice' (sliceOf (dieOf c) (t.pa va))) (t.pa va / 128))
    | .error _ => false

/-- The program's request for the data that it awaits at an address: a walk, or its line (R74, R385). -/
def askData (s : State) (c : Nat) (p : Producer) (va : Nat) : State :=
  if walkNeeded s (dieOf c) p.ctx (va / 4096) p.walkFor then
    askWalk (s.modCore c fun k => { k with prs := some { p with walkAt := some s.cycle, walkFor := some (va / 4096) } }) (dieOf c) p.ctx (va / 4096)
  else
    let s := s.modCore c fun k => { k with prs := some { p with walkAt := some s.cycle } }
    match translate s p.ctx 0 va with
    | .ok t => (askAlone s (dieOf c) c t.key (t.pa va) false).1
    | .error _ => s

/-- The core whose stream program issues. -/
def streamCore (s : State) : Nat :=
  match s.cur with
  | .producer c => c
  | _ => 0

/-- `n` bytes of header or payload from an address on, at most 16, once their data are there. -/
def streamBytes (s : State) (p : Producer) (va n : Nat) : Except PStop (List Byte) :=
  match [va, va + n - 1].find? fun a => dataAwaited s (streamCore s) p a with
  | some a => .error (.data a)
  | none => match readVirt s p.ctx va n with
    | .ok l => .ok l
    | _ => .error (.bad va n)

/-- A stream word of the running program of a core. -/
def streamExec (f : State → Core → Producer → PStep) (s : State) : Out :=
  match s.cur with
  | .producer core =>
    let k := s.core core
    match k.prs with
    | none => .fault .noAgent
    | some p =>
      match f s k p with
      | .fetch va => .next (askData s core p va)
      | .go p' qs cost => .next (s.setCore core { k with prs := some { p' with holdTill := s.cycle + cost, walkFor := none, at_ := p.pc }, queues := qs })
      | .wait p' => .next (s.setCore core { k with prs := some p' })
      | .freeze r => .next (freezeStream s core p r)
      | .bad va n => .next (freezeStream (badVirt s p.ctx va n) core p 7)
      | .finish qs => .next (endProgram s core p.launch qs)
  | _ => .fault .noAgent

/-- The fetch of a stream word (R280); nothing while the latest word's cycles run. It waits for the walk of a page that has no
cached translation (R385). -/
def fetchProducer (s : State) (core : Nat) : Fetched :=
  match (s.core core).prs with
  | none => .took s
  | some p =>
    if s.cycle < p.holdTill then .took s
    else if walkNeeded s (dieOf core) p.ctx (p.pc.toNat / 4096) p.walkFor then
      .took (askWalk (s.modCore core fun k => { k with prs := some { p with walkAt := some s.cycle, walkFor := some (p.pc.toNat / 4096) } })
        (dieOf core) p.ctx (p.pc.toNat / 4096))
    else match readCode s p.ctx p.pc.toNat 4 with
    | .ok l => admitted (Decode.decodeStream (BitVec.ofNat 32 (ofBytes l)))
    | _ => .took (freezeStream s core p 10)

/-- A word that changes only the producer's registers and PC, in one cycle. -/
def streamWord (f : Producer → Producer) (s : State) : Out := streamExec (fun _ k p => .go (f p) k.queues 1) s

-- Scalar and control words (R283)

/-- PNOP (R283). -/
def execPnop (s : State) : Out := streamWord Producer.next s
/-- PLI (R283). -/
def execPli (md : BitVec 4) (imm : BitVec 22) (s : State) : Out := streamWord (fun p => p.next.setM md (imm.setWidth 32)) s
/-- PADD (R283). -/
def execPadd (md ma mb : BitVec 4) (s : State) : Out := streamWord (fun p => p.next.setM md (p.m ma + p.m mb)) s
/-- PSUB (R283). -/
def execPsub (md ma mb : BitVec 4) (s : State) : Out := streamWord (fun p => p.next.setM md (p.m ma - p.m mb)) s
/-- PAND (R283). -/
def execPand (md ma mb : BitVec 4) (s : State) : Out := streamWord (fun p => p.next.setM md (p.m ma &&& p.m mb)) s
/-- POR (R283). -/
def execPor (md ma mb : BitVec 4) (s : State) : Out := streamWord (fun p => p.next.setM md (p.m ma ||| p.m mb)) s
/-- PSHL (R283): 0 for a count of 32 or more. -/
def execPshl (md ma mb : BitVec 4) (s : State) : Out := streamWord (fun p => p.next.setM md (p.m ma <<< (p.m mb).toNat)) s
/-- PSHR (R283): 0 for a count of 32 or more. -/
def execPshr (md ma mb : BitVec 4) (s : State) : Out := streamWord (fun p => p.next.setM md (p.m ma >>> (p.m mb).toNat)) s
/-- PADDI (R283). -/
def execPaddi (md ma : BitVec 4) (imm : BitVec 14) (s : State) : Out :=
  streamWord (fun p => p.next.setM md (p.m ma + imm.signExtend 32)) s
/-- PJMP (R283). -/
def execPjmp (off : BitVec 22) (s : State) : Out := streamWord (fun p => p.jump off) s
/-- PBNZ (R283). -/
def execPbnz (ma : BitVec 4) (off : BitVec 14) (s : State) : Out :=
  streamWord (fun p => if p.m ma ≠ 0 then p.jump off else p.next) s
/-- PBEQ (R283). -/
def execPbeq (ma mb : BitVec 4) (off : BitVec 14) (s : State) : Out :=
  streamWord (fun p => if p.m ma = p.m mb then p.jump off else p.next) s

-- Payload bits (R277)

/-- An `m`-bit field of the payload at bit `b`; reason PASTEND or MEMORY where it cannot be read. -/
def payloadField (s : State) (p : Producer) (b m : Nat) : Except PStop Nat :=
  if m = 0 then .ok 0
  else if 8 * p.clen < b + m then .error (.reason 6)
  else match streamBytes s p (p.payload + b / 8) ((b + m - 1) / 8 + 1 - b / 8) with
    | .ok l => .ok (ofBytes l / 2 ^ (b % 8) % 2 ^ m)
    | .error e => .error e

/-- `n` fields of `m` bits each, in order. -/
def payloadFields (s : State) (p : Producer) (m : Nat) : Nat → Nat → Except PStop (List Nat)
  | 0, _ => .ok []
  | n + 1, b =>
    match payloadField s p b m with
    | .error e => .error e
    | .ok v => match payloadFields s p m n (b + m) with
      | .error e => .error e
      | .ok l => .ok (v :: l)

/-- PBITS (R284). -/
def execPbits (md : BitVec 4) (n : BitVec 6) (s : State) : Out :=
  streamExec (fun s k p =>
    match payloadField s p p.cursor n.toNat with
    | .error e => e.step
    | .ok v => .go { p.next.setM md (BitVec.ofNat 32 v) with cursor := p.cursor + n.toNat } k.queues 1) s

/-- PALIGN (R284). -/
def execPalign (s : State) : Out := streamWord (fun p => { p.next with cursor := ceilDiv p.cursor 8 * 8 }) s

-- Code tables (R278)

/-- Symbols of a length in a table of code lengths. -/
def lengthCount (lens : List Nat) (n : Nat) : Nat := (lens.filter (· == n)).length

/-- Whether the lengths fit the code space. -/
def tableFits (lens : List Nat) : Bool :=
  decide (((List.range 15).map fun i => lengthCount lens (i + 1) * 2 ^ (14 - i)).foldl (· + ·) 0 ≤ 2 ^ 15)

/-- The first code of a length: next[L] of R278. -/
def firstCode (lens : List Nat) : Nat → Nat
  | 0 => 0
  | n + 1 => (firstCode lens n + (if n = 0 then 0 else lengthCount lens n)) * 2

/-- The `i`-th symbol, in symbol order from `at_` on, of a length. -/
def nthSymbol (n : Nat) : List Nat → Nat → Nat → Option Nat
  | [], _, _ => none
  | l :: t, at_, i => if l = n then (if i = 0 then some at_ else nthSymbol n t (at_ + 1) (i - 1)) else nthSymbol n t (at_ + 1) i

/-- The symbol of code word `v` of length `n`. -/
def symbolOf (lens : List Nat) (n v : Nat) : Option Nat :=
  if n = 0 ∨ v < firstCode lens n then none else nthSymbol n lens 0 (v - firstCode lens n)

/-- Whether `v`, of length `n`, begins some longer code word. -/
def beginsCode (lens : List Nat) (n v : Nat) : Bool :=
  (List.range 15).any fun i =>
    let l := i + 1
    let lo := firstCode lens l
    decide (n < l) && decide (lengthCount lens l ≠ 0) && decide (lo / 2 ^ (l - n) ≤ v) &&
      decide (v ≤ (lo + lengthCount lens l - 1) / 2 ^ (l - n))

/-- A code word read bit by bit, the first bit its most significant: the symbol and its length, or a reason (R277, R284).
`fuel` bounds the length. -/
def readSymbol (s : State) (p : Producer) (lens : List Nat) : Nat → Nat → Nat → Except PStop (Nat × Nat)
  | 0, _, _ => .error (.reason 2)
  | fuel + 1, n, v =>
    if !beginsCode lens n v then .error (.reason 2)
    else match payloadField s p (p.cursor + n) 1 with
      | .error e => .error e
      | .ok bit =>
        match symbolOf lens (n + 1) (2 * v + bit) with
        | some y => .ok (y, n + 1)
        | none => readSymbol s p lens fuel (n + 1) (2 * v + bit)

/-- PTAB (R284). -/
def execPtab (n : BitVec 4) (s : State) : Out :=
  streamExec (fun s k p =>
    match payloadField s p p.cursor 9 with
    | .error e => e.step
    | .ok c =>
      match payloadFields s p 4 (c + 1) (p.cursor + 9) with
      | .error e => e.step
      | .ok lens =>
        if !tableFits lens then .freeze 3
        else .go { p.next with ct := p.ct.set n.toNat lens, cursor := p.cursor + 9 + 4 * (c + 1) } k.queues
          (2 + ceilDiv (c + 1) 16)) s

/-- PSYM (R284). -/
def execPsym (md : BitVec 4) (n : BitVec 4) (s : State) : Out :=
  streamExec (fun s k p =>
    match readSymbol s p (p.ct.get n.toNat []) 16 0 0 with
    | .error e => e.step
    | .ok (y, l) => .go { p.next.setM md (BitVec.ofNat 32 y) with cursor := p.cursor + l } k.queues 1) s

-- History (R279)

/-- Decoded byte number `j`, among the last 65,536. -/
def Producer.byte (p : Producer) (j : Nat) : Byte := p.hist.get (j % 65536) 0

/-- A byte appended. -/
def Producer.append (p : Producer) (v : Byte) : Producer := { p with hist := p.hist.set (p.w % 65536) v, w := p.w + 1 }

/-- Bytes that may be appended before an unconsumed byte would leave the window. -/
def Producer.room (p : Producer) : Nat := 65536 + p.o - p.w

/-- `n` bytes at O. -/
def Producer.ahead (p : Producer) (n : Nat) : List Byte := (List.range n).map fun i => p.byte (p.o + i)

/-- Payload bytes appended one by one: the reason of the first that cannot be read or appended. -/
def appendPayload (s : State) : Nat → Producer → Except PStop Producer
  | 0, p => .ok p
  | n + 1, p =>
    match payloadField s p p.cursor 8 with
    | .error e => .error e
    | .ok v => if p.room = 0 then .error (.reason 4) else appendPayload s n { p.append (BitVec.ofNat 8 v) with cursor := p.cursor + 8 }

/-- PLIT (R284). -/
def execPlit (ma : BitVec 4) (n : BitVec 14) (s : State) : Out :=
  streamExec (fun s k p =>
    if n = 0 then (if p.room = 0 then .freeze 4 else .go (p.next.append ((p.m ma).setWidth 8)) k.queues 1)
    else match appendPayload s n.toNat p with
      | .error e => e.step
      | .ok p' => .go p'.next k.queues (ceilDiv n.toNat 16)) s

/-- `n` copies of the byte at a distance back, each after the last (R284). -/
def appendBack (dist : Nat) : Nat → Producer → Producer
  | 0, p => p
  | n + 1, p => appendBack dist n (p.append (p.byte (p.w - dist)))

/-- PBREF (R284). -/
def execPbref (ma mb : BitVec 4) (s : State) : Out :=
  streamExec (fun _ k p =>
    let n := (p.m ma).toNat
    let dist := (p.m mb).toNat
    if dist = 0 ∨ min p.w 65536 < dist then .freeze 1
    else if p.room < n then .freeze 4
    else .go (appendBack dist n p).next k.queues (max 1 (ceilDiv n 16))) s

-- Chunks (R276, R284, R286)

/-- A chunk header: CLEN, ULEN and LAST, or reason HEADER or MEMORY. -/
def readHeader (s : State) (p : Producer) (va : Nat) : Except PStop (Nat × Nat × Bool) :=
  match streamBytes s p va 16 with
  | .ok l =>
    let v := ofBytes l
    if bitsN v 31 24 ≠ 0 ∨ bitsN v 127 65 ≠ 0 then .error (.reason 9) else .ok (bitsN v 23 0, bitsN v 63 32, v.testBit 64)
  | .error e => .error e

/-- The address of the header after a chunk's. -/
def nextHeader (at_ clen : Nat) : Nat := at_ + 16 + ceilDiv clen 16 * 16

/-- Whether a PCHUNK waits: for free entries in elastic mode, for the scout in scout mode (R286). -/
def chunkWaits (k : Core) (p : Producer) : Bool :=
  if p.scout then !p.scoutStop && decide (p.scouted < p.nextChunk + p.value + 1)
  else p.openQueues.any fun q => decide (32 < (k.queues.get q {}).data.length + p.value)

/-- PCHUNK (R284, R286). -/
def execPchunk (md : BitVec 4) (s : State) : Out :=
  streamExec (fun s k p =>
    if p.open_ ∧ p.last then .go (p.next.setM md 0xFFFFFFFF) k.queues 2
    else if chunkWaits k p then .wait { p with opening := true }
    else match readHeader s p p.header with
      | .error e => e.step
      | .ok (clen, ulen, last) =>
        .go { p.next.setM md (BitVec.ofNat 32 ulen) with
          chunk := BitVec.ofNat 32 p.nextChunk, open_ := true, last := last, header := nextHeader p.header clen
          payload := p.header + 16, clen := clen, cursor := 0, opening := false } k.queues 2) s

-- Output words (R285)

/-- Byte `i` of the entry that PPLANE makes of its consumed planes. -/
def planeByte (raw : List Byte) (k : Nat) (corr : Bool) (i : Nat) : Byte :=
  let bit (j : Nat) : Nat := if ((raw.getD (32 * j + i / 8) 0).toNat).testBit (i % 8) then 1 else 0
  let x := (List.range 8).foldl (fun acc j => acc + (if j < (raw.length / 32) then bit j * 2 ^ (7 - j) else 0)) 0
  BitVec.ofNat 8 (wrapN (bpCode (sextN x 8) k corr * 2 ^ (8 - k)) 8)

/-- PPLANE (R285). -/
def execPplane (k : BitVec 4) (corr : BitVec 1) (s : State) : Out :=
  let n := 32 * (k.toNat + (if corr = 1 ∧ k.toNat < 8 then 1 else 0))
  let (kk, cc) := (k.toNat, decide (corr = 1))
  streamExec (fun _ k p =>
    if p.w - p.o < n then .freeze 5
    else .go { p.next with
      entry := (List.range 256).map fun i => planeByte (p.ahead n) kk cc i
      f := 256, o := p.o + n } k.queues 4) s

/-- The element count of PCVT and PSCALE (R285). -/
def elementCount (p : Producer) (ma : BitVec 4) (bs bd : Nat) : Nat :=
  if ma = 0 then min ((p.w - p.o) / bs) ((256 - p.f) / bd) else (p.m ma).toNat

/-- PCVT and PSCALE: `c` elements converted from the history to the entry (R285). -/
def convertElements (ma : BitVec 4) (sf df : BitVec 5) (conv : Producer → Nat → Nat) (s : State) : Out :=
  streamExec (fun _ k p =>
    let bs := fmtBytes sf.toNat
    let bd := fmtBytes df.toNat
    let c := elementCount p ma bs bd
    if 256 < p.f + c * bd then .freeze 8
    else if p.w - p.o < c * bs then .freeze 5
    else
      let src := p.ahead (c * bs)
      let out := (List.range c).flatMap fun i => toBytes bd (conv p (ofBytes (slice src (bs * i) bs) % 2 ^ fmtWidth sf.toNat))
      .go { p.next with entry := patch p.entry p.f out, f := p.f + c * bd, o := p.o + c * bs } k.queues (max 1 (ceilDiv c 32))) s

/-- PCVT (R285). -/
def execPcvt (ma : BitVec 4) (sf df : BitVec 5) (rm : BitVec 2) (sat : BitVec 1) (s : State) : Out :=
  convertElements ma sf df (fun _ c => if sf = df then c else convert df.toNat sf.toNat rm.toNat (sat = 1) c) s

/-- PSCALE (R285, R115, R127). -/
def execPscale (ma mb : BitVec 4) (sf df : BitVec 5) (rm : BitVec 2) (sat : BitVec 1) (e8 : BitVec 1) (s : State) : Out :=
  convertElements ma sf df (fun p c =>
    convert df.toNat sf.toNat rm.toNat (sat = 1) c (some (valueOf ((p.m mb).toNat % 256) (if e8 = 1 then 0x1F else 0x1E)))) s

/-- PPUSH (R285). -/
def execPpush (q : BitVec 3) (s : State) : Out :=
  streamExec (fun _ k p =>
    if !hasN p.openQueues q.toNat then .freeze 8
    else
      let x := k.queues.get q.toNat {}
      if 32 ≤ x.data.length then .wait p
      else .go { p.next with entry := List.replicate 256 0, f := 0 }
        (k.queues.set q.toNat { x with data := x.data ++ [p.entry] }) 1) s

/-- PEOS (R285). -/
def execPeos (mask : BitVec 8) (s : State) : Out :=
  streamExec (fun _ k p =>
    if mask &&& ~~~p.feed ≠ 0 then .freeze 8
    else .go { p.next with eos := p.eos ||| mask } (closeQueues k .eos [] (p.openQueues.filter fun q => mask.getLsbD q)) 1) s

/-- PEND (R285). -/
def execPend (s : State) : Out := streamExec (fun _ k p => .finish (closeQueues k .eos [] p.openQueues)) s

-- Reconciliation modes (R286)

/-- PMODE (R286). -/
def execPmode (sc : BitVec 1) (v : BitVec 6) (s : State) : Out :=
  streamWord (fun p => { p.next with
    scout := sc = 1, value := v.toNat + 1, scoutAt := p.header, scouted := p.nextChunk, scoutStop := p.open_ && p.last }) s

/-- PSCOUT (R286). -/
def execPscout (md : BitVec 4) (s : State) : Out :=
  streamWord (fun p => p.next.setM md (if p.scout then BitVec.ofNat 32 p.scouted - 1 - p.chunk else 0)) s

/-- The first page of a payload for whose walk the scout must wait (R385), before any that faults. -/
def scoutWalk (s : State) (die ctx : Nat) (asked : Option Nat) : List Nat → Option Nat
  | [] => none
  | n :: t =>
    if walkNeeded s die ctx n asked then some n
    else match translate s ctx 0 (4096 * n) with
      | .ok _ => scoutWalk s die ctx asked t
      | .error _ => none

/-- The payload lines from `line` on that a scout requests into the L2 (R286), speculatively, so that none raises MISS (R74). A
page that faults stops the scout. -/
def scoutLines (s : State) (core ctx : Nat) : Nat → Nat → State × Bool
  | 0, _ => (s, true)
  | n + 1, line =>
    match translate s ctx 0 (128 * line) with
    | .error _ => (s, false)
    | .ok t =>
      let s := if keyGone s t.key then s else specRequest s core t.key (t.pa (128 * line))
      scoutLines s core ctx n (line + 1)

/-- The line of a header that the scout must still have from its slice, with its key. -/
def scoutLine (s : State) (core : Nat) (p : Producer) : Option (Nat × Nat) :=
  match translate s p.ctx 0 p.scoutAt with
  | .ok t =>
    let pa := t.pa p.scoutAt
    if unbacked pa || lineReady (s.slice' (sliceOf (dieOf core) pa)) (pa / 128) then none else some (t.key, pa)
  | .error _ => none

/-- SCOUT_HEADER_READ (R286): the scout reads the next header within its distance, once the walk of its page is over and its line
has come, and asks for its payload once the walks of that are (R385). -/
def execScoutHeaderRead (core : Nat) (s : State) : Out :=
  match (s.core core).prs with
  | none => .next s
  | some p =>
    let ahead := p.nextChunk + (if p.opening then 1 else 0) + p.value
    if !p.scout ∨ p.scoutStop ∨ ahead ≤ p.scouted then .next s
    else
      let put (s : State) (p : Producer) : State := s.modCore core fun k => { k with prs := some p }
      let walk (n : Nat) : State := askWalk (put s { p with scoutFor := some n }) (dieOf core) p.ctx n
      if walkNeeded s (dieOf core) p.ctx (p.scoutAt / 4096) p.scoutFor then .next (walk (p.scoutAt / 4096))
      else match scoutLine s core p with
      | some (key, pa) => .next (specRequest s core key pa)
      | none => match readVirt s p.ctx p.scoutAt 16 with
      | .ok l =>
        let v := ofBytes l
        let clen := bitsN v 31 0
        match scoutWalk s (dieOf core) p.ctx p.scoutFor (pagesOf (p.scoutAt + 16) clen) with
        | some n => .next (walk n)
        | none =>
        let first := (p.scoutAt + 16) / 128
        let (s, fine) := scoutLines s core p.ctx ((p.scoutAt + 16 + clen + 127) / 128 - first) first
        .next (put s { p with
          scoutAt := nextHeader p.scoutAt clen, scouted := p.scouted + 1, scoutStop := v.testBit 64 || !fine })
      | _ => .next ((put s { p with scoutStop := true }) |> fun s => badVirt s p.ctx p.scoutAt 16)

-- The start (R275)

/-- The rules that R275 sets on a start record. -/
def startRecordOk (l : List Byte) : Bool :=
  let v := ofBytes l
  decide (bitsN v 63 56 = 0) && decide (bitsN v 67 64 = 0) && decide (bitsN v 191 136 = 0) &&
    decide (v / 2 ^ 448 = 0)

/-- The producer's state at a start (R275). -/
def startProducer (l : List Byte) (ctx launch : Nat) : Producer :=
  let v := ofBytes l
  { ctx := ctx, launch := some launch, pc := BitVec.ofNat 56 v, feed := BitVec.ofNat 8 (bitsN v 135 128)
    header := bitsN v 127 64, entry := List.replicate 256 0
    ms := (List.range 8).map fun i => (i + 1, BitVec.ofNat 32 (bitsN v (223 + 32 * i) (192 + 32 * i))) }

end Sys2Proof.Machine
end

