-- ==== Sys2Proof/Machine/Tasks.lean ====
section
/-!
DEFINITION. Tasks: SPAWN, moorings and their releases, WAITJ, LAUNCH, and the end of a fibre and of a block (R20 to R35,
R182 to R185, R290, R359, R433, R434).
-/
namespace Sys2Proof.Machine

-- Moorings (R27 to R31, R348)

/-- The node of a context's loaded images at an entry. -/
def nodeAt (s : State) (ctx : Nat) (entry : VAddr) : Option Node :=
  (s.images.filter fun i => i.ctx = ctx).findSome? fun i => i.nodes.find? fun n => n.entry = entry

/-- The key of a context's mooring for an entry. -/
def moorKey (ctx : Nat) (entry : VAddr) : Nat := ctx * 2 ^ 56 + entry.toNat

/-- Moorings whose records a core's own storage holds. -/
def inCore (k : Core) : Nat := (k.moorings.filter fun p => !p.2.spilled).length

/-- Records that a cluster's mooring queue can hold (R348). -/
def mqSlots (s : State) (cl : Nat) : Nat := devBits s (offMQ cl 8) 23 0

/-- The 64 bytes of a task record in a slot of a mooring queue or of a save area: the manual names the record's contents and
not their places there (R23, R348, R372, log 88). -/
def Task.bytes (t : Task) : List Byte :=
  toBytes 8 t.entry.toNat ++ toBytes 8 t.join.toNat ++ toBytes 4 t.args.length ++
    ((List.range 7).flatMap fun i => toBytes 4 (t.args.getD i 0).toNat) ++ toBytes 4 t.cls ++ toBytes 4 t.prio ++ List.replicate 8 0

/-- The task record that 64 bytes hold. -/
def Task.ofBytes (l : List Byte) : Task :=
  let f (o n : Nat) : Nat := Machine.ofBytes (slice l o n)
  { entry := BitVec.ofNat 56 (f 0 8), join := BitVec.ofNat 56 (f 8 8)
    args := (List.range (min 7 (f 16 4))).map fun i => BitVec.ofNat 32 (f (20 + 4 * i) 4), cls := f 48 4 % 2, prio := f 52 4 % 8 }

/-- The slots of a cluster's mooring queue that hold records, those of saved contexts too. -/
def mqTaken (s : State) (cl : Nat) : List Nat :=
  (s.cores.flatMap (fun (c, k) => if clusterOf c = cl then k.moorings.vals else []) ++
    s.saves.flatMap (fun (n, v) => if clusterOf (n / 64) = cl then v.k.moorings.vals else [])).flatMap fun m =>
      m.recs.filterMap fun t => t.slot

/-- A record stored in the first free slot of a cluster's mooring queue (R348). -/
def storeTask (s : State) (cl ctx : Nat) (t : Task) : State × Task :=
  match (List.range (mqSlots s cl)).find? fun n => !hasN (mqTaken s cl) n with
  | none => (s, t)
  | some n => (physWrite s ctx 64 (devBits s (offMQ cl 0) 51 0 + 64 * n) t.bytes, { t with slot := some n })

/-- A record as the mooring queue holds it; one of the core's own storage is as it is. -/
def loadTask (s : State) (cl : Nat) (t : Task) : Task :=
  match t.slot with
  | none => t
  | some n => match physRead s 64 (devBits s (offMQ cl 0) 51 0 + 64 * n) 64 with
    | some l => Task.ofBytes l
    | none => { t with slot := none }

/-- Where a record for a key would be held: in the core (false), in the cluster's queue (true), or nowhere. -/
def moorRoom (s : State) (c key : Nat) : Option Bool :=
  let k := s.core c
  let queue := if (s.cluster (clusterOf c)).mqUsed < mqSlots s (clusterOf c) then some true else none
  match k.moorings.find? key with
  | some m => if m.spilled then queue else some false
  | none => if inCore k < 64 then some false else queue

/-- Whether a class and priority go before others (R345, R346). -/
def prior (c p c' p' : Nat) : Bool := decide (c < c') || (decide (c = c') && decide (p' < p))

/-- The class and priority of a released block: the highest of its records' (R346). -/
def recsPrio (l : List Task) : Nat × Nat :=
  l.foldl (fun (c, p) t => if prior t.cls t.prio c p then (t.cls, t.prio) else (c, p))
    ((l.headD {}).cls, (l.headD {}).prio)

/-- A mooring releases every record it holds as one block, which enters its cluster's placement order (R30, R31, R32). -/
def releaseMooring (s : State) (c key : Nat) : State :=
  match (s.core c).moorings.find? key with
  | none => s
  | some m =>
    let r := (s.core c).relNum.get m.ctx 0
    let m := { m with recs := m.recs.map (loadTask s (clusterOf c)) }
    let (cls, prio) := recsPrio m.recs
    let w : Waiting :=
      { ctx := m.ctx, blk := BitVec.ofNat 32 (c * 2 ^ 21 + r % 2 ^ 21), nfibre := m.recs.length, win := m.node.win,
        nbar := m.node.nbar, spm := m.node.spm, stage := m.node.stage, entry := m.node.entry, tasks := m.recs,
        clusters := BitVec.ofNat 8 (2 ^ clusterOf c), cls := cls, prio := prio, entered := s.cycle, home := some c,
        number := s.orderNum, weights := m.node.weights }
    let s := s.modCore c fun k => { k with moorings := k.moorings.del key, relNum := k.relNum.set m.ctx (r + 1) }
    let s := if m.spilled then s.modCluster (clusterOf c) fun x => { x with mqUsed := x.mqUsed - m.recs.length } else s
    { s with order := s.order ++ [w], orderNum := s.orderNum + 1 }

/-- A record enters its mooring; the entry that reaches the count releases the block in the same cycle (R30). -/
def enterMooring (s : State) (c : Nat) (node : Node) (ctx : Nat) (t : Task) (spilled : Bool) : State :=
  let key := moorKey ctx node.entry
  let m := (s.core c).moorings.get key { ctx := ctx, node := node, expiry := some (s.cycle + node.timer), spilled := spilled }
  let (s, t) := if spilled then storeTask s (clusterOf c) ctx t else (s, t)
  let m := { m with recs := m.recs ++ [t] }
  let s := s.modCore c fun k => { k with moorings := k.moorings.set key m }
  let s := if spilled then s.modCluster (clusterOf c) fun x => { x with mqUsed := x.mqUsed + 1 } else s
  if m.node.count ≤ m.recs.length then releaseMooring s c key else s

/-- MOORING_TIMER_EXPIRY (R30). -/
def execMooringTimerExpiry (core key : Nat) (s : State) : Out :=
  match (s.core core).moorings.find? key with
  | some m =>
    match m.expiry with
    | some e => if e ≤ s.cycle ∧ (s.core core).preempt.get m.ctx 0 ≠ 2 then .next (releaseMooring s core key) else .next s
    | none => .next s
  | none => .next s

-- SPAWN (R24, R182)

/-- Whether an entry lies in a sealed page of a context (R24 step 1, R383). -/
def sealedAt (s : State) (ctx va : Nat) : Bool :=
  match lookupPage s ctx va with
  | .ok t => sealedFor s ctx t
  | .error _ => false

/-- The join word of an access pair: its value, or none for POISON. -/
def joinWord (s : State) (t : Tlb) (va : Nat) : Option Nat := (physRead s t.key (t.pa va) 4).map ofBytes

/-- The increment of a join word at SPAWN's point, a strong read-modify-write (R24, R92); POISON keeps it from being written (R99). -/
def bumpJoin (s : State) (c ctx : Nat) (t : Tlb) (va : Nat) : State :=
  match joinWord s t va with
  | some v => locationWrite s.stampNext c
      { id := 0, slot := 0, fib := 0, ctx := ctx, op := .rmw 0, va := va, pa := t.pa va, key := t.key, size := 4 }
      (toBytes 4 ((v + 1) % 2 ^ 32))
  | none => badRead s ctx (t.pa va) 4

/-- Step 4 of R24: the increment and the placing of the record at one point, or the wait for mooring space. -/
def FCtx.spawnAt (q : FCtx) (s : State) (node : Node) (task : Task) (join : Option Tlb) : State :=
  match moorRoom s q.c (moorKey q.k.ctx node.entry) with
  | none => q.wait s .moored
  | some spilled =>
    let s := match join with
      | some t => bumpJoin s q.c q.k.ctx t task.join.toNat
      | none => s
    enterMooring (q.retire s q.x) q.c node q.k.ctx task spilled

/-- SPAWN (R24, R182). Its increment releases, so the fibre's earlier accesses are performed first, before the join word is
looked at; and the increment is made at the word's slice, which has the line by then (R72, R74). -/
def execSpawn (f : FHdr) (sa sb sc : BitVec 8) (count : BitVec 3) (s : State) : Out :=
  fibreExec f ({
    srcs := [srcA sa 2] ++ (if count = 0 then [] else [runB sb count.toNat]) ++ [srcC sc 2]
    act := fun q s =>
      let entry := q.gg sa
      let join := q.gg sc
      let node := if entry.toNat < 2 ^ 56 ∧ sealedAt s q.k.ctx entry.toNat then nodeAt s q.k.ctx (entry.setWidth 56) else none
      match node with
      | none => q.trapAt s 0x08 entry 2 0
      | some n =>
        let task : Task :=
          { entry := n.entry, args := (List.range count.toNat).map (fun i => q.x.g q.k.win (sb.toNat + i)),
            join := join.setWidth 56, cls := q.k.cls, prio := q.k.prio }
        if join = 0 then q.released s .moored fun q s => q.spawnAt s n task none
        else if join.toNat % 4 ≠ 0 then q.align s join.toNat 4
        else q.translated s 2 join.toNat fun t => q.released s .moored fun q s =>
          let (s, there) := askAlone s (dieOf q.c) q.c t.key (t.pa join.toNat) true
          if !there then q.wait s .moored
          else if joinWord s t join.toNat = some 0xFFFFFFFF then q.bounds s 0xFFFFFFFF 2
          else q.spawnAt s n task (some t) }) s

/-- Whether an access that the issuing fibre would make now is held back by one that it has issued (R85, R91). -/
def FCtx.heldBack (q : FCtx) (s : State) (a : Access) : Bool := (openOf s q.c q.b q.f).any fun b => a.heldBy b

/-- WAITJ (R26, R183): a strong acquire load at the word's slice (R72, R74), made once those before it that R85 puts first have
been performed. -/
def execWaitj (f : FHdr) (sa : BitVec 8) (s : State) : Out :=
  fibreExec f ({
    srcs := [srcA sa 2]
    act := fun q s =>
      let va := (q.gg sa).toNat
      q.globalChecks s 0 va 4 fun t =>
        if q.heldBack s { id := 0, slot := q.b, fib := q.f, op := .load false 4, va := va, pa := t.pa va, size := 4, kind := 2 } then
          q.wait s .join
        else
          let (s, there) := askAlone s (dieOf q.c) q.c t.key (t.pa va) false
          if !there then q.wait s .join
          else match joinWord s t va with
          | none => q.trapAt (badRead s q.k.ctx (t.pa va) 4) 0x03 (BitVec.ofNat 64 va) 0xFFFF 0
          | some 0 => q.retire s.stampNext (q.x.acquire s.cycle)
          | some _ => q.wait s .join }) s

/-- LAUNCH (R184): the record is read, and d written, when the record reaches the dispatcher (R338). -/
def execLaunch (f : FHdr) (d sa : BitVec 8) (queue : BitVec 7) (s : State) : Out :=
  fibreExec f ({
    srcs := [srcA sa 2]
    dsts := [(d.toNat, 1)]
    act := fun q s =>
      let va := (q.gg sa).toNat
      q.globalChecks s 0 va 128 fun t => q.issueAccess s
        { id := 0, slot := 0, fib := 0, op := .launch queue.toNat, va := va, pa := t.pa va, key := t.key, size := 128,
          kind := 3, scope := 3, dst := d.toNat, nregs := 1 } }) s

-- Stopped commands and traps of fibres that end (R290, R356, R359, R446)

/-- The head command of a core, if it stands stopped and is one of these: its stop record. -/
def stoppedHead (k : Core) (mine : CmdOwner → Bool) : Option StopRec :=
  match k.cpe with
  | x :: _ => if mine x.owner then x.stop else none
  | [] => none

/-- A stopped head command leaves its engine (R290). -/
def dropHead (s : State) (c : Nat) (mine : CmdOwner → Bool) : State :=
  match (s.core c).cpe with
  | x :: _ => if mine x.owner && x.stop.isSome then removeCmd s c x else s
  | [] => s

/-- The list without repeats, in order. -/
def uniqueStops : List StopRec → List StopRec
  | [] => []
  | a :: t => a :: (uniqueStops t).filter fun b => b ≠ a

/-- The outermost frame of a fibre, by address, with bytes 16 to 47 of it and its stop record (R363). -/
def outerFrame (s : State) (c ctx : Nat) (x : Fibre) : Option (Nat × List Byte × List Byte) :=
  match frameAt s c ctx x 0 with
  | none => none
  | some a => match readVirt s ctx a 256 with
    | .ok l => some (a, slice l 16 32, slice l 160 64)
    | _ => none

/-- FRAMEADDR and TRAPINFO of an ORPHAN entry (R369): those of the fibre's frame that holds the stop record, or zero where
none does (log 86). -/
def orphanFrame (s : State) (c ctx : Nat) (x : Fibre) (r : StopRec) : Nat × List Byte :=
  match outerFrame s c ctx x with
  | some (a, info, stop) => if stop = r.bytes then (a, info) else (0, zero32)
  | none => (0, zero32)

/-- An ORPHAN entry for each stop record, naming a fibre that has ended. -/
def orphanAll (s : State) (ctx c b f : Nat) (x : Fibre) (l : List StopRec) : State :=
  (uniqueStops l).foldl (fun s r =>
    orphanLog s ctx c f b (orphanFrame s c ctx x r).1 (orphanFrame s c ctx x r).2 r.bytes) s

/-- What an ended fibre leaves: its engine faults and its stopped XCOPY go to the fault log (R290, R356); a
PROMISE_MISSED is discarded. -/
def orphanFibre (s : State) (c b f ctx : Nat) (x : Fibre) : State :=
  let mine (o : CmdOwner) : Bool := match o with
    | .fibre b' f' _ => decide (b' = b) && decide (f' = f)
    | .tile _ _ _ => false
  let l := x.pending.filterMap (fun t => t.stop) ++ (stoppedHead (s.core c) mine).toList
  orphanAll (dropHead s c mine) ctx c b f x l

/-- Whether a command is a tile program's of a block. -/
def tileOf (b : Nat) : CmdOwner → Bool
  | .tile b' _ _ => b' = b
  | .fibre _ _ _ => false

/-- Whether a command is that of a block's tile program of one lamp grant. -/
def grantOf (b g : Nat) : CmdOwner → Bool
  | .tile b' _ g' => decide (b' = b) && decide (g' = g)
  | .fibre _ _ _ => false

/-- The tile program of a block whose last fibre has ended is abandoned (R359): an ORPHAN entry for its trap, with the frame
of the handler that the fibre was in, and one for each other stopped command of this grant. -/
def abandonTile (s : State) (c b f ctx : Nat) (x : Fibre) (t : Trap) : State :=
  let k := s.core c
  let mine := grantOf b k.tsq.grant
  let others := k.tsq.held.filterMap (fun h => h.stop) ++ (stoppedHead k mine).toList
  let s := dropHead s c mine
  let (a, info) := ((outerFrame s c ctx x).map fun p => (p.1, p.2.1)).getD (0, zero32)
  let s := orphanLog s ctx c f b a info ((t.stop.map StopRec.bytes).getD zero64)
  let s := orphanAll s ctx c b f x (others.filter fun r => some r ≠ t.stop)
  let s := s.modBlock c b fun k => { k with requested := false, gate := none, gbuf := none }
  passLamp s c

/-- What becomes of the tile trap whose handler an ended lead fibre was running: it goes anew to the next lead fibre, or
the tile program is abandoned (R359). -/
def redeliverTile (s : State) (c b f : Nat) (x : Fibre) : State :=
  match s.block c b, (s.core c).tsq.stopped with
  | some k, some t =>
    if (s.core c).lamp ≠ some b then s
    else match leadFibre k with
      | some g => takeTrap s c b g t
      | none => abandonTile s c b f k.ctx x t
  | _, _ => s

/-- What becomes of a block's traps of R446 when a fibre ends: one that its handler had not returned from is pending
again; with no fibre left they go to the fault log and the stopped command leaves. -/
def redeliverBlock (s : State) (c b f : Nat) (x : Fibre) : State :=
  match s.block c b with
  | none => s
  | some k =>
    let k' := match k.owed with
      | some (g, t) => if g = f then { k with owed := none, pending := t :: k.pending } else k
      | none => k
    if k'.live.isEmpty then
      let l := k'.pending.filterMap (fun t => t.stop) ++
        (if (s.core c).lamp = some b then [] else (stoppedHead (s.core c) (tileOf b)).toList)
      let s := if (s.core c).lamp = some b then s else dropHead s c (tileOf b)
      orphanAll (s.setBlock c b { k' with pending := [] }) k.ctx c b f x l
    else s.setBlock c b k'

-- FEND (R21, R185)

/-- The decrement of a fibre's join word, performed after its earlier accesses (R21 step 3). -/
def joinAccess (s : State) (c b f ctx : Nat) (join : VAddr) : State :=
  if join = 0 then s
  else s.modCore c fun k => { k with
    pendId := k.pendId + 1
    pend := k.pend ++ [{ id := k.pendId, slot := b, fib := f, ctx := ctx, op := .joinDec, va := join.toNat, size := 4,
                         kind := 3, scope := 3, cycle := s.cycle }] }

/-- The frame slots that a fibre held are free again. -/
def freeFrames (s : State) (c ctx : Nat) (l : List Nat) : State := l.foldl (fun s n => freeFrame s c ctx (some n)) s

/-- A fibre is struck from every mask in which it is enrolled (R21 step 2). -/
def strikeAll (s : State) (c b f : Nat) (masks : List Nat) : State :=
  masks.foldl (fun s j => changeMask s c b j fun m => m.strike f) s

/-- The end of a fibre (R21). -/
def endFibre (s : State) (c b f : Nat) (k : Block) (x : Fibre) : State :=
  let s := s.setFibre c b f { x with status := .ended, pending := [], frames := [] }
  let s := strikeAll s c b f ((k.masks.filter fun m => hasN m.2.enrolled f).map (·.1))
  let s := joinAccess s c b f k.ctx x.join
  let s := freeFrames s c k.ctx x.frames
  let s := orphanFibre s c b f k.ctx x
  let s := if 0 < x.depth ∧ leadFibre k = some f then redeliverTile s c b f x else s
  let s := redeliverBlock s c b f x
  let s := s.modBlock c b fun y => { y with sigSum := y.sigSum + x.sig }
  checkGate s c b

/-- FEND (R21, R185). -/
def execFend (f : FHdr) (s : State) : Out :=
  fibreExec f ({
    act := fun q s =>
      if q.x.join = 0 then endFibre s q.c q.b q.f q.k q.x
      else q.translated s 2 q.x.join.toNat fun _ => endFibre s q.c q.b q.f q.k q.x }) s

/-- JOIN_DECREMENT (R21): the decrement is performed when the fibre's earlier accesses have been, at the slice of its line (R72, R74). -/
def execJoinDecrement (core id : Nat) (s : State) : Out :=
  match findAccess s core id with
  | some a =>
    match a.op with
    | .joinDec =>
      if ¬ (a.waiting ∧ mayPerform (s.core core) a) then .next s
      else match translate s a.ctx 2 a.va with
        | .error _ => .next (performFor s core a)
        | .ok t =>
          let pa := t.pa a.va
          if unbacked pa || lineReady (s.slice' (sliceOf (dieOf core) pa)) (pa / 128) then .next (performFor s core a)
          else .next (missAlone s core { a with pa := pa, key := t.key })
    | _ => .next s
  | none => .next s

/-- FIBRE_CONTEXT_FREE (R21 step 4): no load to the ended fibre's window is outstanding. -/
def execFibreContextFree (core slot fib : Nat) (s : State) : Out :=
  match s.fibre core slot fib with
  | some x =>
    if x.status = .ended ∧ !((s.core core).pend.any fun a => decide (a.slot = slot) && decide (a.fib = fib) && decide (a.dst ≠ 0)) then
      .next (s.modBlock core slot fun k => { k with fibres := k.fibres.del fib })
    else .next s
  | none => .next s

-- The end of a block (R35, R64, R433, R434)

/-- Whether an engine command of a block is outstanding (R35). -/
def engineBusy (k : Core) (b : Nat) : Bool :=
  (k.cpe.any fun x => x.owner.slot = b) || (k.mxe.jobs.any fun j => decide (j.slot = b) && j.att.isSome) || (k.mxe.queue.any fun a => a.slot = b) ||
    (match k.xcu.run with
      | some r => r.slot = b
      | none => false)

/-- Whether a block ends now (R35). -/
def blockOver (k : Core) (b : Nat) (x : Block) : Bool := x.live.isEmpty && !engineBusy k b && k.lamp ≠ some b

/-- A buffer homed in an ended block's allocation is invalid (R64). -/
def Buf.without (epoch : Nat) (b : Buf) : Buf := if b.owner = epoch then { b with valid := false } else b

/-- Every buffer of an ended block is invalidated wherever it is held, and inbox entries holding it go (R64). -/
def invalidateBufs (s : State) (epoch : Nat) : State :=
  let drop (k : Core) : Core := { k with
    blocks := k.blocks.map fun (b, x) => (b, { x with handles := x.handles.map fun (h, y) => (h, y.without epoch) })
    inbox := k.inbox.filter fun e => e.buf.owner ≠ epoch }
  { s with cores := s.cores.map (fun (c, k) => (c, drop k)), saves := s.saves.map fun (n, v) => (n, { v with k := drop v.k }) }

/-- The entry of a block's end in the signature ring (R434). -/
def sigEntry (s : State) (x : Block) : State :=
  match x.sigRing with
  | none => s
  | some (base, logn) =>
    let n := ofBytes ((physRead s x.ctx base 8).getD [])
    let e := toBytes 8 (if x.launch.isSome then x.record.toNat else x.entry.toNat) ++ toBytes 4 x.blk.toNat ++
      toBytes 4 x.nfibre ++ toBytes 8 x.sigSum.toNat ++ toBytes 8 s.cycle
    let s := if n < 2 ^ logn then physWrite s x.ctx x.ctx (base + 64 + 32 * n) e else s
    physWrite s x.ctx x.ctx base (toBytes 8 (n + 1))

/-- One block of a launch has ended. -/
def launchStep (s : State) (id : Nat) : State :=
  match s.launches.find? id with
  | some l => { s with launches := s.launches.set id { l with left := l.left - 1 } }
  | none => s

/-- BLOCK_END (R35): barriers are unbound, the allocation is freed and its bytes are gone, masks are discarded and the signature
is recorded. It comes once the block's accesses have been performed: its allocation is given up after them, and the launch's
completion comes after them (R344, log 6). -/
def execBlockEnd (core slot : Nat) (s : State) : Out :=
  match s.block core slot with
  | none => .next s
  | some x =>
    if !blockOver (s.core core) slot x then .next s
    else if !(openOfBlock (s.core core) slot).isEmpty then .next s
    else
      let s := sigEntry s x
      let s := s.modCore core fun k => { k with
        blocks := k.blocks.del slot
        bars := k.bars.filter fun p => !hasN x.bars p.1
        spm := k.spm.filter fun p => !(decide (x.spmBase ≤ p.1) && decide (p.1 < x.spmBase + x.spmLen))
        pend := k.pend.filter fun a => !(decide (a.slot = slot) && (match a.op with
          | .load _ _ => true
          | _ => false)) }
      let s := invalidateBufs s x.epoch
      match x.launch with
      | some id => .next (launchStep s id)
      | none => .next s

end Sys2Proof.Machine
end

