-- ==== Sys2Proof/Machine/Launch.lean ====
section
/-!
DEFINITION. Launch queues, launch records and graphs, and the placement of blocks (R19, R33, R71, R275, R300, R336 to R347,
R351).
-/
namespace Sys2Proof.Machine

-- Queues (R336 to R338)

/-- A field [hi:lo] of QCTL. -/
def qctl (s : State) (q hi lo : Nat) : Nat := devBits s (offQ q 8) hi lo
/-- The context that a queue is bound to. -/
def queueCtx (s : State) (q : Nat) : Nat := qctl s q 11 6
/-- HEAD of a queue. -/
def queueHead (s : State) (q : Nat) : Nat := devBits s (offQ q 0x18) 31 0
/-- TAIL of a queue. -/
def queueTail (s : State) (q : Nat) : Nat := devBits s (offQ q 0x10) 31 0
/-- The records of a queue's device inbox. -/
def queueBox (s : State) (q : Nat) : List InRec := s.inboxes.get q []

/-- An error recorded in QERR with its interrupt (R341, R413). -/
def queueError (s : State) (q code index : Nat) : State :=
  raiseIrq (devSet s (offQ q 0x20) (BitVec.ofNat 64 (1 + code * 16 + index * 256))) (queueCtx s q) 1

/-- QTAIL_WRITE (R337): a TAIL too far ahead of HEAD is an overrun, which disables the queue. -/
def execQtailWrite (q : Nat) (v : BitVec 32) (s : State) : Out :=
  let head := queueHead s q
  let s := devSet s (offQ q 0x10) (v.setWidth 64)
  if 2 ^ qctl s q 15 12 < (v - BitVec.ofNat 32 head).toNat then
    .next (queueError (devPut (devSet s (offQ q 0x18) (v.setWidth 64)) (offQ q 8) 0 0 0) q 4 head)
  else .next s

/-- QCTL_WRITE (R336, R414): while EN is 1 only EN may change; a LOGN outside 4 to 15 leaves EN at 0. -/
def execQctlWrite (q : Nat) (v : BitVec 64) (s : State) : Out :=
  if tdiLocked s (queueCtx s q) then .next s
  else if qctl s q 0 0 = 1 then .next (if v.getLsbD 0 then s else devPut s (offQ q 8) 0 0 0)
  else
    let w := v &&& 0xFFFF
    .next (devSet s (offQ q 8) (if bitsN w.toNat 15 12 < 4 then w &&& ~~~1#64 else w))

-- Records (R339 to R341)

/-- The fields of a launch record. -/
def parseRecord (l : List Byte) : LRec :=
  let v := ofBytes l
  let f (hi lo : Nat) : Nat := bitsN v (8 * hi + 7) (8 * lo)
  { entry := BitVec.ofNat 56 (f 7 0), nblock := f 11 8, nfibre := f 13 12, win := 8 * f 14 14, nbar := f 15 15
    spm := f 19 16, stage := f 20 20 % 8, fuse := (f 20 20).testBit 3, kind := if (f 20 20).testBit 4 then 1 else 0
    qid := f 21 21, stagger := f 23 22
    args := (List.range 6).map fun i => BitVec.ofNat 32 (f (27 + 4 * i) (24 + 4 * i))
    done := BitVec.ofNat 64 (f 55 48), succ := BitVec.ofNat 64 (f 63 56), nsucc := f 69 68
    place := BitVec.ofNat 8 (f 70 70), core := f 73 72 }

/-- A field of a record's bytes. -/
def recBytes (l : List Byte) (hi lo : Nat) : Nat := bitsN (ofBytes l) (8 * hi + 7) (8 * lo)

/-- Code RULE of R341: the limits and the reserved bytes of R339 and R340. The windows of a block fit in a core's register
file (R16, R341). -/
def ruleOk (s : State) (ctx : Nat) (l : List Byte) : Bool :=
  let f := recBytes l
  let r := parseRecord l
  let common := decide (f 7 7 = 0) && decide (f 20 20 < 32) && decide (r.qid < 128) && decide (f 55 48 % 4 = 0) &&
    (if r.nsucc = 0 then decide (f 63 56 = 0) else decide (f 63 56 % 8 = 0)) && decide (f 71 71 = 0) && decide (f 127 74 = 0)
  common &&
    if r.kind = 1 then
      decide (f 6 0 % 64 = 0) && decide (f 19 8 = 0) && decide (f 47 22 = 0) && decide (f 70 70 = 0) &&
        decide (r.core < Config.cores)
    else
      decide (1 ≤ r.nblock) && decide (r.nblock ≤ 2 ^ 24) && decide (1 ≤ r.nfibre) && decide (r.nfibre ≤ 1023) &&
        decide (8 ≤ r.win) && decide (r.win ≤ 256) && decide (r.nbar ≤ 16) && decide (r.spm ≤ Config.spmBytes) &&
        decide (r.spm % 256 = 0) && decide (r.stagger ≤ 4096) && decide (r.core = 0) &&
        decide (r.nfibre * r.win ≤ Config.coreRegs) &&
        (match funcAt s ctx r.entry with
          | some g => g.kind ≠ 0 || decide (g.win ≤ r.win)
          | none => true)

/-- Whether an address is the start of a sealed function of a kind (R341 code 2, R383). -/
def sealedFunc (s : State) (ctx kind : Nat) (entry : VAddr) : Bool :=
  (match funcAt s ctx entry with
    | some g => decide (g.kind = kind)
    | none => false) &&
    (match lookupPage s ctx entry.toNat with
      | .ok t => sealedFor s ctx t
      | .error _ => false)

/-- The start record of a KIND 1 record, if it keeps to R275. -/
def startRecord (s : State) (ctx : Nat) (at_ : VAddr) : Option (List Byte) :=
  match readVirt s ctx at_.toNat 64 with
  | .ok l => if startRecordOk l && sealedFunc s ctx 2 (BitVec.ofNat 56 (recBytes l 6 0)) then some l else none
  | _ => none

/-- The first failing check of R341 on a record's bytes; none where it may be launched. -/
def checkRecord (s : State) (ctx : Nat) (started : Bool) (l : List Byte) : Option Nat :=
  let r := parseRecord l
  if !ruleOk s ctx l then some 1
  else if !(if r.kind = 1 then (startRecord s ctx r.entry).isSome else sealedFunc s ctx 0 r.entry) then some 2
  else if !started ∧ recBytes l 67 64 ≠ 0 then some 3
  else none

-- LAUNCH (R184, R338)

/-- Whether an access is a LAUNCH on its way to the dispatcher. -/
def Access.launching (a : Access) : Option Nat :=
  match a.op, a.phase with
  | .launch q, .issued => some q
  | _, _ => none

/-- The oldest LAUNCH that may be performed: its core, its access and its queue. -/
def nextLaunch (s : State) : Option (Nat × Access × Nat) :=
  s.cores.findSome? fun (c, k) => k.pend.findSome? fun a =>
    match a.launching with
    | some q => if mayPerform k a then some (c, a, q) else none
    | none => none

/-- Whether a record has the form of a seal request and not of a launch record (R334, R339). -/
def sealForm (l : List Byte) : Bool := decide (recBytes l 11 8 ≠ 0) && decide (recBytes l 15 12 = 0)

/-- LAUNCH_INBOX_ARRIVAL (R338): the oldest LAUNCH reaches the hub; its record is copied into the inbox of its queue, or
its status says why not. -/
def execLaunchInboxArrival (s : State) : Out :=
  match nextLaunch s with
  | none => .next s
  | some (c, a, q) =>
    let closed := qctl s q 0 0 = 0 || decide (queueCtx s q ≠ a.ctx)
    match physRead s a.key a.pa 128 with
    | none => .next (settleStatus s c a.id (if closed then 3 else 2))
    | some l =>
      if closed || (qctl s q 1 1 = 1 && !sealForm l) then .next (settleStatus s c a.id 3)
      else if 16 ≤ (queueBox s q).length then .next (settleStatus s c a.id 1)
      else
        let rec_ : InRec := { bytes := l, addr := BitVec.ofNat 56 a.va, launcher := if qctl s q 1 1 = 1 then none else some (c, a.id) }
        let s := { s with inboxes := s.inboxes.set q (queueBox s q ++ [rec_]) }
        if qctl s q 1 1 = 1 then .next (settleStatus s c a.id 0)
        else .next (setAccess s c { a with phase := .performed, val := [] })

-- The dispatcher takes records (R340, R341, R345)

/-- The record at the head of a queue: whether it stands in the inbox, and it or none where it cannot be read. -/
def headRecord (s : State) (q : Nat) : Option (Bool × Option InRec) :=
  let box := queueBox s q
  let ring := queueHead s q ≠ queueTail s q
  let useBox := !box.isEmpty && (!ring || s.fromBox.get q false)
  if useBox then some (true, box.head?)
  else if ring then
    let va := devBits s (offQ q 0) 55 12 * 4096 + 128 * (queueHead s q % 2 ^ qctl s q 15 12)
    match readVirt s (queueCtx s q) va 128 with
    | .ok l => some (false, some { bytes := l, addr := BitVec.ofNat 56 va })
    | _ => some (false, none)
  else none

/-- Whether a record of a queue is a successor of another context's launch: the queue was bound anew after the copy. It is never
started (R343). -/
def strayed (s : State) (q : Nat) (r : InRec) : Bool := r.succOf.isSome && decide (r.ctx ≠ queueCtx s q)

/-- Whether a queue's head may be taken: a stream start waits while one for its core is held (R340). -/
def headReady (s : State) (q : Nat) : Bool :=
  qctl s q 0 0 = 1 && qctl s q 1 1 = 0 &&
    (match headRecord s q with
      | none => false
      | some (_, none) => true
      | some (_, some r) =>
        let x := parseRecord r.bytes
        !(x.kind = 1 && (s.held.find? x.core).isSome))

/-- Whether queue `a` is served before queue `b` (R345). -/
def servedBefore (s : State) (a b : Nat) : Bool :=
  let key (q : Nat) : List Nat := [qctl s q 2 2, 7 - qctl s q 5 3, (q + 127 - s.lastQ) % 128]
  decide (key a < key b)

/-- The first queue of a list in the order of service (R345); none before BOOTST.DONE (R416). -/
def firstServed (s : State) (l : List Nat) : Option Nat :=
  if devBits s 0x1000 4 4 = 0 then none else
  l.foldl (fun best q =>
    match best with
    | none => some q
    | some b => if servedBefore s q b then some q else best) none

/-- The queue that the dispatcher serves next. -/
def nextQueue (s : State) : Option Nat := firstServed s ((List.range 128).filter (headReady s))

/-- A queue's head record is gone from it. -/
def advanceQueue (s : State) (q : Nat) (box : Bool) : State :=
  let s := { s with lastQ := q, fromBox := s.fromBox.set q (!box) }
  if box then { s with inboxes := s.inboxes.set q ((queueBox s q).drop 1) }
  else devSet s (offQ q 0x18) (BitVec.ofNat 64 ((queueHead s q + 1) % 2 ^ 32))

/-- A record that failed a check is reported (R341). -/
def refuseRecord (s : State) (q code index : Nat) (r : InRec) : State :=
  match r.launcher with
  | some (c, id) => settleStatus s c id 2
  | none => queueError s q code index

/-- A record that passed its checks is launched: its blocks enter the placement order, or its stream start is held for
its core (R340, R345). -/
def startLaunch (s : State) (q index : Nat) (r : InRec) : State :=
  let x := parseRecord r.bytes
  let ctx := queueCtx s q
  let id := s.launches.fresh
  let l : Launch := { info := x, addr := r.addr, ctx := ctx, queue := q, index := index, left := if x.kind = 1 then 1 else x.nblock }
  if x.kind = 1 then
    { s with
      launches := s.launches.set id { l with start := (startRecord s ctx x.entry).getD [] }
      held := s.held.set x.core id }
  else
    let w : Waiting :=
      { launch := some id, ctx := ctx, blk := 0, many := x.nblock, nfibre := x.nfibre, win := x.win, nbar := x.nbar
        spm := x.spm, stage := x.stage, entry := x.entry, args := x.args
        clusters := if x.place = 0 then 0xFF else x.place, cls := qctl s q 2 2, prio := qctl s q 5 3, entered := s.cycle
        fuse := x.fuse, number := s.orderNum, record := r.addr }
    { s with launches := s.launches.set id l, order := s.order ++ [w], orderNum := s.orderNum + 1 }

/-- DISPATCH_TAKE_RECORD (R341, R345): the dispatcher takes the head record of the queue that it serves next. -/
def execDispatchTakeRecord (s : State) : Out :=
  match nextQueue s with
  | none => .next s
  | some q =>
    let index := queueHead s q
    match headRecord s q with
    | none => .next s
    | some (box, none) => .next (queueError (advanceQueue s q box) q 5 index)
    | some (box, some r) =>
      let t := advanceQueue s q box
      if strayed s q r then .next (queueError t ((r.succOf.map (·.1)).getD q) 7 ((r.succOf.map (·.2)).getD index))
      else match checkRecord s (queueCtx s q) r.succOf.isSome r.bytes with
      | some code => .next (refuseRecord t q code index r)
      | none =>
        let t := match r.launcher with
          | some (c, id) => settleStatus t c id 0
          | none => t
        .next (startLaunch t q index r)

-- Completion (R342 to R344)

/-- What the decrement of a successor's DEPC comes to: a code to report, a record to start in a queue, or nothing more. -/
inductive Succ where
  | error (code : Nat)
  | start (q : Nat) (r : InRec)
  | waits

/-- Whether a queue may start a successor of a launch (R343). -/
def queueTakes (s : State) (q ctx : Nat) : Bool := qctl s q 0 0 = 1 && qctl s q 1 1 = 0 && decide (queueCtx s q = ctx)

/-- The decrement of the `i`-th successor of a launch (R342 step 1). -/
def decrement (s : State) (l : Launch) (i : Nat) : State × Succ :=
  match readVirt s l.ctx (l.info.succ.toNat + 8 * i) 8 with
  | .ok a =>
    let va := ofBytes a
    if va % 128 ≠ 0 then (s, .error 1)
    else match translate s l.ctx 2 va, readVirt s l.ctx va 128 with
      | .ok t, .ok bytes =>
        let d := recBytes bytes 67 64
        if d = 0 then (s, .error 3)
        else
          let s := physWrite s l.ctx t.key (t.pa va + 64) (toBytes 4 (d - 1))
          if d ≠ 1 then (s, .waits)
          else
            let q := recBytes bytes 21 21
            if q < 128 ∧ queueTakes s q l.ctx then
              (s, .start q { bytes := patch bytes 64 (toBytes 4 0), addr := BitVec.ofNat 56 va, succOf := some (l.queue, l.index), ctx := l.ctx })
            else (s, .error 7)
      | _, _ => (s, .error 5)
  | _ => (s, .error 5)

/-- The store of 1 to DONE (R342 step 2), and the end of the launch. -/
def finishLaunch (s : State) (id : Nat) (l : Launch) : State :=
  let s := { s with launches := s.launches.del id }
  if l.info.done = 0 then s
  else match translate s l.ctx 1 l.info.done.toNat with
    | .ok t => physWrite s l.ctx t.key (t.pa l.info.done.toNat) (toBytes 4 1)
    | .error _ => queueError s l.queue 5 l.index

/-- A record copied into a queue's inbox. -/
def copyInto (s : State) (q : Nat) (r : InRec) : State := { s with inboxes := s.inboxes.set q (queueBox s q ++ [r]) }

/-- The successors from `i` on, `n` of them, in list order, then DONE; a full inbox holds the completion. -/
def completeFrom (id : Nat) : Nat → Nat → State → State
  | 0, _, s =>
    match s.launches.find? id with
    | some l => finishLaunch s id l
    | none => s
  | n + 1, i, s =>
    match s.launches.find? id with
    | none => s
    | some l =>
      match decrement s l i with
      | (s, .error code) => completeFrom id n (i + 1) (queueError s l.queue code l.index)
      | (s, .waits) => completeFrom id n (i + 1) s
      | (s, .start q r) =>
        if (queueBox s q).length < 16 then completeFrom id n (i + 1) (copyInto s q r)
        else { s with succs := s.succs ++ [(q, r, id)], launches := s.launches.set id { l with succAt := i + 1 } }

/-- LAUNCH_COMPLETION (R342): every block of the launch has ended. -/
def execLaunchCompletion (id : Nat) (s : State) : Out :=
  match s.launches.find? id with
  | none => .next s
  | some l =>
    if l.left ≠ 0 ∨ (s.succs.any fun x => x.2.2 = id) then .next s
    else .next (completeFrom id (l.info.nsucc - l.succAt) l.succAt s)

/-- SUCCESSOR_INBOX_COPY (R342, R343): a record that waited for room in its inbox is copied, if its queue may still take it, and
its launch's completion goes on. -/
def execSuccessorInboxCopy (s : State) : Out :=
  match List.find? (fun x => decide ((queueBox s x.1).length < 16)) s.succs with
  | none => .next s
  | some (q, r, id) =>
    let s := { s with succs := s.succs.filter fun x => x.2.2 ≠ id }
    match s.launches.find? id with
    | some l =>
      let s := if queueTakes s q l.ctx then copyInto s q r else queueError s l.queue 7 l.index
      .next (completeFrom id (l.info.nsucc - l.succAt) l.succAt s)
    | none => .next (if queueTakes s q r.ctx then copyInto s q r else s)

-- Stream starts (R275, R340)

/-- STREAM_START (R275): the start record that the dispatcher holds for the core takes effect once its conditions hold; a
core whose owner is another context is first released from it (R351, R421). -/
def execStreamStart (core : Nat) (s : State) : Out :=
  let k := s.core core
  match s.held.find? core with
  | none => .next s
  | some l =>
    match s.launches.find? l with
    | none => .next { s with held := s.held.del core }
    | some x =>
      if k.prs.isSome ∨ (k.queues.vals.any fun q => !q.data.isEmpty) ∨ placementHeld s core x.ctx ∨
        (k.qOwner.any fun o => decide (o ≠ x.ctx) && !releasedFrom k o) ∨
        (k.ctx ≠ x.ctx ∧ (!releasedFrom k k.ctx || flashHolds s k)) then .next s
      else
        let s := { s with held := s.held.del core }
        let s := if k.ctx = x.ctx then s else changeOwner s core x.ctx
        .next (s.modCore core fun k =>
          { k with prs := some (startProducer x.start x.ctx l), queues := [], qOwner := some x.ctx })

-- Placement (R345 to R347, R351)

/-- Whether a waiting block comes before another in a placement order (R346). -/
def Waiting.before (a b : Waiting) : Bool :=
  let key (w : Waiting) : List Nat := [w.cls, 7 - w.prio, w.entered, w.blk.toNat, w.number]
  decide (key a < key b)

/-- A waiting block put into its place. -/
def insWaiting (a : Waiting) : List Waiting → List Waiting
  | [] => [a]
  | b :: t => if b.before a then b :: insWaiting a t else a :: b :: t

/-- The placement order of a cluster. -/
def placementOrder (s : State) (cl : Nat) : List Waiting :=
  (s.order.filter fun w => w.clusters.getLsbD cl).foldl (fun l w => insWaiting w l) []

/-- The cores of a cluster. -/
def coresOf (cl : Nat) : List Nat := (List.range Config.coresPerCluster).map (cl * Config.coresPerCluster + ·)

/-- The block that a cluster places next, with the cores that it may be placed on: the first of its order that can be
resident somewhere, and while an aged head waits that head alone; a released block goes to its mooring's core where it
fits there (R31, R346). -/
def nextPlacement (s : State) (cl : Nat) : Option (Waiting × List Nat) :=
  let cands : List Waiting := match s.aging.find? cl with
    | some n => (placementOrder s cl).filter fun (w : Waiting) => w.number = n
    | none => placementOrder s cl
  cands.findSome? fun w =>
    if staggered s w cl then none else
    match w.home.filter fun c => canPlace s c w with
    | some c => some (w, [c])
    | none =>
      let l := (coresOf cl).filter fun c => canPlace s c w
      if l.isEmpty then none else some (w, l)

/-- `n` different members of a list, as the part chooses. -/
def chooseSome (draw : Nat) : Nat → List Nat → List Nat
  | 0, _ => []
  | n + 1, l =>
    match l[Config.placeChoice draw % l.length]? with
    | none => []
    | some x => x :: chooseSome (draw + 1) n (l.filter (· ≠ x))

/-- Fibre `i` of a new block (R19, R25, R89). -/
def newFibre (s : State) (w : Waiting) (i : Nat) : Fibre :=
  let t := w.tasks.getD i {}
  let args := if w.launch.isSome then w.args else t.args
  let regs := (List.range args.length).map fun j => (j + 1, ({ val := args.getD j 0 } : Reg))
  ({ pc := w.entry, regs := regs, join := if w.launch.isSome then 0 else t.join, readyAt := s.cycle } : Fibre).acquire s.cycle

/-- A trace or signature ring that a register arms for a new block (R433). -/
def ringOf (s : State) (ctx off : Nat) : Option (Nat × Nat) :=
  if devBits s (offCX ctx off) 0 0 = 1 then some (devBits s (offCX ctx off) 51 12 * 4096, devBits s (offCX ctx off) 5 1) else none

/-- Whether a launch record's blocks are traced (R433). -/
def traced (s : State) (w : Waiting) : Bool :=
  decide (devBits s (offCX w.ctx 0x58) 55 0 = 0) || decide (devBits s (offCX w.ctx 0x58) 55 0 = w.record.toNat)

/-- The cluster takes the block's L1 mode, and loses its L1 copies if that changes it (R71). -/
def takeFusion (s : State) (cl : Nat) (w : Waiting) : State :=
  if w.launch.isNone || (s.cluster cl).fused == w.fuse then s
  else
    let s := s.modCluster cl fun x => { x with fused := w.fuse }
    { s with cores := s.cores.map fun (c, k) => (c, if clusterOf c = cl then { k with l1 := [] } else k) }

/-- What a core takes over with a block of a context: its owner, empty queues, zeroed rows and the entry's slot table
(R53, R67, R300, R421). Results of the earlier context still on their way have no effect on the zeroed rows. -/
def takeCore (s : State) (c : Nat) (w : Waiting) : State :=
  let s := if (s.core c).ctx = w.ctx then s
    else (changeOwner s c w.ctx).modCore c fun k => { k with queues := [], qOwner := none }
  let table := slotTableOf s w.ctx w.entry
  s.modCore c fun k =>
    let k := if k.lastCtx = some w.ctx then k else { k with
      acm := [], acmBad := [], lastCtx := some w.ctx, landings := [], reads := [], tsq := { k.tsq with nest := none } }
    if table == k.slotTable then k else { k with slotTable := table, slotFunc := w.entry }

/-- The waiting entry after its first block has been placed. -/
def Waiting.rest (w : Waiting) : Option Waiting := if w.many ≤ 1 then none else some { w with many := w.many - 1, blk := w.blk + 1 }

/-- The handles of a new block: h0 holds the buffer over its whole allocation, null where it declared no SPM (R60). -/
def wholeBuf (c base len ctx epoch : Nat) : FMap Buf :=
  if len = 0 then [] else [(0, { home := c, base := base, len := len, ctx := ctx, owner := epoch })]

/-- A block becomes resident on a core all at once (R33, R60). -/
def makeResident (s : State) (c : Nat) (w : Waiting) : State :=
  let k := s.core c
  let d := s.free
  let slot := (chooseSome d 1 (freeSlots k)).headD 0
  let base := (chooseSome (d + 1) 1 (spmBases k w.spm)).headD 0
  let bars := chooseSome (d + 2) w.nbar (freeBars k)
  let b : Block :=
    { ctx := w.ctx, blk := w.blk, stage := w.stage, nfibre := w.nfibre, win := w.win, bars := bars, spmBase := base
      spmLen := w.spm, epoch := s.placeNum + 1, handles := wholeBuf c base w.spm w.ctx (s.placeNum + 1), entry := w.entry, record := w.record, launch := w.launch
      fibres := (List.range w.nfibre).map fun i => (i, newFibre s w i)
      cls := w.cls, prio := w.prio, trace := if traced s w then ringOf s w.ctx 0x50 else none
      sigRing := ringOf s w.ctx 0x48, weights := w.weights, fuse := w.fuse }
  let s := { s with free := d + 2 + w.nbar, placeNum := s.placeNum + 1 }
  s.modCore c fun k => { k with
    blocks := k.blocks.set slot b
    bars := bars.foldl (fun m n => m.set n { expected := w.nfibre, slot := slot }) k.bars
    lastRec := if w.launch.isSome then w.record else k.lastRec }

/-- The placed block leaves the placement orders; its launch's next block in the cluster keeps its distance (R346, R347). -/
def leaveOrder (s : State) (cl : Nat) (w : Waiting) : State :=
  let s := { s with
    order := s.order.filterMap fun (x : Waiting) => if x.number = w.number then x.rest else some x
    aging := s.aging.filter fun (p : Nat × Nat) => p.2 ≠ w.number }
  match w.launch.bind fun id => (s.launches.find? id).map fun l => (id, l) with
  | some (id, l) => { s with launches := s.launches.set id { l with lastAt := l.lastAt.set cl s.cycle } }
  | none => s

/-- BLOCK_PLACEMENT (R346): the cluster places its next block on the core that the part has chosen. -/
def execBlockPlacement (cluster core : Nat) (s : State) : Out :=
  match nextPlacement s cluster with
  | none => .next s
  | some (w, l) =>
    if hasN l core then .next (leaveOrder (makeResident (takeCore (takeFusion s cluster w) core w) core w) cluster w)
    else .next s

/-- PLACEMENT_HEAD_AGING (R346): the head of a cluster's order has waited 65,536 cycles. -/
def execPlacementHeadAging (cluster : Nat) (s : State) : Out :=
  match placementOrder s cluster, s.aging.find? cluster with
  | w :: _, none => .next (if w.entered + 65536 ≤ s.cycle then { s with aging := s.aging.set cluster w.number } else s)
  | _, _ => .next s

/-- STAGGER_EXPIRY (R347): the interval after a launch's latest placement in a cluster is over. -/
def execStaggerExpiry (id cluster : Nat) (s : State) : Out :=
  match s.launches.find? id with
  | none => .next s
  | some l =>
    match l.lastAt.find? cluster with
    | some t => .next (if t + l.info.stagger ≤ s.cycle then
        { s with launches := s.launches.set id { l with lastAt := l.lastAt.del cluster } } else s)
    | none => .next s

end Sys2Proof.Machine
end

