-- ==== Sys2Proof/Machine/SaveArea.lean ====
section
/-!
DEFINITION. What the sections of a save area hold and how a restore reads them back (R363, R364, R376, R377). Where the manual
names a section's contents and gives no places for them, the places here are the model's (log 50).
-/
namespace Sys2Proof.Machine

/-- Whether a range of a context's save area of a core can be read. -/
def areaReads (s : State) (c ctx : Nat) (part : Nat × Nat) : Bool := (physRead s hubKey (saveArea s c ctx + part.1) part.2).isSome

/-- The bytes of a range of a save area. -/
def areaBytes (s : State) (c ctx off n : Nat) : List Byte := (physRead s hubKey (saveArea s c ctx + off) n).getD []

/-- A number in a save area. -/
def areaNum (s : State) (c ctx off n : Nat) : Nat := ofBytes (areaBytes s c ctx off n)

/-- Bytes written to a save area. -/
def areaWrite (s : State) (c ctx off : Nat) (bytes : List Byte) : State := physWrite s ctx hubKey (saveArea s c ctx + off) bytes

/-- A list of digits as a number, the first the lowest. -/
def ofDigits (base : Nat) (l : List Nat) : Nat := l.foldr (fun d n => d % base + base * n) 0

/-- A set of numbers below 8 n as n bytes, bit i for i. -/
def bitSet (n : Nat) (l : List Nat) : List Byte := toBytes n (l.foldl (fun m i => m ||| 2 ^ i) 0)

/-- The numbers whose bits are set in a number. -/
def bitsSet (n m : Nat) : List Nat := (List.range n).filter fun i => m.testBit i

-- The lamp (R48, R376)

/-- The lamp holder's block slot and the lamp queue's, in grant order: each one more than the slot, and then 0. -/
def lampBytes (k : Core) : List Byte :=
  let slots := (match k.lamp with
    | some b => b + 1
    | none => 0) :: k.lampQ.map fun q => q.2 + 1
  let l := slots.flatMap (toBytes 4)
  l ++ List.replicate (0x10000 - 128 - l.length) 0

/-- The lamp queue that the words after the holder's give. -/
def lampSlots (words : List Nat) : List Nat := (words.takeWhile fun w => decide (w ≠ 0)).map fun w => w - 1

-- The sequencer (R218, R376)

/-- The registers of the sequencer. -/
def tsqBytes (t : Tsq) : List Byte :=
  let w (n : Nat) : List Byte := toBytes 8 n
  ((List.range 32).flatMap fun i => w (t.k.get i 0).toNat) ++ ((List.range 16).flatMap fun i => w (t.ad.get i 0).toNat) ++
    ((List.range 4).flatMap fun i =>
      let r := t.lc.get i {}
      w r.count ++ w r.start.toNat ++ w r.end_.toNat ++ w (if r.open_ then 1 else 0)) ++
    w t.st.toNat ++ w t.fc ++ w t.vbase ++ w t.vrot ++ w t.acctype ++ w t.planes ++ w t.pc.toNat ++ w 0 ++
    ((List.range 16).flatMap fun i => w (t.bd.get i 1)) ++ (List.range 32).flatMap fun i => toBytes 64 (t.d.get i 0).toNat

/-- What else a stop of the sequencer keeps (R223, R373): whether the grant's gather is still to run and a register is bad, the
bundles issued, and the cycles for which the next bundle is held. -/
def tsqMore (k : Core) : List Byte :=
  let t := k.tsq
  toBytes 8 ((if t.gather then 1 else 0) + (if t.bad then 2 else 0)) ++ toBytes 8 t.bundles ++ toBytes 8 (t.holdTill - k.seqCyc)

/-- The sequencer with the registers that a save area holds. -/
def tsqBack (t : Tsq) (l : List Byte) : Tsq :=
  let w (o : Nat) : Nat := ofBytes (slice l o 8)
  { t with
    k := (List.range 32).map fun i => (i, BitVec.ofNat 64 (w (8 * i)))
    ad := (List.range 16).map fun i => (i, BitVec.ofNat 48 (w (256 + 8 * i)))
    lc := (List.range 4).map fun i =>
      (i, { count := w (384 + 32 * i), start := BitVec.ofNat 56 (w (392 + 32 * i)), end_ := BitVec.ofNat 56 (w (400 + 32 * i))
            open_ := w (408 + 32 * i) = 1 })
    st := BitVec.ofNat 8 (w 512), fc := w 520, vbase := w 528, vrot := w 536, acctype := w 544, planes := w 552
    pc := BitVec.ofNat 56 (w 560)
    bd := (List.range 16).map fun i => (i, w (576 + 8 * i))
    d := (List.range 32).map fun i => (i, BitVec.ofNat 512 (ofBytes (slice l (704 + 64 * i) 64)))
    gather := (w 2752).testBit 0, bad := (w 2752).testBit 1, bundles := w 2760 }

-- Results in flight (R221, R223, R376)

/-- A destination as a kind, an index and two bounds. -/
def destCode : Dest → Nat × Nat × Nat × Nat
  | .k n => (0, n, 0, 0)
  | .ad n => (1, n, 0, 0)
  | .bd n => (2, n, 0, 0)
  | .d n => (3, n, 0, 0)
  | .st => (4, 0, 0, 0)
  | .fc => (5, 0, 0, 0)
  | .sreg n => (6, n, 0, 0)
  | .row n => (7, n, 0, 0)
  | .rowPart n lo hi => (8, n, lo, hi)
  | .spm off len => (9, off, len, 0)
  | .prog n => (10, n, 0, 0)

/-- The destination of a kind, an index and two bounds. -/
def destOf (kind n a b : Nat) : Dest :=
  match kind with
  | 0 => .k n
  | 1 => .ad n
  | 2 => .bd n
  | 3 => .d n
  | 4 => .st
  | 5 => .fc
  | 6 => .sreg n
  | 7 => .row n
  | 8 => .rowPart n a b
  | 9 => .spm n a
  | _ => .prog n

/-- The head of a record of a result in flight: its kind (1 a write, 2 an SPM read), slot, marks and destination, the cycles left
until it lands, the bundles since its issue, and for a read its cycles left, base and length. -/
def flightHead (k : Core) (kind slot flag : Nat) (d : Dest) (due seq reach base len : Nat) : List Byte :=
  let (t, n, a, b) := destCode d
  toBytes 1 kind ++ toBytes 1 slot ++ toBytes 1 flag ++ toBytes 1 t ++ toBytes 4 n ++ toBytes 2 a ++ toBytes 2 b ++ toBytes 2 (due - k.seqCyc) ++
    toBytes 2 (reach - k.seqCyc) ++ toBytes 4 (k.issueNo - seq) ++ toBytes 4 base ++ toBytes 4 len ++ List.replicate 4 0

/-- A write in flight in 288 bytes: its head and its value. -/
def Landing.bytes (k : Core) (l : Landing) : List Byte :=
  flightHead k 1 l.slot (if l.bad then 1 else 0) l.dst l.due l.seq 0 0 0 ++ toBytes 256 l.val

/-- An SPM read in flight in 288 bytes. -/
def SpmRead.bytes (k : Core) (r : SpmRead) : List Byte :=
  flightHead k 2 r.slot (if r.sx then 1 else 0) r.dst r.land r.seq r.due r.base r.len ++ List.replicate 256 0

/-- The records of results in flight that a section has room for. -/
def flightRoom : Nat := 156

/-- The results in flight of a core: its writes, then its reads. -/
def flightBytes (k : Core) : List Byte := ((k.landings.map (Landing.bytes k) ++ k.reads.map (SpmRead.bytes k)).take flightRoom).flatMap id

/-- The write that a record gives for a core whose sequencer cycle and issue count are back. -/
def landingBack (k : Core) (l : List Byte) : Landing :=
  let w (o n : Nat) : Nat := ofBytes (slice l o n)
  { due := k.seqCyc + w 12 2, seq := k.issueNo - w 16 4, slot := w 1 1, dst := destOf (w 3 1) (w 4 4) (w 8 2) (w 10 2), val := w 32 256
    bad := w 2 1 = 1 }

/-- The read that a record gives. -/
def readBack (k : Core) (l : List Byte) : SpmRead :=
  let w (o n : Nat) : Nat := ofBytes (slice l o n)
  { due := k.seqCyc + w 14 2, seq := k.issueNo - w 16 4, slot := w 1 1, base := w 20 4, len := w 24 4, sx := w 2 1 = 1
    dst := destOf (w 3 1) (w 4 4) (w 8 2) (w 10 2), land := k.seqCyc + w 12 2 }

/-- The results in flight that a section gives, after those that it had no room for (log 50). -/
def flightBack (k : Core) (l : List Byte) : List Landing × List SpmRead :=
  let recs := (List.range flightRoom).map fun i => slice l (288 * i) 288
  let of (n : Nat) : List (List Byte) := recs.filter fun r => ofBytes (slice r 0 1) = n
  ((of 1).map (landingBack k) ++ k.landings.drop flightRoom, (of 2).map (readBack k) ++ k.reads.drop (flightRoom - k.landings.length))

-- The progress of the engines (R223, R373)

/-- The progress of matrix command `j`: the cycles since its start, and the source rows that it has. -/
def MxeJob.progress (k : Core) (j : MxeJob) : List Byte := toBytes 8 (k.seqCyc - j.start) ++ toBytes 8 j.data.length

/-- The cycles from which a running CHSTEP, repeat and loop nest go on, and how far each has come; then the matrix commands. -/
def progressBytes (k : Core) : List Byte :=
  let w (o : Option (Nat × Nat)) : List Byte := match o with
    | some (n, t) => toBytes 8 n ++ toBytes 8 (t - k.seqCyc)
    | none => List.replicate 16 0
  w (k.xcu.run.map fun r => (r.done, r.ends)) ++ w (k.tsq.repeat_.map fun r => (r.done, r.next)) ++ w (k.tsq.nest.map fun n => (n.done, n.next)) ++
    toBytes 8 (k.mxe.busyTill - k.seqCyc) ++ toBytes 8 (k.xcu.busyTill - k.seqCyc) ++ k.mxe.jobs.flatMap (MxeJob.progress k)

/-- The engines with the progress that a save area holds. -/
def progressBack (k : Core) (l : List Byte) : Core :=
  let w (n : Nat) : Nat := ofBytes (slice l (8 * n) 8)
  { k with
    xcu := { k.xcu with
      busyTill := k.seqCyc + w 7
      run := k.xcu.run.map fun r => { r with steps := r.steps.drop (w 0 - r.done), bufs := r.bufs.drop (w 0 - r.done), done := w 0
                                             ends := k.seqCyc + w 1 } }
    tsq := { k.tsq with
      repeat_ := k.tsq.repeat_.map fun r => { r with done := w 2, next := k.seqCyc + w 3 }
      nest := k.tsq.nest.map fun n => { n with done := w 4, next := k.seqCyc + w 5 } }
    mxe := { k.mxe with
      busyTill := k.seqCyc + w 6
      jobs := k.mxe.jobs.zipIdx.map fun (j, i) => { j with start := k.seqCyc - w (8 + 2 * i), data := j.data.take (w (9 + 2 * i)) } } }

-- Tile records (R246)

/-- A tile record in 2 KiB: its width, format, context and marks, then the units and flags of its blocks. -/
def TileRec.bytes (r : TileRec) : List Byte :=
  let l := toBytes 1 r.width ++ toBytes 1 r.fmt.toNat ++ toBytes 1 r.ctx ++ toBytes 1 (1 + (if r.valid then 2 else 0) + (if r.bad then 4 else 0)) ++
    toBytes 4 r.eB.length ++ toBytes 1536 (ofDigits 4096 (r.eB.map fun e => (e + 2048).toNat % 4096)) ++
    toBytes 128 (ofDigits 2 (r.special.map fun b => if b then 1 else 0))
  l ++ List.replicate (2048 - l.length) 0

/-- The tile record that 2 KiB give, if they hold one. -/
def TileRec.ofBytes (l : List Byte) : Option TileRec :=
  let w (o n : Nat) : Nat := Machine.ofBytes (slice l o n)
  if w 3 1 % 2 = 0 then none
  else
    let n := min 1024 (w 4 4)
    some {
      width := w 0 1, fmt := BitVec.ofNat 5 (w 1 1), ctx := w 2 1, valid := (w 3 1).testBit 1, bad := (w 3 1).testBit 2
      eB := (List.range n).map fun i => ((w 8 1536 / 4096 ^ i % 4096 : Nat) : Int) - 2048
      special := (List.range n).map fun i => (w 1544 128).testBit i }

/-- The registers' part of the section, and the chain state after it (R263). -/
def chainBytes (x : Xcu) : List Byte :=
  let w (n : Nat) : List Byte := toBytes 8 n
  w (if x.open_ then 1 else 0) ++ w x.b0 ++ w x.half ++ w x.h ++ w x.x ++ w x.p ++ w x.r ++ w x.ptr ++ w x.prog.length ++
    x.prog.flatMap fun v => w v.toNat

/-- The chain state that a save area holds; a running CHSTEP goes on with what it captured. -/
def chainBack (x : Xcu) (l : List Byte) : Xcu :=
  let w (o : Nat) : Nat := ofBytes (slice l o 8)
  { x with
    open_ := w 0 = 1, b0 := w 8, half := w 16, h := w 24, x := w 32, p := w 40, r := w 48, ptr := w 56
    prog := (List.range (min 64 (w 64))).map fun i => BitVec.ofNat 64 (w (72 + 8 * i)) }

/-- A command of the copy engine's queue in 256 bytes: its descriptors, or for PUB its set, its offsets, index, operation, factor
and marks, its issuer, barrier and promise, and its stop record. -/
def CpeCmd.bytes (x : CpeCmd) : List Byte :=
  let w (n : Nat) : List Byte := toBytes 8 n
  let f (b : Bool) (n : Nat) : Nat := if b then n else 0
  (match x.pub with
    | some (base, len) => w base ++ w len ++ List.replicate 112 0
    | none => toBytes 64 x.src.toNat ++ toBytes 64 x.dst.toNat) ++
    w x.srcOff ++ w x.dstOff ++ w x.owner.idx ++
    toBytes 1 x.op ++ toBytes 1 (f x.pm 1 + f x.pt 2 + f x.missed 4 + f x.pub.isSome 8 + f x.stop.isSome 16) ++ toBytes 2 x.factor ++
    toBytes 4 x.owner.slot ++
    w (match x.bar with
      | some n => n + 1
      | none => 0) ++ w x.promise ++ List.replicate 16 0 ++ (x.stop.map StopRec.bytes).getD zero64

/-- A stop record's fields from its 64 bytes (R366). -/
def StopRec.ofBytes (l : List Byte) : StopRec :=
  let w (o n : Nat) : Nat := Machine.ofBytes (slice l o n)
  { engine := BitVec.ofNat 8 (w 0 1), trap := BitVec.ofNat 8 (w 1 1), reason := BitVec.ofNat 8 (w 2 1), access := BitVec.ofNat 8 (w 3 1)
    cmdidx := BitVec.ofNat 32 (w 4 4), addr := BitVec.ofNat 64 (w 8 8), status := BitVec.ofNat 64 (w 16 8), spc := BitVec.ofNat 64 (w 24 8)
    progress := BitVec.ofNat 32 (w 32 4) }

/-- The command that its 256 bytes give; its buffers and its issuer's kind stay as they were saved. -/
def CpeCmd.back (x : CpeCmd) (l : List Byte) : CpeCmd :=
  let w (o n : Nat) : Nat := ofBytes (slice l o n)
  let pub := (w 153 1).testBit 3
  { x with
    src := if pub then x.src else BitVec.ofNat 512 (w 0 64), dst := if pub then x.dst else BitVec.ofNat 512 (w 64 64)
    pub := if pub then some (w 0 8, w 8 8) else none
    srcOff := w 128 8, dstOff := w 136 8, op := w 152 1, pm := (w 153 1).testBit 0, pt := (w 153 1).testBit 1
    missed := (w 153 1).testBit 2, factor := w 154 2, bar := if w 160 8 = 0 then none else some (w 160 8 - 1), promise := w 168 8
    stop := if (w 153 1).testBit 4 then some (StopRec.ofBytes (slice l 192 64)) else none }

/-- The traps of a core's blocks and tile program that carry a stop record and are still to be delivered (R291, R356, R446). -/
def pendingStops (k : Core) : List StopRec :=
  (k.tsq.held ++ k.blocks.vals.flatMap fun b => b.pending ++ b.fibres.vals.flatMap (·.pending)).filterMap (·.stop)

/-- Traps with the stop records that a save area holds, in order, and the records left over. -/
def stopsBack : List Trap → List StopRec → List Trap × List StopRec
  | [], l => ([], l)
  | t :: ts, l =>
    match t.stop, l with
    | some _, r :: rest =>
      let (ts, rest) := stopsBack ts rest
      ({ t with stop := some r } :: ts, rest)
    | _, _ =>
      let (ts, rest) := stopsBack ts l
      (t :: ts, rest)

/-- The pending traps of some fibres with the stop records that a save area holds. -/
def fibreStops : FMap Fibre → List StopRec → FMap Fibre × List StopRec
  | [], l => ([], l)
  | (n, x) :: t, l =>
    let (p, l) := stopsBack x.pending l
    let (t, l) := fibreStops t l
    ((n, { x with pending := p }) :: t, l)

/-- The pending traps of some blocks with the stop records that a save area holds. -/
def blockStops : FMap Block → List StopRec → FMap Block
  | [], _ => []
  | (n, x) :: t, l =>
    let (p, l) := stopsBack x.pending l
    let (fs, l) := fibreStops x.fibres l
    (n, { x with pending := p, fibres := fs }) :: blockStops t l

-- The producer slot (R274, R281, R376)

/-- The registers of the producer slot. -/
def producerBytes (p : Producer) : List Byte :=
  let w (n : Nat) : List Byte := toBytes 8 n
  ((List.range 16).flatMap fun i => toBytes 4 (p.ms.get i 0).toNat) ++ w p.pc.toNat ++ w p.feed.toNat ++ w p.eos.toNat ++
    w p.chunk.toNat ++ w p.header ++ w p.payload ++ w p.clen ++ w p.cursor ++ w p.w ++ w p.o ++ w p.f ++ w p.value ++
    w (if p.scout then 1 else 0) ++ p.entry ++ List.replicate (256 - p.entry.length) 0

/-- A code table in 1 KiB: how many lengths it has, and the lengths. -/
def tableBytes (l : List Nat) : List Byte :=
  let l := l.take 1020
  toBytes 4 l.length ++ l.flatMap (toBytes 1) ++ List.replicate (1020 - l.length) 0

/-- The code table that 1 KiB give. -/
def tableBack (l : List Byte) : List Nat := (List.range (min 1020 (ofBytes (slice l 0 4)))).map fun i => ofBytes (slice l (4 + i) 1)

/-- The producer slot with the registers and tables that a save area holds. -/
def producerBack (p : Producer) (l tables hist : List Byte) : Producer :=
  let ct := (List.range 16).filterMap fun i =>
    let t := tableBack (slice tables (1024 * i) 1024)
    if t = [] then none else some (i, t)
  let w (n : Nat) : Nat := ofBytes (slice l (64 + 8 * n) 8)
  { p with
    ms := (List.range 16).map fun i => (i, BitVec.ofNat 32 (ofBytes (slice l (4 * i) 4)))
    pc := BitVec.ofNat 56 (w 0), feed := BitVec.ofNat 8 (w 1), eos := BitVec.ofNat 8 (w 2), chunk := BitVec.ofNat 32 (w 3)
    header := w 4, payload := w 5, clen := w 6, cursor := w 7, w := w 8, o := w 9, f := w 10, value := w 11, scout := w 12 = 1
    entry := slice l 168 p.entry.length, ct := ct
    hist := (List.range 65536).map fun i => (i, hist.getD i 0) }

/-- A terminal entry's kind as a number. -/
def termCode : Option (QKind × List Byte) → Nat
  | some (.eos, _) => 1
  | some (.poison, _) => 2
  | _ => 0

/-- A queue's account: how many entries it holds, and its terminal entry. -/
def queueBytes (q : Queue) : List Byte :=
  let p := ((q.term.map (·.2)).getD []).take 56
  toBytes 4 q.data.length ++ toBytes 4 (termCode q.term) ++ p ++ List.replicate (56 - p.length) 0

/-- The queue that its account and its entries in a save area give. -/
def queueBack (q : Queue) (account entries : List Byte) : Queue :=
  let kind := ofBytes (slice account 4 4)
  let payload := slice account 8 56 ++ List.replicate 200 0
  { data := (List.range (min 32 (ofBytes (slice account 0 4)))).map fun i => slice entries (256 * i) 256
    term := if kind = termCode q.term then q.term
      else if kind = 1 then some (.eos, payload) else if kind = 2 then some (.poison, payload) else none }

/-- An account of each queue, then the entries of the queues. -/
def queueEntries (q : Queue) : List Byte :=
  let l := q.data.flatMap id
  l ++ List.replicate (8192 - l.length) 0

-- Block records (R377)

/-- A handle register in 16 bytes. -/
def handleBytes : Option Buf → List Byte
  | none => List.replicate 14 0 ++ toBytes 2 1
  | some b => toBytes 4 b.home ++ toBytes 4 b.base ++ toBytes 4 b.len ++ toBytes 2 b.ctx ++ toBytes 2 0

/-- The block that homes an SPM range of a core, by its epoch: for the core that is being restored, one of its blocks in the area. -/
def homeEpoch (s : State) (c : Nat) (here : FMap Block) (b : Buf) : Option Nat :=
  ((if b.home = c then here else (s.core b.home).blocks).vals.find? fun x => decide (x.spmBase ≤ b.base) && decide (b.base + b.len ≤ x.spmBase + x.spmLen)).map (·.epoch)

/-- The handle register that 16 bytes give: the one that was saved where they are unchanged, else the buffer that they name, which
belongs to the block that homes it (R63, R64). -/
def handleBack (s : State) (c : Nat) (here : FMap Block) (old : Option Buf) (l : List Byte) : Option Buf :=
  if l = handleBytes old then old
  else if ofBytes (slice l 14 2) % 2 = 1 then none
  else
    let b : Buf := { home := ofBytes (slice l 0 4), base := ofBytes (slice l 4 4), len := ofBytes (slice l 8 4), ctx := ofBytes (slice l 12 2) }
    match homeEpoch s c here b with
    | some e => some { b with owner := e }
    | none => some { b with valid := false }

/-- A barrier in 64 bytes. -/
def barBytes (n : Nat) (b : Bar) : List Byte :=
  toBytes 4 n ++ toBytes 4 b.expected ++ toBytes 4 b.arrived ++ toBytes 4 (if b.phase then 1 else 0) ++
    toBytes 8 (match b.att with
      | some m => m.toNat + 2 ^ 63
      | none => 0) ++ List.replicate 40 0

/-- The barrier that 64 bytes and its signers give. -/
def barBack (b : Bar) (l signers : List Byte) : Bar :=
  let a := ofBytes (slice l 16 8)
  { b with
    expected := ofBytes (slice l 4 4), arrived := ofBytes (slice l 8 4), phase := ofBytes (slice l 12 4) = 1
    att := if 2 ^ 63 ≤ a then some (BitVec.ofNat 48 a) else none
    signers := bitsSet 1024 (ofBytes signers) }

/-- A block's record. -/
def blockBytes (k : Core) (x : Block) : List Byte :=
  let bar (i : Nat) : Option (Nat × Bar) := (x.bars[i]?).map fun n => (n, k.bars.get n {})
  toBytes 4 x.blk.toNat ++ toBytes 4 x.stage ++ toBytes 4 x.nfibre ++ toBytes 4 x.win ++ toBytes 4 x.spmBase ++ toBytes 4 x.spmLen ++
    toBytes 4 x.bars.length ++ toBytes 4 0 ++ toBytes 8 x.entry.toNat ++ toBytes 8 x.record.toNat ++ List.replicate 16 (0 : Byte) ++
    ((List.range 16).flatMap fun i => handleBytes (x.handles.find? i)) ++
    ((List.range 16).flatMap fun i => match bar i with
      | some (n, b) => barBytes n b
      | none => List.replicate 64 (0 : Byte)) ++
    ((List.range 16).flatMap fun i => match bar i with
      | some (_, b) => bitSet 128 b.signers
      | none => List.replicate 128 (0 : Byte)) ++
    ((List.range 16).flatMap fun i =>
      let m := x.masks.get i {}
      bitSet 128 m.enrolled ++ bitSet 128 (m.arrived.map (·.fib))) ++ List.replicate 704 (0 : Byte)

/-- A mask that 256 bytes give: its arrivals keep the values with which they were made (R37, R373). -/
def maskBack (m : Mask) (l : List Byte) : Mask :=
  let p := bitsSet 1024 (ofBytes (slice l 128 128))
  { enrolled := bitsSet 1024 (ofBytes (slice l 0 128)), arrived := m.arrived.filter fun a => hasN p a.fib }

/-- A block with the SPM range that its record gives. -/
def Block.placed (x : Block) (l : List Byte) : Block := { x with spmBase := ofBytes (slice l 16 4), spmLen := ofBytes (slice l 20 4) }

/-- The block that its record gives, on a core whose restored blocks are `here`. -/
def blockBack (s : State) (c : Nat) (here : FMap Block) (x : Block) (l : List Byte) : Block :=
  let w (o : Nat) : Nat := ofBytes (slice l o 4)
  { x with
    blk := BitVec.ofNat 32 (w 0), stage := w 4, nfibre := w 8, win := w 12, spmBase := w 16, spmLen := w 20
    bars := (List.range (min 16 (w 24))).map fun i => w (320 + 64 * i)
    entry := BitVec.ofNat 56 (ofBytes (slice l 32 8)), record := BitVec.ofNat 56 (ofBytes (slice l 40 8))
    handles := (List.range 16).filterMap fun i => (handleBack s c here (x.handles.find? i) (slice l (64 + 16 * i) 16)).map fun b => (i, b)
    masks := (List.range 16).filterMap fun i =>
      let m := maskBack (x.masks.get i {}) (slice l (3392 + 256 * i) 256)
      if m = {} then none else some (i, m) }

/-- The barriers that a block's record gives. -/
def barsBack (k : Core) (x : Block) (l : List Byte) : FMap Bar :=
  (List.range x.bars.length).map fun i =>
    let n := ofBytes (slice l (320 + 64 * i) 4)
    (n, barBack (k.bars.get (x.bars.getD i 0) {}) (slice l (320 + 64 * i) 64) (slice l (1344 + 128 * i) 128))

-- Fibre records (R363, R375, R376)

/-- STATE of a saved fibre (R363). -/
def Fibre.savedState (x : Fibre) : Nat :=
  match x.status with
  | .ready | .ended => 0
  | .waiting .gate | .waiting .lamp => 2
  | .waiting _ => 1
  | .debug => 3
  | .trapping _ | .dead _ => 4

/-- WAITOP of a fibre that waits, on a core (R363, log 50): the kind of wait in [63:56], and its operand: the register, mask, barrier
with its phase in bit 16, queue, deadline or address. -/
def waitOp (k : Core) : Wait → Nat
  | .emptyReg l => 2 ^ 56 + l.headD 0 % 65536
  | .rejoin j => 2 * 2 ^ 56 + j
  | .barrier n i => 3 * 2 ^ 56 + n % 65536 + 65536 * phaseNum ((k.bars.get n {}).phase != ((i + (k.bars.get n {}).done) % 2 = 0))
  | .join => 4 * 2 ^ 56
  | .moored => 5 * 2 ^ 56
  | .qempty q => 6 * 2 ^ 56 + q
  | .sleep t => 7 * 2 ^ 56 + t % 2 ^ 56
  | .handle => 8 * 2 ^ 56
  | .engbusy => 9 * 2 ^ 56
  | .xlate acc va => (10 + acc % 4) * 2 ^ 56 + va % 2 ^ 56
  | .order => 14 * 2 ^ 56
  | .gate => 15 * 2 ^ 56
  | .lamp => 16 * 2 ^ 56

/-- The wait that WAITOP names. -/
def waitBack (k : Core) (v : Nat) : Wait :=
  let n := v % 2 ^ 56
  match v / 2 ^ 56 with
  | 1 => .emptyReg [n]
  | 2 => .rejoin n
  | 3 => .barrier (n % 65536) ((k.bars.get (n % 65536) {}).target (n.testBit 16))
  | 4 => .join
  | 5 => .moored
  | 6 => .qempty n
  | 7 => .sleep n
  | 8 => .handle
  | 9 => .engbusy
  | 15 => .gate
  | 16 => .lamp
  | 14 => .order
  | m => .xlate (m - 10) n

/-- WAITOP of a fibre. -/
def Fibre.savedWait (k : Core) (x : Fibre) : Nat :=
  match x.status with
  | .waiting w => waitOp k w
  | _ => 0

/-- A saved fibre record (R363, R376). -/
def savedFibre (k : Core) (b f : Nat) (win : Nat) (x : Fibre) : List Byte :=
  frameBytes x win b f { code := 0, pc := x.pc.setWidth 64 } x.depth x.savedState x.frame (x.savedWait k)

/-- What a fibre is doing by STATE and WAITOP of its record; a trap that it is to enter stays the one that was saved. -/
def statusBack (k : Core) (x : Fibre) (state op : Nat) : FStatus :=
  if state = x.savedState ∧ op = x.savedWait k then x.status
  else match state with
    | 0 => .ready
    | 1 | 2 => .waiting (waitBack k op)
    | 3 => .debug
    | _ => x.status

/-- The fibre that its saved record gives: registers as the slots now hold them (R364, R374). It acquires (R89). -/
def fibreBack (k : Core) (cycle win : Nat) (x : Fibre) (l : List Byte) : Fibre :=
  let y := { x with
    status := statusBack k x (ofBytes (slice l 23 1)) (ofBytes (slice l 80 8))
    pc := BitVec.ofNat 56 (ofBytes (slice l 0 8))
    preds := BitVec.ofNat 16 (ofBytes (slice l 20 2)) ||| 1
    depth := ofBytes (slice l 22 1)
    frame := BitVec.ofNat 56 (ofBytes (slice l 48 8))
    join := BitVec.ofNat 56 (ofBytes (slice l 56 8))
    sig := BitVec.ofNat 64 (ofBytes (slice l 64 8))
    regs := frameRegs win l }
  y.acquire cycle

end Sys2Proof.Machine
end

