-- ==== Sys2Proof/Machine/Preempt.lean ====
section
/-!
DEFINITION. Pre-emption of a context: node-boundary and forced saves, and restores (R102, R302, R304, R364, R370 to R377).
-/
namespace Sys2Proof.Machine

/-- Offset of CXPRE of a context. -/
def offPre (ctx : Nat) : Nat := offCX ctx 0x30

/-- The cores that a CMASK covers. -/
def coveredCores (mask : Nat) : List Nat := (List.range 8).flatMap fun cl => if mask.testBit cl then coresOf cl else []

/-- The context of CXPRE writes in progress has nothing left to save: BUSY clears. -/
def preDone (s : State) (ctx : Nat) : State :=
  if s.cores.any fun (_, k) => (k.preempt.find? ctx).isSome then s else devPut s (offPre ctx) 16 16 0

/-- A save of a kind starts on every core that CMASK covers; a forced save replaces a node-boundary save that waits. -/
def startSave (s : State) (ctx kind : Nat) (v : BitVec 64) : State :=
  let mask := bitsN v.toNat 15 8
  let s := devSet s (offPre ctx) (v &&& 0xFF06)
  let s := (coveredCores mask).foldl (fun s c =>
    if (s.saves.find? (saveKey c ctx)).isSome then s
    else s.modCore c fun k => { k with
      preempt := k.preempt.set ctx (max kind (k.preempt.get ctx 0))
      preemptAt := if kind = 2 ∧ k.preempt.get ctx 0 ≠ 2 then k.preemptAt.set ctx s.cycle else k.preemptAt }) s
  preDone (devPut s (offPre ctx) 16 16 1) ctx

/-- CXPRE_NODE_SAVE (R370, R371, R414). -/
def execCxpreNodeSave (ctx : Nat) (v : BitVec 64) (s : State) : Out :=
  .next (if tdiLocked s ctx then s else startSave s ctx 1 v)
/-- CXPRE_FORCED_SAVE (R370, R373, R414). -/
def execCxpreForcedSave (ctx : Nat) (v : BitVec 64) (s : State) : Out :=
  .next (if tdiLocked s ctx then s else startSave s ctx 2 v)

-- Mooring records (R302, R371, R372)

/-- A context's moorings on a core. -/
def mooringsOf (k : Core) (ctx : Nat) : FMap Mooring := k.moorings.filter fun p => p.2.ctx = ctx

/-- The records of the moorings of a context that the core's own storage holds. -/
def heldRecords (k : Core) (ctx : Nat) : List Task := ((mooringsOf k ctx).filter fun p => !p.2.spilled).flatMap fun p => p.2.recs

/-- The records of a mooring, from those already `done` on, into free slots of the cluster's queue. -/
def moveRecords (c key : Nat) (m : Mooring) : List Task → List Task → State → State
  | _, [], s => s
  | done, t :: rest, s =>
    let (s, t) := storeTask s (clusterOf c) m.ctx t
    moveRecords c key m (done ++ [t]) rest
      (s.modCore c fun k => { k with moorings := k.moorings.set key { m with recs := done ++ t :: rest } })

/-- The records of a context's moorings on a core move into the cluster's queue as far as it has free slots. -/
def moveMoorings (s : State) (c ctx : Nat) : State :=
  ((mooringsOf (s.core c) ctx).filter fun p => !p.2.spilled).foldl (fun s p => moveRecords c p.1 p.2 [] p.2.recs s) s

/-- How many of a core's records of a context have moved. -/
def movedCount (k : Core) (ctx : Nat) : Nat := ((heldRecords k ctx).filter fun t => t.slot.isSome).length

/-- The records of a node-boundary save that found no slot, by mooring and in order; a forced save's area has no place for
records (log 50). -/
def spillRecords (k : Core) (ctx : Nat) (forced : Bool) : List Task :=
  if forced then [] else (heldRecords k ctx).filter fun t => t.slot.isNone

-- What a save writes (R371, R376)

/-- Whether a core has a node that carries weights resident or moored for a context. -/
def weightsOn (k : Core) (ctx : Nat) : Bool :=
  (k.blocks.vals.any fun b => decide (b.ctx = ctx) && b.weights) || (mooringsOf k ctx).any fun p => p.2.node.weights

/-- Whether a context has a node that carries weights resident or moored, on any core (R304). -/
def carriesWeights (s : State) (ctx : Nat) : Bool :=
  (s.cores.any fun (_, k) => weightsOn k ctx) || s.saves.any fun (n, v) => decide (n % 64 = ctx) && weightsOn v.k ctx

/-- The launch whose blocks were being placed on a core: the record of the core's latest placement, while blocks of it wait in
the placement order. -/
def placing (s : State) (k : Core) (ctx : Nat) : Option Waiting :=
  s.order.find? fun w => w.launch.isSome && decide (w.ctx = ctx) && decide (w.record = k.lastRec)

/-- The earliest cycle of the next staggered placement of a launch in a cluster (R347). -/
def nextStagger (s : State) (cl : Nat) (w : Waiting) : Nat :=
  match w.launch.bind s.launches.find? with
  | some l => match l.lastAt.find? cl with
    | some t => t + l.info.stagger
    | none => 0
  | none => 0

/-- The 128-byte record of R371; a forced save gives the cycle of its request (R291). -/
def saveRecord (s : State) (c ctx : Nat) (forced : Bool) : List Byte :=
  let k := s.core c
  let at_ := placing s k ctx
  let ns : List Nat :=
    [((at_.map (nextStagger s (clusterOf c))).getD 0), movedCount k ctx,
     (List.range (min 64 (mooringsOf k ctx).length)).foldl (fun m i => m + 2 ^ i) 0, if forced then k.preemptAt.get ctx s.cycle else s.cycle, k.slotFunc.toNat,
     if (s.cluster (clusterOf c)).fused then 1 else 0, if carriesWeights s ctx then 1 else 0, k.relNum.get ctx 0 % 2 ^ 21]
  toBytes 4 (if forced then 0x464F5243 else 0x4E424F55) ++ toBytes 2 c ++ toBytes 2 ctx ++
    toBytes 8 ((at_.map fun w => w.record.toNat).getD 0) ++ toBytes 4 ((at_.map fun w => w.blk.toNat).getD 0) ++
    toBytes 4 (spillRecords k ctx forced).length ++ List.replicate 40 0 ++ ns.flatMap (toBytes 8)

/-- The weight units tagged with a context, by unit number, and the sections of their tile records (R376). -/
def saveUnits (s : State) (c ctx : Nat) : State :=
  let k := s.core c
  let s := (List.range 128).foldl (fun s u =>
    areaWrite s c ctx (0x90000 + 4096 * u)
      (toBytes 4096 (if k.units.find? u = some ctx then (k.planes.get u 0).toNat else 0))) s
  (List.range 64).foldl (fun s u =>
    areaWrite s c ctx (0x110000 + 2048 * u) (((k.tiles.find? u).filter fun r => r.ctx = ctx).elim (List.replicate 2048 0) TileRec.bytes)) s

/-- The sections of the sequencer, the chain, the copy engine and the producer slot of a core that the context owns. -/
def saveEngines (s : State) (c ctx : Nat) : State :=
  let k := s.core c
  let s := areaWrite s c ctx 128 (lampBytes k)
  let s := areaWrite s c ctx 0x10000 (tsqBytes k.tsq ++ tsqMore k)
  let s := areaWrite s c ctx 0x11000 (progressBytes k)
  let s := areaWrite s c ctx 0x12000 (chainBytes k.xcu)
  let s := areaWrite s c ctx 0x13000 ((pendingStops k).take 64 |>.flatMap StopRec.bytes)
  let s := areaWrite s c ctx 0x14000 (k.cpe.flatMap CpeCmd.bytes)
  let s := areaWrite s c ctx 0x15000 (flightBytes k)
  let s := match k.prs with
    | some p =>
      let s := areaWrite s c ctx 0x20000 (producerBytes p)
      let s := areaWrite s c ctx 0x21000 ((List.range 16).flatMap fun i => tableBytes (p.ct.get i []))
      areaWrite s c ctx 0x40000 ((List.range 65536).map fun i => p.hist.get i 0)
    | none => s
  if k.qOwner = some ctx then (List.range 8).foldl (fun s q =>
    areaWrite (areaWrite s c ctx (0x2F000 + 64 * q) (queueBytes (k.queues.get q {}))) c ctx (0x30000 + 8192 * q)
      (queueEntries (k.queues.get q {}))) s
  else s

/-- A forced save's area (R376): zero, then what the core holds. -/
def saveForced (s : State) (c ctx : Nat) : State :=
  let k := s.core c
  let mine := k.ctx = ctx
  let s := areaWrite s c ctx 128 (List.replicate (0x50000 - 128) 0)
  let s := if mine then saveEngines s c ctx else s
  let s := (List.range 1024).foldl (fun s r =>
    areaWrite s c ctx (0x50000 + 256 * r) (if mine then rowBytes (k.row r) else List.replicate 256 0)) s
  let s := saveUnits s c ctx
  let s := areaWrite s c ctx 0x130000 (if mine then k.spmBytes 0 Config.spmBytes else List.replicate Config.spmBytes 0)
  let s := areaWrite s c ctx 0x200000 (List.replicate (2304 * Config.coreFibres) 0)
  let s := areaWrite s c ctx 0x800000 (List.replicate (8192 * 1023) 0)
  if !mine then s
  else k.blocks.foldl (fun s (b, x) =>
    let s := areaWrite s c ctx (0x800000 + 8192 * b) (blockBytes k x)
    x.fibres.foldl (fun s (f, y) => physWrite s ctx hubKey (fibreRecord s c ctx k b f) (savedFibre k b f x.win y)) s) s

/-- The parts of a save area that a save has written and a restore reads, as offset and length. -/
def areaParts (s : State) (c ctx : Nat) (k : Core) (forced units : Bool) (spill : Nat) : List (Nat × Nat) :=
  [(0, 128), (0x200000, if forced then 0 else 64 * spill)] ++ (if units || forced then [(0x90000, 0xA0000)] else []) ++
    (if forced then (0, 0x90000) :: (0x130000, Config.spmBytes) :: k.blocks.map (fun (b, _) => (0x800000 + 8192 * b, 8192)) else []) ++
    if forced ∧ k.ctx = ctx then
      k.blocks.flatMap fun (b, x) => x.fibres.map fun (f, _) => (fibreRecord s c ctx k b f - saveArea s c ctx, 256 + 8 * x.win)
    else []

/-- Whether all parts of a save area can be read. -/
def areaGood (s : State) (c ctx : Nat) (parts : List (Nat × Nat)) : Bool := parts.all fun p => p.2 = 0 || areaReads s c ctx p

/-- The moorings and the save's account of them leave the core. -/
def takeOff (s : State) (c ctx : Nat) (forced : Bool) : State :=
  let k := s.core c
  let moved := movedCount k ctx
  let v : SavedCore := { k := { k with moorings := mooringsOf k ctx, cpe := k.cpe.map CpeCmd.anew }, forced := forced, moved := moved }
  let s := { s with saves := s.saves.set (saveKey c ctx) v }
  let s := s.modCluster (clusterOf c) fun x => { x with mqUsed := x.mqUsed + moved }
  s.modCore c fun k => { k with
    moorings := k.moorings.filter fun p => p.2.ctx ≠ ctx
    preempt := k.preempt.del ctx, preemptAt := k.preemptAt.del ctx }

/-- A context's save of a core: the record, the moorings and, for a weights-carrying node, its weight units. -/
def saveCore (s : State) (c ctx : Nat) (forced : Bool) : State :=
  let units := carriesWeights s ctx
  let s := moveMoorings s c ctx
  let spill := spillRecords (s.core c) ctx forced
  let s := areaWrite s c ctx 0 (saveRecord s c ctx forced)
  let s := areaWrite s c ctx 0x200000 (spill.flatMap Task.bytes)
  let s := if forced then saveForced s c ctx else if units then saveUnits s c ctx else s
  let good := areaGood s c ctx (areaParts s c ctx (s.core c) forced units spill.length)
  let s := takeOff s c ctx forced
  preDone (if good then s else devPut s (offPre ctx) 23 20 1) ctx

/-- A core whose context has been saved by force is empty: its state is in the save. -/
def emptyCore (k : Core) (ctx : Nat) : Core :=
  if k.ctx ≠ ctx then k
  else { k with
    blocks := [], bars := [], spm := [], lamp := none, lampQ := [], landings := [], reads := [], tsq := {}, mxe := {}, cpe := []
    xcu := {}, prs := none, queues := [], qOwner := none }

/-- The context whose save of a kind waits on a core. -/
def savingCtx (k : Core) (kind : Nat) (p : Nat → Bool) : Option Nat :=
  (List.find? (fun q : Nat × Nat => decide (q.2 = kind) && p q.1) k.preempt).map (·.1)

/-- The open SPM accesses of a core's fibres that concern core `c`, which is to be saved: its own fibres', and those to its SPM, that
had issued by the cycle of the request (R89, R94). -/
def spmDue (c now core : Nat) (k : Core) : List Access :=
  k.pend.filter fun a => a.open_ && decide (a.cycle ≤ now) && a.spm.any fun b => decide (b.home = c) || decide (core = c)

/-- NODE_BOUNDARY_SAVE (R371, R372): at the first node boundary of a context that is to be saved, the core's record is
written and its moorings leave it. -/
def execNodeBoundarySave (core : Nat) (s : State) : Out :=
  match savingCtx (s.core core) 1 (releasedFrom (s.core core)) with
  | some ctx => .next (saveCore s core ctx false)
  | none => .next s

/-- FORCED_SAVE_COMPLETE (R102, R373): the context's whole state on the core is saved and leaves it, once the accesses to the
core's SPM that had issued by its request have been performed. The slots of this last cycle are PREEMPT's too. -/
def execForcedSaveComplete (core : Nat) (s : State) : Out :=
  match savingCtx (s.core core) 2 fun _ => true with
  | some ctx =>
    let at_ := (s.core core).preemptAt.get ctx s.cycle
    if (s.core core).ctx = ctx ∧ (s.cores.any fun (n, k) => !(spmDue core at_ n k).isEmpty) then .next s
    else
      let s := saveCore (chargeNow s core) core ctx true
      .next ((discardShadow s ctx fun n => n = core).modCore core fun k => emptyCore k ctx)
  | none => .next s

-- Restores (R374)

/-- A mooring back on its core, its timer moved on by the time off the device (R371). -/
def Mooring.aged (m : Mooring) (d : Nat) : Mooring := { m with expiry := m.expiry.map (· + d) }

/-- Restored moorings stand before any record that enters after the restore. -/
def putMoorings (k : Core) (l : FMap Mooring) : Core :=
  { k with moorings := l.foldl (fun m (key, x) =>
      match m.find? key with
      | some y => m.set key { x with recs := x.recs ++ y.recs }
      | none => m.set key x) k.moorings }

/-- The records of a mooring back on its core: those in the cluster's queue as it holds them, then those in the save area, or
that the save keeps (log 50). -/
def mooringBack (s : State) (c : Nat) (spill : List Task) (m : Mooring) : Mooring :=
  if m.spilled then m
  else
    let here := m.recs.filterMap fun t => if t.slot.isSome then some { loadTask s (clusterOf c) t with slot := none } else none
    let rest := m.recs.filter fun t => t.slot.isNone
    { m with recs := here ++ (if spill.isEmpty then rest else spill.filter fun t => t.entry = m.node.entry) }

/-- The weight units back from a save area; tile records of other contexts in their units go (R69, R246). -/
def loadUnits (s : State) (c ctx : Nat) (v : SavedCore) : State :=
  let mine (u : Nat) : Bool := v.k.units.find? u = some ctx
  s.modCore c fun k => { k with
    units := (List.range 128).foldl (fun m u => if mine u then m.set u ctx else m) k.units
    planes := (List.range 128).foldl (fun m u =>
      if mine u then m.set u (BitVec.ofNat 32768 (areaNum s c ctx (0x90000 + 4096 * u) 4096)) else m) k.planes
    tiles := (List.range 64).foldl (fun m u => match TileRec.ofBytes (areaBytes s c ctx (0x110000 + 2048 * u) 2048) with
        | some r => m.set u r
        | none => m)
      (k.tiles.filter fun (u, r) => !(List.range r.width).any fun i => mine (u + i)) }

/-- The waits on a core's barriers that are over end: a barrier may have completed its phase while the core was saved (R41). -/
def releaseBars (s : State) (c : Nat) (l : List Nat) : State := l.foldl (fun s n => releaseBar s c n) s

/-- A core with the engines of a saved one, as the sections of its area give them (R374, R376): the sequencer, the results in flight
and the engines' progress go on from their saved cycles. -/
def enginesBack (s : State) (c ctx : Nat) (k saved : Core) : Core :=
  let k := { k with seqCyc := saved.seqCyc, issueNo := saved.issueNo, grants := max k.grants saved.grants, landings := saved.landings
                    reads := saved.reads, mxe := saved.mxe, xcu := saved.xcu }
  let (l, r) := flightBack k (areaBytes s c ctx 0x15000 (288 * flightRoom))
  let t := tsqBack saved.tsq (areaBytes s c ctx 0x10000 4096)
  let k := { k with
    landings := l, reads := r
    tsq := { t with holdTill := k.seqCyc + areaNum s c ctx 0x10AD0 8 }
    cpe := saved.cpe.zipIdx.map fun (y, i) => y.back (areaBytes s c ctx (0x14000 + 256 * i) 256)
    xcu := chainBack saved.xcu (areaBytes s c ctx 0x12000 1024)
    prs := saved.prs.map fun p =>
      producerBack p (areaBytes s c ctx 0x20000 4096) (areaBytes s c ctx 0x21000 16384) (areaBytes s c ctx 0x40000 65536) }
  progressBack k (areaBytes s c ctx 0x11000 4096)

/-- A core's state back from a forced save in the order of R376; what the area has no layout for is as it was saved (log 50). -/
def loadForced (s : State) (c ctx : Nat) (v : SavedCore) : State :=
  if v.k.ctx ≠ ctx then s
  else
    let s := if (s.core c).ctx = ctx then s else changeOwner s c ctx
    let record (b : Nat) : List Byte := areaBytes s c ctx (0x800000 + 8192 * b) 8192
    let bars := v.k.blocks.flatMap fun (b, x) => barsBack v.k x (record b)
    let back (b f win : Nat) (y : Fibre) : Fibre :=
      fibreBack { v.k with bars := bars } s.cycle win y (areaBytes s c ctx (fibreRecord s c ctx v.k b f - saveArea s c ctx) (256 + 8 * win))
    let here := v.k.blocks.map fun (b, x) => (b, x.placed (record b))
    let blocks := v.k.blocks.map fun (b, x) =>
      (b, { blockBack s c here x (record b) with fibres := x.fibres.map fun (f, y) => (f, back b f x.win y) })
    let lamp := areaNum s c ctx 128 4
    let queue := lampSlots ((List.range v.k.lampQ.length).map fun i => areaNum s c ctx (132 + 4 * i) 4)
    let stops := (List.range (min 64 (pendingStops v.k).length)).map fun i => StopRec.ofBytes (areaBytes s c ctx (0x13000 + 64 * i) 64)
    let held := stopsBack v.k.tsq.held stops
    let s := s.modCore c fun k =>
      let k := enginesBack s c ctx k v.k
      { k with
        lastCtx := some ctx, blocks := blockStops blocks held.2, bars := bars
        spm := spmPut [] 0 (areaBytes s c ctx 0x130000 Config.spmBytes)
        acm := (List.range 1024).map fun r => (r, BitVec.ofNat 2048 (areaNum s c ctx (0x50000 + 256 * r) 256))
        lamp := if lamp = 0 then none else some (lamp - 1)
        lampQ := queue.map fun b => (((v.k.blocks.find? b).map (·.stage)).getD 0, b)
        tsq := { k.tsq with held := held.1 }
        queues := if v.k.qOwner = some ctx then (List.range 8).map fun q =>
            (q, queueBack (v.k.queues.get q {}) (areaBytes s c ctx (0x2F000 + 64 * q) 64) (areaBytes s c ctx (0x30000 + 8192 * q) 8192))
          else v.k.queues
        qOwner := v.k.qOwner, slotTable := v.k.slotTable, slotFunc := v.k.slotFunc }
    releaseBars s c (bars.map (·.1))

/-- The parts of a save area that a restore reads. -/
def restoreParts (s : State) (c ctx : Nat) (v : SavedCore) : List (Nat × Nat) :=
  areaParts s c ctx v.k v.forced (areaNum s c ctx 112 8 % 2 = 1) (areaNum s c ctx 20 4)

/-- One core of a context restored. -/
def restoreCore (s : State) (ctx c : Nat) : State :=
  match s.saves.find? (saveKey c ctx) with
  | none => s
  | some v =>
    let spill := if v.forced then [] else
      (List.range (areaNum s c ctx 20 4)).map fun i => Task.ofBytes (areaBytes s c ctx (0x200000 + 64 * i) 64)
    let ms := v.k.moorings.map fun (key, m) => (key, (mooringBack s c spill m).aged (s.cycle - areaNum s c ctx 88 8))
    let ns7 := areaNum s c ctx 120 8
    let units := v.forced || areaNum s c ctx 112 8 % 2 = 1
    let s := { s with saves := s.saves.del (saveKey c ctx) }
    let s := s.modCluster (clusterOf c) fun x => { x with mqUsed := x.mqUsed - v.moved }
    let s := if v.forced then loadForced s c ctx v else s
    let s := if units then loadUnits s c ctx v else s
    s.modCore c fun k => putMoorings { k with relNum := k.relNum.set ctx (ns7 % 2 ^ 21) } ms

/-- A restore that is due on a core (R374): its area reads, and no flash record of another context's time there is still to be written
(R428). -/
def restoreNow (s : State) (ctx c : Nat) : State :=
  let s' := s.modCore c fun k => { k with preempt := k.preempt.del ctx }
  let waits := ((s.saves.find? (saveKey c ctx)).any fun v => v.forced && decide (v.k.ctx = ctx)) && decide ((s.core c).ctx ≠ ctx) &&
    flashHolds s (s.core c)
  if waits then s
  else if (s.saves.find? (saveKey c ctx)).any fun v => !areaGood s c ctx (restoreParts s c ctx v) then devPut s' (offPre ctx) 23 20 1
  else restoreCore s' ctx c

/-- The restore that waits on a core, if one does. -/
def restoreDue (s : State) (c : Nat) : State :=
  match savingCtx (s.core c) 3 fun _ => true with
  | some ctx => preDone (restoreNow s ctx c) ctx
  | none => s

/-- CXPRE_RESTORE (R370, R374, R414): every saved core that CMASK covers is restored, if each is released and its area
reads; one whose owner's flash record is still to be written waits for it (R428). -/
def execCxpreRestore (ctx : Nat) (v : BitVec 64) (s : State) : Out :=
  if tdiLocked s ctx then .next s else
  let s := devSet s (offPre ctx) (v &&& 0xFF06)
  let l := (coveredCores (bitsN v.toNat 15 8)).filter fun c => (s.saves.find? (saveKey c ctx)).isSome
  if l.any fun c => !releasedFrom (s.core c) (s.core c).ctx then .next (devPut s (offPre ctx) 23 20 2)
  else if l.any fun c => (s.saves.find? (saveKey c ctx)).any fun w => !areaGood s c ctx (restoreParts s c ctx w) then
    .next (devPut s (offPre ctx) 23 20 1)
  else
    let s := l.foldl (fun s c => s.modCore c fun k => { k with preempt := k.preempt.set ctx 3 }) (devPut s (offPre ctx) 16 16 1)
    .next (preDone (l.foldl (fun s c => restoreNow s ctx c) s) ctx)

end Sys2Proof.Machine
end

