-- ==== Sys2Proof/Machine/Fleet.lean ====
section
/-!
DEFINITION. Fleet operation: throttling (R436 to R439), killing a context (R443), peer links (R444), traffic of peers and the
host (R104, R379) and gang slices (R378, R445).
-/
namespace Sys2Proof.Machine

-- Throttling (R438, R439)

/-- Offset of ISLCTL of an island. -/
def offIsl (n : Nat) : Nat := 0x9000 + 8 * n

/-- SUP of every island set by a function of the island. -/
def setSup (s : State) (f : Nat → Nat) : State := (List.range 256).foldl (fun s n => devPut s (offIsl n) 6 0 (f n)) s

/-- SUP between FLOOR and 48 as hub firmware chooses it (R439 step 1). -/
def chosenSup (s : State) (n : Nat) : Nat :=
  let floor := devBits s (offIsl n) 13 8
  floor + Config.supChoice s.free n (devBits s 0x9800 11 0) (devBits s 0x9800 27 16) (devBits s (offIsl n) 23 16) % (49 - floor)

/-- Whether the islands are held at SUP 64 (R439 step 2). -/
def tripped (s : State) : Bool := devBits s (offIsl 0) 6 0 = 64

/-- Hub firmware sets SUP from the readings that stand in TEMP and PWR: 110 °C trips every island, and 95 °C releases them
(R439). -/
def throttle (s : State) : State :=
  let temp (n : Nat) : Nat := devBits s (offIsl n) 23 16
  match (List.range 256).find? fun n => 110 ≤ temp n with
  | some n =>
    if tripped s then s
    else
      let s := errorEntry (setSup s fun _ => 64) 4 0xFF n 1 0
      { s with irqs := s.irqs ++ [(0, 2)] }
  | none =>
    if tripped s && (List.range 256).any fun n => decide (95 < temp n) then s
    else (setSup s (chosenSup s)).draw

/-- The sensors' readings are stored (R438). -/
def senseAll (s : State) (temps : List (BitVec 8)) (power : BitVec 12) : State :=
  let s := (List.range 256).foldl (fun s n => devPut s (offIsl n) 23 16 (temps.getD n 0).toNat) s
  devPut s 0x9800 27 16 power.toNat

/-- Whether the part has reached a cycle in which hub firmware sets SUP (R439). -/
def throttleDue (s : State) : Bool := decide (0 < s.cycle) && decide (s.cycle % 2 ^ 16 = 0)

/-- THROTTLE_UPDATE (R439): the sensors' readings are stored, and in one of every 2^16 cycles hub firmware sets SUP by them. -/
def execThrottleUpdate (temps : List (BitVec 8)) (power : BitVec 12) (s : State) : Out :=
  let s := senseAll s temps power
  .next (if throttleDue s then throttle s else s)

-- Killing a context (R443)

/-- The key of a context is erased (R419): its pages read POISON and discard writes until a key is programmed again. -/
def eraseKey (s : State) (ctx : Nat) : State := { s with keys := s.keys.del ctx, erased := insN s.erased ctx }

/-- What a kill leaves of a core: no fibre, command, block, queue, mooring or access of the context. The core stays owned by
it (R421, R443). -/
def killedCore (k : Core) (ctx : Nat) : Core :=
  let k := emptyCore k ctx
  { k with
    moorings := k.moorings.filter fun p => p.2.ctx ≠ ctx
    pend := k.pend.filter fun a => a.ctx ≠ ctx
    inbox := k.inbox.filter fun e => e.ctx ≠ ctx
    slotsUsed := k.slotsUsed.filter fun u => u.1 ≠ ctx
    relNum := k.relNum.del ctx
    preempt := k.preempt.del ctx, preemptAt := k.preemptAt.del ctx }

/-- Slots of a cluster's mooring queue that a context's records on a core take. -/
def queuedOn (k : Core) (ctx : Nat) : Nat :=
  ((mooringsOf k ctx).filter fun p => p.2.spilled).foldl (fun n p => n + p.2.recs.length) 0

/-- One core in a kill (R443 steps 2 to 4): the publishes of its abandoned commands have not reached their points (R102). -/
def killCore (s : State) (ctx c : Nat) : State :=
  let moved := ((s.saves.find? (saveKey c ctx)).map (·.moved)).getD 0
  let s := s.modCluster (clusterOf c) fun x => { x with
    mqUsed := x.mqUsed - queuedOn (s.core c) ctx - moved
    notices := if (s.core c).ctx = ctx then x.notices.filter fun n => n.core ≠ c else x.notices }
  { s.modCore c (fun k => killedCore k ctx) with saves := s.saves.del (saveKey c ctx) }

/-- Every handler set of a context is disabled (R443 step 5). -/
def disableSets (s : State) (ctx : Nat) : State :=
  (List.range 256).foldl (fun s sl => (List.range 8).foldl (fun s k =>
    if setOn s sl k ∧ lhBits s sl k 0 6 1 = ctx then disableSet s sl k else s) s) s

/-- Every launch queue bound to a context is disabled, and its inbox emptied (R414, R443). -/
def disableQueues (s : State) (ctx : Nat) : State :=
  (List.range 128).foldl (fun s q =>
    if queueCtx s q = ctx then { devPut s (offQ q 8) 0 0 0 with inboxes := s.inboxes.del q } else s) s

/-- The launches, waiting blocks and successors of a context are discarded. -/
def dropLaunches (s : State) (ctx : Nat) : State :=
  let mine (id : Nat) : Bool := (s.launches.find? id).any fun l => l.ctx = ctx
  { s with
    launches := s.launches.filter fun p => p.2.ctx ≠ ctx
    succs := s.succs.filter fun x => !mine x.2.2
    held := s.held.filter fun p => !mine p.2
    aging := s.aging.filter fun p => !(s.order.any fun w => decide (w.number = p.2) && decide (w.ctx = ctx))
    order := s.order.filter fun w => w.ctx ≠ ctx
    walks := s.walks.filter fun w => w.2.1 ≠ ctx }

/-- The seven steps of a kill (R443). -/
def killContext (s : State) (ctx : Nat) : State :=
  let s := discardShadow { s with killing := insN s.killing ctx } ctx fun _ => true
  let s := (s.cores.map (·.1)).foldl (fun s c => killCore s ctx c) s
  let s := preDone (dropLaunches s ctx) ctx
  let s := eraseKey (disableSets (disableQueues s ctx) ctx) ctx
  { s with
    tlb := s.tlb.filter fun t => t.ctx ≠ ctx
    spoiled := s.spoiled.filter fun p => p.1 ≠ ctx
    loads := s.loads.filter fun j => j.ctx ≠ ctx
    images := s.images.filter fun i => i.ctx ≠ ctx
    overlays := s.overlays.filter fun o => o.ctx ≠ ctx
    seals := s.seals.filter fun p => p.2.ctx ≠ ctx }

/-- CONTEXT_KILL (R443): GO written to CTXKILL; it reads 1 until the kill is complete (R8). A GO while BUSY is set starts nothing. -/
def execContextKill (ctx : Nat) (s : State) : Out :=
  if devBits s 0x9C00 9 9 = 1 then .next s
  else .next (killContext (devSet s 0x9C00 (BitVec.ofNat 64 (ctx % 64 + 0x300))) (ctx % 64))

/-- CONTEXT_KILL_COMPLETE (R443): every step is complete. -/
def execContextKillComplete (s : State) : Out := .next { devPut s 0x9C00 9 8 0 with killing := [] }

-- Peer links (R444)

/-- A link leaves STATE 2: what it had not delivered goes over another healthy link in its order, or waits where there is none; the
flits that it sends again are counted (R444, log 60). -/
def resend (s : State) (link : Nat) : State :=
  let off := 0xA000 + 8 * link
  let s' := { s.draw with peers := match (List.range 24).find? fun l => decide (devBits s (0xA000 + 8 * l) 1 0 = 2) with
    | some l => s.peers.map fun p => if p.link = some link then { p with link := some l } else p
    | none => s.peers }
  devPut s' off 47 16 (min (devBits s off 47 16 + Config.retransmitted s.free) 0xFFFFFFFF)

/-- PEER_LINK_STATE_CHANGE (R432, R444): a link that leaves STATE 2 sends again what it had not delivered and writes a LINK entry;
with no healthy link SYNCOK clears, and FLOFS holds. -/
def execPeerLinkStateChange (link : Nat) (st : BitVec 2) (lanes : BitVec 8) (s : State) : Out :=
  let off := 0xA000 + 8 * link
  let was := devBits s off 1 0
  let s := devPut (devPut s off 1 0 st.toNat) off 9 2 lanes.toNat
  let s := if linkHealthy s then s else devPut { s with nextOfs := none } 0x8028 0 0 0
  if was = 2 ∧ st ≠ 2 then .next (errorEntry (resend s link) 5 0xFF (linkIsland link) 1 0) else .next s

-- Traffic of peers and the host (R104, R379)

/-- Whether the module runs a context for the traffic of its gang: during its slice, and where no slice is armed for it and
no save holds it (R379). -/
def runsGang (s : State) (ctx : Nat) : Bool :=
  decide (s.slice = some ctx) ||
    (!(decide (devBits s 0xA200 8 8 = 1) && decide (devBits s 0xA200 5 0 = ctx)) && !(s.saves.any fun p => decide (p.1 % 64 = ctx)))

/-- The compute die on which an access of a link, or of the host, reaches the slices (log 99). -/
def peerDie (link : Option Nat) : Nat := (link.getD 0) / 6 % 4

/-- The lines that an access touches, by an address in each. -/
def touchedLines (pa n : Nat) : List Nat := (List.range ((pa + n + 127) / 128 - pa / 128)).map fun i => 128 * (pa / 128 + i)

/-- A host read of this address on is one of a device register, at the address less it, as REGISTER_WRITE numbers the registers: the
model's way of writing such a read (log 106). -/
def registerSpace : Nat := 2 ^ 52

/-- What a 64-bit read of a device register returns (R8, R412). A VF sees QTAIL, QHEAD and QERR of the queues bound to its context;
a handler SRAM is read through its window; every other register that is not listed reads zero, and so does a write-only one. -/
def readRegister (s : State) (off : Nat) : BitVec 64 :=
  if off % 8 ≠ 0 then 0
  else if 0x8000000 ≤ off ∧ off < 0x8080000 then
    let q := (off - 0x8000000) % 0x2000 / 0x40
    if queueCtx s q = (off - 0x8000000) / 0x2000 ∧ hasN [0x10, 0x18, 0x20] (off % 0x40) then devGet s (offQ q (off % 0x40)) else 0
  else if 0x8080000 ≤ off then BitVec.ofNat 64 (if s.vfVec.any (fun p => decide (p = ((off - 0x8080000) / 8 / 2, (off - 0x8080000) / 8 % 2))) then 1 else 0)
  else
    let r := off % 0x40000
    if 0x1000000 ≤ off ∧ off < 0x5000000 ∧ 0x10000 ≤ r ∧ r < 0x30000 then
      BitVec.ofNat 64 (ofBytes ((List.range 8).map fun i => (s.slice' ((off - 0x1000000) / 0x40000)).sram.get (r - 0x10000 + i) 0))
    else devGet s off

/-- The lines of an access of a peer or the host that its slices do not have yet are asked of them, as another agent's (R72, R74,
R394): whether all are there. -/
def askPeer (s : State) (p : PeerHold) : State × Bool :=
  (touchedLines p.pa p.data.length).foldl (fun (s, all) pa =>
    let (s, there) := askAlone s (peerDie p.link) 0xFFFF p.ctx pa p.write
    (s, all && there)) (s, true)

/-- An access of a peer or the host is performed: a write, which takes its lines' ownership (R72), or a read whose data go back
(R104, R441). -/
def performPeer (s : State) (p : PeerHold) : State :=
  if p.write then
    (touchedLines p.pa p.data.length).foldl (fun s pa => if backed pa then l2Own s (sliceOf (peerDie p.link) pa) (pa / 128) p.ctx else s)
      (physWrite s p.ctx p.ctx p.pa p.data)
  else if p.link = none ∧ registerSpace ≤ p.pa then
    { s with messages := s.messages ++ [.register (p.pa - registerSpace) (readRegister s (p.pa - registerSpace))] }
  else { badRead s p.ctx p.pa p.data.length with messages := s.messages ++ [.readData p.link p.pa (physRead s p.ctx p.pa p.data.length)] }

/-- Whether the port of a sender cannot take its traffic now: a link that is down or in training (R444), a link that holds a
context's traffic (R379), or an island that refuses requests (R437). -/
def portShut (s : State) (p : PeerHold) : Bool :=
  match p.link with
  | none => suppressed s hostIsland s.cycle
  | some l => decide (devBits s (0xA000 + 8 * l) 1 0 < 2) || suppressed s (linkIsland l) s.cycle ||
      ((devGet s 0xA218).toNat.testBit l && !runsGang s p.ctx)

/-- The accesses of a list in order, each performed if no earlier one of its sender and context waits, its module runs the
context, its port takes it, and its slices have its lines (R104, R379, R444). -/
def servePeers : List PeerHold → State → State
  | [], s => s
  | p :: t, s =>
    let waits := s.peers.any fun q => decide (q.link = p.link) && decide (q.ctx = p.ctx)
    let (s', there) := if waits || portShut s p then (s, false) else if registerSpace ≤ p.pa then (s, true) else askPeer s p
    servePeers t (if there then performPeer s' p else { s' with peers := s'.peers ++ [p] })

/-- PEER_ACCESS_ARRIVAL (R104, R379): accesses of one sender are performed in the order sent; those of a gang's context wait at
the port until this module runs it (log 60). A read's `data` gives its length. -/
def execPeerAccessArrival (link : Option Nat) (ctx : Nat) (write : Bool) (pa : Nat) (data : List Byte) (s : State) : Out :=
  .next (servePeers [⟨link, ctx, write, pa, data⟩] s)

/-- PEER_TRAFFIC_RELEASE (R379): both modules run the gang's context, and its held traffic is delivered in the order sent; so are
the accesses whose lines have come. -/
def execPeerTrafficRelease (s : State) : Out := .next (servePeers s.peers { s with peers := [] })

-- Gang slices (R378, R445)

/-- The context of GSCTL. -/
def gangCtx (s : State) : Nat := devBits s 0xA200 5 0
/-- Whether a gang slice is armed. -/
def gangArmed (s : State) : Bool := devBits s 0xA200 8 8 = 1

/-- GANG_SLICE_ARM (R445): ARM is set where SYNCOK is. -/
def execGangSliceArm (ctx : Nat) (s : State) : Out :=
  if gangArmed s then .next s
  else
    let s := devSet s 0xA200 (BitVec.ofNat 64 (ctx % 64))
    .next (if devBits s 0x8028 0 0 = 1 then devPut s 0xA200 8 8 1 else s)

/-- Whether the armed slice can begin now: its start has come, its end has not, and no core waits for a restore (R378). -/
def gangReady (s : State) : Bool :=
  gangArmed s && s.slice.isNone && decide ((devGet s 0xA208).toNat ≤ fleetCycle s) &&
    decide (fleetCycle s < (devGet s 0xA210).toNat) && !(s.saves.any fun p => decide (p.1 % 64 = gangCtx s))

/-- GANG_SLICE_START (R378, R379): the module begins the slice; one that is late logs SLICE. -/
def execGangSliceStart (s : State) : Out :=
  if gangReady s then
    let ctx := gangCtx s
    let s' := { s with slice := some ctx }
    .next (if (devGet s 0xA208).toNat < fleetCycle s then faultLog s' ctx 5 0 0 0 0 (List.replicate 32 0) zero64 else s')
  else .next s

/-- GANG_SLICE_END (R445): at END a forced save of the context starts on every cluster, and ARM clears. -/
def execGangSliceEnd (s : State) : Out :=
  if gangArmed s ∧ (devGet s 0xA210).toNat ≤ fleetCycle s then
    .next (startSave { devPut s 0xA200 8 8 0 with slice := none } (gangCtx s) 2 0xFF02)
  else .next s

end Sys2Proof.Machine
end

