-- ==== Sys2Proof/Machine/HostSide.lean ====
section
/-!
DEFINITION. Cold reset (R8), boot and measurement (R415 to R417), attestation (R418), memory keys (R419) and the device
interfaces of the tenants (R414).
-/
namespace Sys2Proof.Machine

/-- COLD_RESET (R8): every register field and all of the part's state at its reset value. What the surroundings have in
store for the part stays. -/
def execColdReset (s : State) : Out := .next { State.reset with agenda := s.agenda, cur := s.cur, free := s.free }

-- Measurement slots (R415, R417)

/-- A measurement slot. -/
def slotVal (s : State) (i : Nat) : BitVec 384 := s.measures.get i 0

/-- A slot extended by data whose SHA-384 is `d` (R415). -/
def extendSlot (s : State) (i : Nat) (d : BitVec 384) : State :=
  { s with measures := s.measures.set i (sha384 (digestBytes (slotVal s i) ++ digestBytes d)) }

/-- `n` extensions of a slot by the same data. -/
def extendTimes (s : State) (i : Nat) (d : BitVec 384) : Nat → State
  | 0 => s
  | n + 1 => extendTimes (extendSlot s i d) i d n

/-- MEASUREMENT_EXTEND (R417): a request for a slot below 16 is ignored. -/
def execMeasurementExtend (slot : Nat) (digest : BitVec 384) (s : State) : Out :=
  if slot < 16 ∨ 31 < slot then .next s else .next (extendSlot s slot digest)

/-- BOOT_STAGE_VERIFY (R415, R416): the running stage verifies the next stage's image; it extends the stage's slot and runs
it, or boot halts there. An image that cannot be read stands as the empty list. The ROM first extends its own slot. -/
def execBootStageVerify (image sig1 sig2 : List Byte) (s : State) : Out :=
  if devBits s 0x1000 4 4 = 1 ∨ devBits s 0x1000 7 5 ≠ 0 then .next s
  else
    let next := devBits s 0x1000 3 0 + 1
    let s := if next = 1 then extendSlot s 0 Config.romDigest else s
    let s := devPut s 0x1000 3 0 next
    let d := sha384 image
    if image = [] then .next (devPut s 0x1000 7 5 2)
    else if !(Config.verifyEd25519 d sig1 && Config.verifyMlDsa d sig2) then .next (devPut s 0x1000 7 5 1)
    else
      let s := extendTimes s next d (if next = 3 then 12 else 1)
      .next (if next = 5 then devPut s 0x1000 4 4 1 else s)

-- Attestation (R418)

/-- MS0 to MS31. -/
def allSlots (s : State) : List (BitVec 384) := (List.range 32).map (slotVal s)

/-- SPDM_MEASUREMENTS (R418): a response with every slot as it stands, signed twice over one transcript. -/
def execSpdmMeasurements (nonce : BitVec 256) (s : State) : Out :=
  let slots := allSlots s
  let d := sha384 (beBytes 32 nonce.toNat ++ slots.flatMap digestBytes)
  .next { s with messages := s.messages ++ [.measurements {
    nonce := nonce, slots := slots, ed25519 := toBytes 64 (Config.signEd25519 d).toNat
    opaque_ := { id := 0x0A, len := 3309, data := toBytes 3309 (Config.signMlDsa d).toNat } }] }

/-- SPDM_SESSION (R418, R419): the exchange that sets up a secure session with its secret sends both certificate chains. -/
def execSpdmSession (sess : Nat) (secret : BitVec 256) (s : State) : Out :=
  .next { s with
    sessions := s.sessions.set (sess % 256) secret
    messages := s.messages ++ [.certificate 0 (Config.certChain 0), .certificate 1 (Config.certChain 1)] }

-- Memory keys (R419)

/-- A command of KEYCMD: ignored while one is under way or the context's TDI is locked (R414); ERR 1 where the context is
enabled; else what the operation does. -/
def keyCommand (s : State) (ctx op sess : Nat) (act : State → State) : State :=
  let ctx := ctx % 64
  if tdiLocked s ctx || decide (devBits s 0x7000 17 17 = 1) then s
  else
    let s := devSet s 0x7000 (BitVec.ofNat 64 (ctx + 64 * op + 256 * (sess % 256)))
    if devBits s (offCX ctx 0) 0 0 = 1 then devPut s 0x7000 19 18 1 else act s

/-- The engines are to take a key: BUSY is set, and GO reads 1 (R8). -/
def keyBusy (s : State) : State := devPut s 0x7000 17 16 3

/-- A context's key programmed. -/
def programKey (s : State) (ctx : Nat) (key : BitVec 512) : State :=
  keyBusy { s with keys := s.keys.set ctx key, erased := s.erased.filter (· ≠ ctx) }

/-- A random key for a context (R419). -/
def generateKey (s : State) (ctx sess : Nat) : State :=
  keyCommand s ctx 1 sess fun s => programKey s.draw (ctx % 64) (Config.randomKey s.free)
/-- A context's key erased (R419). -/
def eraseCommand (s : State) (ctx sess : Nat) : State :=
  keyCommand s ctx 3 sess fun s => keyBusy (eraseKey s (ctx % 64))

/-- A wrapped key installed for a context: ERR 2 where the blob does not unwrap in the session that SESS names (R419). -/
def installKey (s : State) (ctx sess : Nat) (wrapped : List Byte) : State :=
  keyCommand s ctx 2 sess fun s =>
    match (s.sessions.find? (sess % 256)).bind fun k => Config.unwrapKey k wrapped with
    | some key => programKey s (ctx % 64) key
    | none => devPut s 0x7000 19 18 2

/-- KEY_GENERATE (R419): SESS keeps its value. -/
def execKeyGenerate (ctx : Nat) (s : State) : Out := .next (generateKey s ctx (devBits s 0x7000 15 8))

/-- KEY_INSTALL (R419). -/
def execKeyInstall (ctx sess : Nat) (wrapped : List Byte) (s : State) : Out := .next (installKey s ctx sess wrapped)

/-- KEY_ERASE (R419): SESS keeps its value. -/
def execKeyErase (ctx : Nat) (s : State) : Out := .next (eraseCommand s ctx (devBits s 0x7000 15 8))

/-- KEYCMD_COMPLETE (R419): every stack engine holds the result. -/
def execKeycmdComplete (s : State) : Out := .next (devPut s 0x7000 17 16 0)

-- Device interfaces (R414)

/-- A TDI's state after a TDISP request: LOCK from CONFIG_UNLOCKED, START from CONFIG_LOCKED, STOP from any. Other requests
leave it. -/
def tdiNext (st : Nat) (msg : BitVec 8) : Nat :=
  if msg = 0x83 then (if st = 0 then 1 else st)
  else if msg = 0x86 then (if st = 1 then 2 else st)
  else if msg = 0x87 then 0
  else st

/-- Whether a TDI answers a TDISP message in a state: version, capabilities, state, STOP and vendor-defined messages in any, LOCK and
START in the state before, a report once locked, and the settings of a running interface in RUN (log 56). -/
def tdiAllows (st : Nat) (msg : BitVec 8) : Bool :=
  hasN [0x81, 0x82, 0x85, 0x87, 0x8B] msg.toNat || (msg = 0x83 && decide (st = 0)) || (msg = 0x86 && decide (st = 1)) ||
    (msg = 0x84 && (decide (st = 1) || decide (st = 2))) || (hasN [0x88, 0x89, 0x8A] msg.toNat && decide (st = 2))

/-- TDISP_REQUEST (R411, R414): the interface takes its next state and answers with the response of the message's code, or with an
error (log 56). -/
def execTdispRequest (ctx : Nat) (msg : BitVec 8) (s : State) : Out :=
  let n := ctx % 64
  let st := s.tdi.get n 0
  .next { s with
    tdi := s.tdi.set n (tdiNext st msg)
    messages := s.messages ++ [.tdisp n (if tdiAllows st msg then msg.toNat % 128 else 0x7F) (tdiNext st msg)] }

/-- TDI_ERROR (R414): a TDI that leaves RUN for ERROR makes the part kill its context. -/
def execTdiError (ctx : Nat) (s : State) : Out :=
  let n := ctx % 64
  match s.tdi.get n 0 with
  | 2 => .next (killContext { s with tdi := s.tdi.set n 3 } n)
  | 1 => .next { s with tdi := s.tdi.set n 3 }
  | _ => .next s

end Sys2Proof.Machine
end

