-- ==== Sys2Proof/Machine/Sealer.lean ====
section
/-!
DEFINITION. The sealer's scan of an image (R149 to R151, R204, R219, R222, R231, R245, R253, R282, R286, R298, R309, R311,
R318, R319, R322): the codes of R319, cleared hints and trap-on-execute marks.
-/
namespace Sys2Proof.Machine
open Sys2Proof.Decode (bundleS bundleV bundleM bundleC bundleX bundleRep bundleNest)

/-- The number of a code (R319). -/
def sealNum : SealCode → Nat
  | .opcode => 0x01 | .reserved => 0x02 | .guard => 0x03 | .format => 0x04 | .order => 0x05 | .register => 0x06
  | .special => 0x07 | .field => 0x08 | .destination => 0x09 | .rotate => 0x0A | .latency => 0x0B | .loop => 0x0C
  | .repeat => 0x0D | .nest => 0x0E | .ending => 0x0F | .branch => 0x10 | .gate => 0x11 | .stream => 0x12 | .stray => 0x13

/-- Placed code: runs of bytes by their addresses. -/
abbrev Code := List (Nat × List Byte)

/-- `n` bytes of placed code from an address on, as a number; 0 outside it. -/
def codeNum (code : Code) (a n : Nat) : Nat :=
  match List.find? (fun p => decide (p.1 ≤ a) && decide (a + n ≤ p.1 + p.2.length)) code with
  | some p => ofBytes (slice p.2 (a - p.1) n)
  | none => 0

/-- Placed code with bytes replaced at an address. -/
def codePut (code : Code) (a : Nat) (bytes : List Byte) : Code :=
  code.map fun p => if p.1 ≤ a ∧ a + bytes.length ≤ p.1 + p.2.length then (p.1, patch p.2 (a - p.1) bytes) else p

/-- What a scan is about: the code, its functions, those that stand in sealed pages already (R313, R334), gate records and
layout map. -/
structure Scan where
  code : Code
  funcs : List Func
  known : List Func := []
  gates : List (VAddr × Nat × Nat) := []
  maps : List (Nat × Nat × Nat) := []

/-- What a scan finds in words that pass: addresses whose hints it clears, and addresses that it marks, with the warning. -/
structure Found where
  clears : List Nat := []
  marks : List (Nat × Nat) := []
deriving DecidableEq, Repr

/-- A rejection: its code, the function's address, the failing word's offset in it, and what was found before it (R321). -/
structure Reject where
  code : SealCode
  func : Nat
  off : Nat
  found : Found := {}
deriving DecidableEq, Repr

/-- Two findings. -/
def Found.add (a b : Found) : Found := ⟨a.clears ++ b.clears, a.marks ++ b.marks⟩

/-- The function that holds an address. -/
def Scan.funcOf (x : Scan) (a : Int) : Option Func :=
  (x.funcs ++ x.known).find? fun f => decide ((f.start.toNat : Int) ≤ a) && decide (a < ((f.start.toNat + f.size : Nat) : Int))

-- Fibre words

/-- Whether an instruction keeps its H value (R150). -/
def keepsHint (i : Instr) : Bool :=
  match i with
  | .ldGI8 .. | .ldGUi8 .. | .ldGI16 .. | .ldGUi16 .. | .ldGB32 .. | .ldGB64 .. | .ldGB128 .. | .pref .. | .bra .. | .brx ..
  | .callx .. => true
  | _ => false

/-- Whether an instruction is a superseded opcode that the sealer marks (R141, R322). -/
def isSuperseded (i : Instr) : Bool :=
  match i with
  | .fmnx .. | .cvtf8 .. => true
  | _ => false

/-- The branch distance of a relative transfer, in words (R173). -/
def fibreBranch (i : Instr) : Option Int :=
  match i with
  | .bra _ off => some (sextN off.toNat 32)
  | .call _ _ off => some (sextN off.toNat 32)
  | _ => none

/-- The gate record that a GATE names. -/
def gateWord (i : Instr) : Option Nat :=
  match i with
  | .gate _ n => some n.toNat
  | _ => none

/-- The checks of one gate record's map against a window (R204). -/
def gateFits (x : Scan) (win idx : Nat) : Bool :=
  match x.gates[idx]? with
  | some (_, m, n) => decide (idx < 4096) && (slice x.maps m n).all fun e => decide (e.1 + e.2.1 ≤ win)
  | none => false

/-- One fibre word of a function. -/
def scanFibre (x : Scan) (f : Func) (a : Nat) : Except SealCode Found :=
  let w := BitVec.ofNat 64 (codeNum x.code a 8)
  match Decode.decodeFibre w with
  | .error e => .error e
  | .ok i =>
    match WellFormed.check i with
    | some e => .error e
    | none =>
      if (WellFormed.spans i).any fun p => decide (f.win < p.1 + p.2) then .error .register
      else if (gateWord i).any fun n => !gateFits x f.win n then .error .gate
      else if (fibreBranch i).any fun d => (x.funcOf (a + 8 * d)).isNone then .error .branch
      else
        let h := bitsN w.toNat 43 42
        let m := bitsN w.toNat 41 40
        .ok { clears := if h ≠ 0 ∧ !(keepsHint i && h ≠ 3) then [a] else []
              marks := (if m ≠ 0 then [(a, 0x82)] else []) ++ (if isSuperseded i then [(a, 0x83)] else []) }

-- Bundles

/-- The k register that an S operation writes, with its latency (R260). -/
def sWrites : SOp → Option (Nat × Nat)
  | .addk kd _ _ _ _ | .subk kd _ _ _ _ | .mulk kd _ _ _ _ | .andk kd _ _ _ _ | .ork kd _ _ _ _ | .xork kd _ _ _ _
  | .shlk kd _ _ _ _ | .shrk kd _ _ _ _ | .sark kd _ _ _ _ | .mink kd _ _ _ _ | .maxk kd _ _ _ _ | .sltk kd _ _ _ _
  | .sltku kd _ _ _ _ | .seqk kd _ _ _ _ | .movk kd _ _ _ | .movhk kd _ | .addik kd _ _ | .rdsrk kd _ | .arrk kd _ =>
    some (kd.toNat, 1)
  | .ldk kd _ _ _ _ _ => some (kd.toNat, 6)
  | _ => none

/-- The promise register of a C operation; 0 names none (R257). -/
def cWrites : COp → Nat
  | .cnop _ => 0
  | .copy _ _ _ _ _ _ _ _ _ kp _ | .copyp _ _ _ _ _ _ _ _ _ kp _ | .cpack _ _ _ _ _ _ _ _ _ kp _ _
  | .cunpk _ _ _ _ _ _ _ _ _ kp _ _ | .pub _ _ _ _ _ kp _ => kp.toNat

/-- The k register that an X operation writes. -/
def xWrites : XOp → Option Nat
  | .chend _ kd => some kd.toNat
  | _ => none

/-- Every k register that a bundle writes, with its latency. -/
def kWrites (o : Slots) : List (Nat × Nat) :=
  (sWrites o.s).toList ++ (if cWrites o.c = 0 then [] else [(cWrites o.c, 4)]) ++ ((xWrites o.x).map fun k => (k, 1)).toList

/-- The vector that a V operation writes, with its latency (R260). -/
def vWrites : VOp → Option (Nat × Nat)
  | .vadd _ d _ _ _ _ _ | .vsub _ d _ _ _ _ _ | .vmin _ d _ _ _ | .vmax _ d _ _ _ | .vabs _ d _ _ _ | .vneg _ d _ _ _
  | .vqpop _ d _ => some (d.toNat, 4)
  | .vmul _ d _ _ _ _ _ | .vfma _ d _ _ _ _ _ _ | .vcvt _ d _ _ _ _ _ _ | .vscale _ d _ _ _ _ _ _ _ _ _ => some (d.toNat, 5)
  | .vand _ d _ _ | .vor _ d _ _ | .vxor _ d _ _ | .vshl _ d _ _ _ | .vshr _ d _ _ _ | .vsar _ d _ _ _ | .vcmp _ d _ _ _ _
  | .vsel _ d _ _ _ _ | .vbcast _ d _ _ _ _ | .vmov _ d _ => some (d.toNat, 2)
  | .vrcp _ d _ _ _ _ | .vrsq _ d _ _ _ _ | .vexp2 _ d _ _ _ _ | .vlog2 _ d _ _ _ _ => some (d.toNat, 12)
  | .vredl _ d _ t _ _ _ => some (d.toNat, 3 * Nat.log2 (2048 / fmtWidth t.toNat))
  | .vredr _ d _ _ _ cnt _ _ => some (d.toNat, 4 * (cnt.toNat + 1))
  | .vld _ d _ _ _ _ => some (d.toNat, 6)
  | .vnop _ | .vst .. => none

/-- Output passes of an A format, least and most: BP8 takes 2, 4 or 8 planes (R249). -/
def passes (af : BitVec 5) : Nat × Nat := if af = 0xA then (2, 8) else if af = 0x12 ∨ af = 0x13 then (16, 16) else (8, 8)

/-- The rows from a vector name that an MMA writes, each with its least and greatest latency over what the sealer does not
know: the planes of BP8, and RC of a float format (R248, R250). -/
def mmaRows (c : BitVec 8) (rows : Nat) (af : BitVec 5) (rep : Nat) : List (Nat × Nat × Nat) :=
  if c.getLsbD 7 then [] else
  let (lo, hi) := passes af
  let int := af = 0 ∨ af = 1 ∨ af = 0xA
  let last := rep * (hi * rows)
  (List.range (2 * rows)).map fun r =>
    let one := r < rows ∧ ¬int
    (c.toNat + r, 6 + lo * (r / 2 + 1), last + (if one then 6 + hi * (r + 1) else 6 + hi * (r / 2 + 1)))

/-- The rows that an M operation writes, by vector name, with least and greatest latency; `rep` further issues follow. -/
def mWrites (rep : Nat) : MOp → List (Nat × Nat × Nat)
  | .mma _ c _ _ rows af _ _ _ => mmaRows c (rows.toNat + 1) af rep
  | .mmaq _ c _ _ rows af _ _ _ => mmaRows c (rows.toNat + 1) af rep
  | .mclr _ c cnt w =>
    if w = 1 ∨ c.getLsbD 7 then [] else (List.range (cnt.toNat + 1)).map fun r => (c.toNat + r, 2, 2 + rep)
  | _ => []

/-- A bundle of a function as the scan reads it. -/
structure Bun where
  w : BitVec 256
  o : Slots
  rep : Nat := 0

/-- The operations of a bundle in its layout (R142 to R144, R253). -/
def bundleOps (w : BitVec 256) : Except SealCode Slots :=
  if bundleNest w then slotsOf w 0 0 0
  else if bundleRep w then slotsOf w 0 (bundleC w) (bundleX w)
  else slotsOf w (bundleM w) (bundleC w) (bundleX w)

/-- Whether an S operation may not stand in a REP bundle (R253). -/
def sBranches : SOp → Bool
  | .brk _ | .bnzk _ _ | .loop .. | .lend .. | .gret => true
  | _ => false

/-- Whether an M operation may carry a repeat prefix (R253). -/
def mRepeats : MOp → Bool
  | .mma .. | .mmaq .. | .bload .. | .mclr .. => true
  | _ => false

/-- Whether an S operation is SETST, or WRSRK of %vrot (R222). -/
def sRotates : SOp → Bool
  | .setst .. => true
  | .wrsrk _ n => n = 0x13
  | _ => false

/-- The ad register that SETAD writes. -/
def sSetsAd : SOp → Option Nat
  | .setad n _ _ => some n.toNat
  | _ => none

/-- Whether a repeat prefix and the bundle after it are formed as R253 and R298 ask. -/
def repeatOk (w : BitVec 256) (s : SOp) (next : Option (BitVec 256)) : Bool :=
  bitsN (bundleM w).toNat 8 0 == 0 && !sBranches s &&
    (match next with
      | none => false
      | some n => !bundleRep n && !bundleNest n && (match bundleOps n with
        | .ok o => mRepeats o.m && !((sSetsAd o.s).any fun a => (bundleM w).getLsbD (25 + a))
        | .error _ => true))

/-- The stride fields of operands that a V operation does not name are zero, and it may stand in a loop nest (R144, R245); that
VNOP may not, and fails as NEST, is log 100 (DESIGN CHOICE: R319 does not list it). -/
def nestOk (w : BitVec 256) : VOp → Bool
  | .vnop _ | .vqpop .. | .vld .. | .vst .. => false
  | .vfma .. | .vsel .. => true
  | .vadd .. | .vsub .. | .vmul .. | .vmin .. | .vmax .. | .vand .. | .vor .. | .vxor .. | .vshl .. | .vshr .. | .vsar .. | .vcmp ..
  | .vscale .. => bitsN w.toNat 255 241 == 0
  | .vbcast _ _ _ _ usek _ => bitsN w.toNat 255 226 == 0 && (usek == 0 || bitsN w.toNat 225 211 == 0)
  | _ => bitsN w.toNat 255 226 == 0

/-- Whether no two slots write one k register (R222, R267). -/
def distinctK (o : Slots) : Bool := ((kWrites o).map (·.1)).Nodup

/-- Whether an S operation opens or closes a loop. -/
def sLoops : SOp → Bool
  | .loop .. | .lend .. => true
  | _ => false

/-- The first failing check of one bundle, the next being `next`. -/
def bundleCheck (w : BitVec 256) (next : Option (BitVec 256)) : Option SealCode :=
  let gret (s : SOp) : Bool := s = .gret
  if w.getLsbD 7 then some .reserved
  else if bundleRep w && bitsN (bundleM w).toNat 47 41 ≠ 0 && !bundleNest w then some .reserved
  else match bundleOps w with
  | .error e => some e
  | .ok o =>
    WellFormed.firstBad true [
      (!(bundleSsel w ≠ 0 && sLoops o.s), .guard),
      (distinctK o, .destination),
      (!(bundleRot w && sRotates o.s), .rotate),
      (!(bundleRep w && bundleNest w), .repeat),
      (!bundleRep w || bundleNest w || w.getLsbD 0 || repeatOk w o.s next, .repeat),
      (!bundleNest w || nestOk w o.v, .nest),
      (w.getLsbD 0 == gret o.s && !(gret o.s && bundleSsel w ≠ 0) && !(bundleRep w && w.getLsbD 0), .ending)]

/-- The bundles of a tile function as the scan reads them; paths end at one that fails its own check. -/
def bundlesOf (ws : List (BitVec 256)) : List Bun :=
  (List.range ws.length).map fun i =>
    let w := ws.getD i 0
    let rep := match i with
      | 0 => 0
      | j + 1 => let p := ws.getD j 0; if bundleRep p then (prefixOf p 0).cnt else 0
    match bundleOps w with
    | .ok o => ⟨w, o, rep⟩
    | .error _ => ⟨0, ⟨.gret, .vnop ⟨0, 0⟩, .mnop ⟨0, 0⟩, .cnop ⟨0, 0⟩, .xnop ⟨0, 0⟩⟩, 0⟩

-- Loops (R231)

/-- A loop: the index of its LOOP bundle, of its first and last body bundle, and its register. -/
structure LoopBody where
  at_ : Nat
  first : Nat
  last : Nat
  n : Nat

/-- The S operation of a bundle by its index. -/
def sAt (bs : List Bun) (i : Nat) : Option SOp := (bs[i]?).map fun b => b.o.s

/-- The loops of a function. -/
def loopsOf (bs : List Bun) : List LoopBody :=
  (List.range bs.length).filterMap fun i =>
    match sAt bs i with
    | some (.loop n _ _ len _) => some ⟨i, i + 1, i + len.toNat, n.toNat⟩
    | _ => none

/-- Whether one body lies in another. -/
def LoopBody.within (a b : LoopBody) : Bool := decide (b.first ≤ a.first) && decide (a.last ≤ b.last) && decide (a.at_ ≠ b.at_)

/-- Whether a bundle lies in a body. -/
def LoopBody.has (l : LoopBody) (i : Int) : Bool := decide ((l.first : Int) ≤ i) && decide (i ≤ (l.last : Int))

/-- Whether a LOOP is formed as R231 asks. -/
def loopOk (bs : List Bun) (ls : List LoopBody) (l : LoopBody) : Bool :=
  (match sAt bs l.last with
    | some (.lend n len) => decide (n.toNat = l.n) && decide (len.toNat = l.last - l.at_)
    | _ => false) &&
  ls.all (fun m => decide (m.last < l.first) || decide (l.last < m.first) || m.within l || l.within m || decide (m.at_ = l.at_)) &&
  decide ((ls.filter fun m => l.within m).length < 4) && !(ls.any fun m => l.within m && decide (m.n = l.n))

/-- The branch distance of an S operation, in bundles. -/
def sTarget : SOp → Option Int
  | .brk off => some (sextN off.toNat 32)
  | .bnzk _ off => some (sextN off.toNat 32)
  | _ => none

/-- Whether the loop structure of a function fails at a bundle (R231). -/
def loopFail (bs : List Bun) (i : Nat) : Bool :=
  let ls := loopsOf bs
  match sAt bs i with
  | some (.loop ..) => ls.any fun l => decide (l.at_ = i) && !loopOk bs ls l
  | some (.lend ..) => !(ls.any fun l => decide (l.last = i))
  | some s => (sTarget s).any fun d => ls.any fun l => l.has (i + d) && !l.has i
  | none => false

-- Landing order (R297, R298)

/-- A point of a path that the scan follows: bundle, ROT bundles passed, back edges taken, and whether rows are still tracked. -/
structure PathPt where
  i : Nat
  rot : Nat
  back : Nat
  rows : Bool
deriving DecidableEq

/-- Whether an S operation writes %vbase or %vrot. -/
def sRebases : SOp → Bool
  | .wrsrk _ n => n = 0x12 || n = 0x13
  | _ => false

/-- The bundles that may follow a bundle: every loop is followed through count 0, through one pass, and across one back edge,
whether its count is stated or in a register (R298 rule 3; log 19). -/
def pathNext (bs : List Bun) (p : PathPt) : List PathPt :=
  match bs[p.i]? with
  | none => []
  | some b =>
    let q := { p with rot := p.rot + (if bundleRot b.w then 1 else 0), rows := p.rows && !sRebases b.o.s }
    let on (i : Int) (back : Nat) : List PathPt := if 0 ≤ i then [{ q with i := i.toNat, back := back }] else []
    let next := on (p.i + 1) p.back
    match b.o.s with
    | .brk off => on (p.i + sextN off.toNat 32) p.back ++ (if bundleSsel b.w = 0 then [] else next)
    | .bnzk _ off => on (p.i + sextN off.toNat 32) p.back ++ next
    | .loop _ _ _ len _ => next ++ on (p.i + len.toNat + 1) p.back
    | .lend _ len => next ++ (if p.back = 0 then on ((p.i : Int) - len.toNat + 1) 1 else [])
    | .gret => []
    | _ => next

/-- The sequencer cycles from a bundle to the next (R297). -/
def pathCycles (b : Bun) : Nat := if bundleNest b.w then nestTotal b.w else 1

/-- The rows, by vector name, that a bundle writes, with least and greatest latency from its issue; of a loop nest, the
iterations `from_` on, `n` of them. -/
def rowWrites (b : Bun) (from_ n : Nat) : List (Nat × Nat × Nat) :=
  if bundleNest b.w then
    match vWrites b.o.v with
    | none => []
    | some (d, l) => (List.range (min n (nestTotal b.w - from_))).map fun j =>
        let i := from_ + j
        (d + nestOff b.w 196 i, l + i, l + i)
  else ((vWrites b.o.v).map fun (d, l) => (d, l, l)).toList ++ mWrites b.rep b.o.m

/-- The k registers whose landing order is checked: the XCU's write is not (R298 rule 2). -/
def kChecked (o : Slots) : List (Nat × Nat) :=
  (sWrites o.s).toList ++ if cWrites o.c = 0 then [] else [(cWrites o.c, 4)]

/-- Whether a later bundle's write lands before an earlier one's to the same destination: `late` holds the earlier bundle's
writes of k registers and rows with the cycles by which they land, counted from δ = 0. -/
def landsBefore (lateK : List (Nat × Nat)) (lateR : List (Nat × Nat × Nat)) (bs : List Bun) (d : Nat) (p : PathPt) : Bool :=
  match bs[p.i]? with
  | none => false
  | some b =>
    (kChecked b.o).any (fun (k, l) => lateK.any fun (k', l') => decide (k = k') && decide (d + l < l')) ||
    (p.rows && (rowWrites b 0 (nestTotal b.w)).any fun (r, l, _) =>
      lateR.any fun (r', _, l') => decide ((r + 128 * 1024 - p.rot) % 128 = r' % 128) && decide (d + l < l'))

/-- The search along paths: `front` holds the points to be looked at with the cycles at which they issue. -/
def landSearch (lateK : List (Nat × Nat)) (lateR : List (Nat × Nat × Nat)) (bs : List Bun) (most : Nat) :
    Nat → Nat → List (Nat × PathPt) → Bool
  | 0, _, _ => false
  | fuel + 1, d, front =>
    if most ≤ d then false
    else
      let now := (front.filter fun x => x.1 = d).map (·.2)
      if now.any (landsBefore lateK lateR bs d) then true
      else
        let new := now.flatMap fun p =>
          match bs[p.i]? with
          | some b => (pathNext bs p).map fun q => (d + pathCycles b, q)
          | none => []
        landSearch lateK lateR bs most fuel (d + 1) ((front.filter fun x => x.1 ≠ d) ++ new).eraseDups

/-- The greatest latency of a bundle's writes. -/
def mostLate (k : List (Nat × Nat)) (r : List (Nat × Nat × Nat)) : Nat :=
  (k.map (·.2) ++ r.map (·.2.2)).foldl max 0

/-- Whether a write of a bundle may land after a later bundle's (R298 rule 1). Of a loop nest, the iterations of the last 128
cycles can have a result in flight at its end, 128 being the greatest latency of a V operation (R260). -/
def landFail (bs : List Bun) (i : Nat) : Bool :=
  match bs[i]? with
  | none => false
  | some b =>
    let p := pathCycles b
    let lateR := if bundleNest b.w then rowWrites b (p - 128) 128 else rowWrites b 0 1
    let lateK := kChecked b.o
    let most := mostLate lateK lateR
    if sRebases b.o.s then landSearch lateK [] bs most most p ((pathNext bs ⟨i, 0, 0, true⟩).map fun q => (p, q))
    else landSearch lateK lateR bs most (most + 1) p ((pathNext bs ⟨i, 0, 0, true⟩).map fun q => (p, q))

-- Functions

/-- The words of a function: `n` bytes each. -/
def wordsOf (x : Scan) (f : Func) (n : Nat) : List Nat :=
  (List.range (f.size / n)).map fun i => codeNum x.code (f.start.toNat + n * i) n

/-- The words of a list scanned in order, `n` bytes each. -/
def scanWords (f : Func) (n : Nat) (one : Nat → Except SealCode Found) : Nat → Nat → Found → Except Reject Found
  | 0, _, acc => .ok acc
  | fuel + 1, i, acc =>
    match one i with
    | .error e => .error ⟨e, f.start.toNat, n * i, acc⟩
    | .ok r => scanWords f n one fuel (i + 1) (acc.add r)

/-- One bundle: its own check, its part in the loop structure, then the landing order of its writes. -/
def scanBundle (f : Func) (ws : List (BitVec 256)) (bs : List Bun) (i : Nat) : Except SealCode Found :=
  let w := ws.getD i 0
  match bundleCheck w ws[i + 1]? with
  | some e => .error e
  | none =>
    if loopFail bs i then .error .loop
    else if landFail bs i then .error .latency
    else
      let a := f.start.toNat + 32 * i
      .ok { clears := if bitsN w.toNat 69 68 = 0 then [] else [a], marks := if bundleMust w then [(a, 0x82)] else [] }

/-- A tile function: its bundles in address order (R318, R319). -/
def scanTile (x : Scan) (f : Func) : Except Reject Found :=
  let ws := (wordsOf x f 32).map (BitVec.ofNat 256)
  scanWords f 32 (scanBundle f ws (bundlesOf ws)) ws.length 0 {}

/-- The branch distance of a stream word, in words (R283). -/
def streamBranch (i : Instr) : Option Int :=
  match i with
  | .pjmp off => some (sextN off.toNat 22)
  | .pbnz _ off => some (sextN off.toNat 14)
  | .pbeq _ _ off => some (sextN off.toNat 14)
  | _ => none

/-- Whether a stream word is PMODE. -/
def isPmode (i : Instr) : Bool :=
  match i with
  | .pmode .. => true
  | _ => false

/-- One stream word of a function (R282, R286). -/
def scanStream (x : Scan) (f : Func) (i : Nat) : Except SealCode Found :=
  let a := f.start.toNat + 4 * i
  match Decode.decodeStream (BitVec.ofNat 32 (codeNum x.code a 4)) with
  | .error e => .error e
  | .ok w =>
    match WellFormed.check w with
    | some e => .error e
    | none =>
      if isPmode w ∧ i ≠ 0 then .error .stream
      else if (streamBranch w).any fun d => decide ((i : Int) + d < 0) || decide (((f.size / 4 : Nat) : Int) ≤ i + d) then .error .branch
      else .ok {}

/-- One function. -/
def scanFunc (x : Scan) (f : Func) : Except Reject Found :=
  if f.kind = 0 then scanWords f 8 (fun i => scanFibre x f (f.start.toNat + 8 * i)) (f.size / 8) 0 {}
  else if f.kind = 1 then scanTile x f
  else scanWords f 4 (scanStream x f) (f.size / 4) 0 {}

/-- Functions in a list, in order. -/
def scanFuncs (x : Scan) : List Func → Found → Except Reject Found
  | [], acc => .ok acc
  | f :: t, acc =>
    match scanFunc x f with
    | .error e => .error { e with found := acc.add e.found }
    | .ok r => scanFuncs x t (acc.add r)

/-- The functions by ascending address. -/
def byAddress (l : List Func) : List Func :=
  l.foldl (fun acc f => (acc.filter fun g => decide (g.start.toNat ≤ f.start.toNat)) ++ f ::
    acc.filter fun g => decide (f.start.toNat < g.start.toNat)) []

/-- Whether a gate record starts a tile function and has a map within the limits of R135 (R311). -/
def gateRecordOk (x : Scan) (g : VAddr × Nat × Nat) : Bool :=
  ((x.funcs ++ x.known).any fun f => decide (f.start = g.1) && decide (f.kind = 1)) && decide (1 ≤ g.2.2) && decide (g.2.2 ≤ 16) &&
    decide (g.2.1 + g.2.2 ≤ x.maps.length) &&
    (slice x.maps g.2.1 g.2.2).all fun e => decide (1 ≤ e.1) && decide (1 ≤ e.2.1) && decide (e.1 + e.2.1 ≤ 256) && decide (e.2.2 < 32)

/-- The address of the first non-zero byte outside every function (R309). -/
def strayAt (x : Scan) : Option Nat :=
  x.code.findSome? fun (a, l) =>
    ((List.range l.length).find? fun i => l.getD i 0 ≠ 0 ∧ (x.funcOf ((a + i : Nat) : Int)).isNone).map (a + ·)

/-- The gate records that the GATE words of the scanned functions name. -/
def gatesNamed (x : Scan) : List Nat :=
  (x.funcs.filter fun f => f.kind = 0).flatMap fun f => (wordsOf x f 8).filterMap fun w =>
    match Decode.decodeFibre (BitVec.ofNat 64 w) with
    | .ok i => gateWord i
    | .error _ => none

/-- The scan of R318: every function in address order, the gate records of `check`, and the bytes outside functions. -/
def scanWith (x : Scan) (check : List (VAddr × Nat × Nat)) : Except Reject Found :=
  match scanFuncs x (byAddress x.funcs) {} with
  | .error e => .error e
  | .ok r =>
    match check.find? fun g => !gateRecordOk x g with
    | some g => .error ⟨.gate, g.1.toNat, 0, r⟩
    | none => match strayAt x with
      | some a => .error ⟨.stray, 0, a, r⟩
      | none => .ok r

/-- The scan of a native image: every gate record is checked, and there are at most 4,096 of them (R135, R311). -/
def scanImage (x : Scan) : Except Reject Found :=
  match scanWith x x.gates with
  | .error e => .error e
  | .ok r => match x.gates[4096]? with
    | some g => .error ⟨.gate, g.1.toNat, 0, r⟩
    | none => .ok r

/-- The scan of translated code: the gate records that it names are checked (R334). -/
def scanTranslated (x : Scan) : Except Reject Found := scanWith x ((gatesNamed x).filterMap fun i => x.gates[i]?)

/-- The code with the hints that the scan clears set to zero (R150): bits [43:42] of a fibre word, [69:68] of a bundle. -/
def clearHints (x : Scan) (r : Found) : Code :=
  r.clears.foldl (fun (c : Code) (a : Nat) =>
    match x.funcOf a with
    | some f =>
      if f.kind = 0 then codePut c a (toBytes 8 ((BitVec.ofNat 64 (codeNum c a 8)) &&& ~~~(3#64 <<< 42)).toNat)
      else codePut c a (toBytes 32 ((BitVec.ofNat 256 (codeNum c a 32)) &&& ~~~(3#256 <<< 68)).toNat)
    | none => c) x.code

end Sys2Proof.Machine
end

