-- ==== Sys2Proof/Machine/Object.lean ====
section
/-!
DEFINITION. Fjobex objects: the ELF64 container, the images of an object, their sections, records and relocations, and the
order in which the loader tries them (R305 to R317).
-/
namespace Sys2Proof.Machine

/-- The bytes of an ASCII name. -/
def ascii (x : String) : List Byte := x.toList.map fun c => BitVec.ofNat 8 c.toNat

/-- A little-endian number of `n` bytes in a list, from offset `o`. -/
def numAt (l : List Byte) (o n : Nat) : Nat := ofBytes (slice l o n)

-- ELF64 (R305)

/-- A section of an object: its index in the section header table, its header's fields, and its bytes. -/
structure Sect where
  idx : Nat
  name : List Byte
  ty : Nat
  flags : Nat
  addr : Nat
  link : Nat
  info : Nat
  ent : Nat
  bytes : List Byte
deriving DecidableEq, Repr

/-- The header fields that R305 names, with a section header table that lies in the file. -/
def elfHeaderOk (l : List Byte) : Bool :=
  decide (64 ≤ l.length) && decide (slice l 0 4 = [0x7F, 0x45, 0x4C, 0x46]) && decide (numAt l 4 1 = 2) && decide (numAt l 5 1 = 1) &&
    decide (numAt l 7 1 = 0) && decide (numAt l 8 1 = 0) && decide (numAt l 16 2 = 3) && decide (numAt l 18 2 = 0xA7D0) &&
    decide (numAt l 48 4 = 0) && decide (numAt l 40 8 ≠ 0) && decide (numAt l 60 2 ≠ 0) && decide (numAt l 58 2 = 64) &&
    decide (numAt l 40 8 + 64 * numAt l 60 2 ≤ l.length) && decide (numAt l 62 2 < numAt l 60 2)

/-- The offset of section header `i`. -/
def shdr (l : List Byte) (i : Nat) : Nat := numAt l 40 8 + 64 * i

/-- Whether R307 lists a section of this name. -/
def listedName (n : List Byte) : Bool :=
  [".note.fjx.version", ".text", ".data", ".rodata", ".bss", ".fjx.funcs", ".fjx.nodes", ".fjx.gates", ".fjx.maps", ".fjx.netslot",
    ".dudon", ".symtab", ".strtab", ".shstrtab"].any (fun x => decide (n = ascii x)) ||
    [".text.", ".overlay.", ".rela."].any fun x => (ascii x).isPrefixOf n

/-- Section `i`, if it is not a listed one (R307) whose bytes pass the end of the file. A section of type SHT_NOBITS holds zeros. -/
def sectionAt (l : List Byte) (i : Nat) : Option Sect :=
  let h := shdr l i
  let names := shdr l (numAt l 62 2)
  let ty := numAt l (h + 4) 4
  let off := numAt l (h + 24) 8
  let size := numAt l (h + 32) 8
  let name := (l.drop (numAt l (names + 24) 8 + numAt l h 4)).takeWhile (· ≠ 0)
  if ty ≠ 0 ∧ ty ≠ 8 ∧ l.length < off + size ∧ listedName name then none
  else
    let bytes := if ty = 0 then [] else if ty = 8 then List.replicate size 0 else slice l off size
    some {
      idx := i, name := name, ty := ty, flags := numAt l (h + 8) 8
      addr := numAt l (h + 16) 8, link := numAt l (h + 40) 4, info := numAt l (h + 44) 4, ent := numAt l (h + 56) 8, bytes := bytes }

/-- The sections of an object, or none for BAD_OBJECT. -/
def sectionsOf (l : List Byte) : Option (List Sect) :=
  if elfHeaderOk l then (List.range (numAt l 60 2)).mapM (sectionAt l) else none

-- Images (R306, R307)

/-- An image of an object: its index among the images, whether its version note is well formed, the note's fields, and its
sections, the note first. -/
structure Img where
  index : Nat
  ok : Bool
  version : Nat
  flags : Nat
  part : List Byte
  sects : List Sect
deriving DecidableEq, Repr

/-- STRICT. -/
def Img.strict (x : Img) : Bool := x.flags.testBit 0
/-- PORTABLE. -/
def Img.portable (x : Img) : Bool := x.flags.testBit 1

/-- The name of a version note's section. -/
def noteName : List Byte := ascii ".note.fjx.version"

/-- The sections before the first version note, and the runs that begin at each. -/
def imageRuns : List Sect → List Sect × List (List Sect)
  | [] => ([], [])
  | x :: t =>
    let (pre, runs) := imageRuns t
    if x.name = noteName then ([], (x :: pre) :: runs) else (x :: pre, runs)

/-- Whether a version note holds one note of R306, with a version and reserved bits of zero. -/
def noteOk (x : Sect) : Bool :=
  let l := x.bytes
  decide (x.ty = 7) && decide (x.flags = 0) && decide (l.length = 36) && decide (numAt l 0 4 = 7) && decide (numAt l 4 4 = 16) &&
    decide (numAt l 8 4 = 1) && decide (slice l 12 8 = ascii "Aedrel" ++ [0, 0]) && decide (numAt l 20 1 ≠ 0) &&
    decide (numAt l 21 1 < 4) && decide (numAt l 22 2 = 0) && decide (numAt l 32 4 = 0)

/-- The image that a run of sections is. -/
def imageOf (index : Nat) (run : List Sect) : Img :=
  match run.head? with
  | some n =>
    { index := index, ok := noteOk n, version := numAt n.bytes 20 1, flags := numAt n.bytes 21 1, part := slice n.bytes 24 8, sects := run }
  | none => { index := index, ok := false, version := 0, flags := 0, part := [], sects := [] }

/-- The images of an object with all its sections, or none for BAD_OBJECT of the whole object (R305, R306). -/
def objectOf (l : List Byte) : Option (List Sect × List Img) :=
  match sectionsOf l with
  | none => none
  | some all =>
    let (pre, runs) := imageRuns all
    let plain (x : Sect) : Bool := decide (x.ty = 0) || [".symtab", ".strtab", ".shstrtab"].any fun n => decide (x.name = ascii n)
    if runs.isEmpty || !pre.all plain then none
    else some (all, (List.range runs.length).map fun i => imageOf i (runs.getD i []))

/-- The part code of this part. -/
def partCode : List Byte := ascii "LSL-96M" ++ [0]
/-- The part code of any part. -/
def anyPart : List Byte := List.replicate 8 0

/-- The images of a list in ascending order of a key, those of one key in the list's order. -/
def sortOn (key : Img → Nat) (l : List Img) : List Img :=
  l.foldr (fun x acc => (acc.takeWhile fun y => decide (key y < key x)) ++ x :: acc.dropWhile fun y => decide (key y < key x)) []

/-- The order in which the loader tries the images (R316), after those whose note is refused. -/
def candidates (l : List Img) : List Img :=
  let good := l.filter (·.ok)
  let native := good.filter fun x => !x.portable
  let any := native.filter fun x => x.part = anyPart
  (l.filter fun x => !x.ok) ++ native.filter (fun x => x.part = partCode) ++ any.filter (fun x => x.version = 4) ++
    sortOn (·.version) (any.filter fun x => 4 < x.version) ++
    sortOn (fun x => 256 - x.version) (any.filter fun x => x.version < 4) ++
    good.filter (fun x => x.portable && (decide (x.part = anyPart) || decide (x.part = partCode)))

-- Sections (R307)

/-- Whether a section has a name. -/
def Sect.is (x : Sect) (n : String) : Bool := decide (x.name = ascii n)
/-- Whether a section's name begins so. -/
def Sect.pre (x : Sect) (n : String) : Bool := (ascii n).isPrefixOf x.name
/-- Whether a section is an overlay (R313). -/
def Sect.overlay (x : Sect) : Bool := x.pre ".overlay."
/-- Whether a section is executable. -/
def Sect.exec (x : Sect) : Bool := x.is ".text" || x.pre ".text." || x.overlay
/-- Whether a section holds data. -/
def Sect.data (x : Sect) : Bool := x.is ".data" || x.is ".rodata" || x.is ".bss"
/-- Whether a section holds relocations. -/
def Sect.rela (x : Sect) : Bool := x.pre ".rela."

/-- Whether a section that R307 lists has the type, the flags and the entry size that it gives; others are ignored. -/
def Sect.formOk (x : Sect) : Bool :=
  let rec_ (ty ent : Nat) : Bool := decide (x.ty = ty) && decide (x.flags = 0) && decide (x.ent = ent) && decide (x.bytes.length % ent = 0)
  if x.overlay then decide (x.ty = 1) && decide (x.flags = 0x10000006)
  else if x.exec then decide (x.ty = 1) && decide (x.flags = 6)
  else if x.is ".data" then decide (x.ty = 1) && decide (x.flags = 3)
  else if x.is ".rodata" then decide (x.ty = 1) && decide (x.flags = 2)
  else if x.is ".bss" then decide (x.ty = 8) && decide (x.flags = 3)
  else if x.is ".fjx.funcs" then rec_ 0x70000A01 16
  else if x.is ".fjx.nodes" then rec_ 0x70000A02 32
  else if x.is ".fjx.gates" then rec_ 0x70000A03 16
  else if x.is ".fjx.maps" then rec_ 0x70000A04 4
  else if x.is ".fjx.netslot" then rec_ 0x70000A05 128
  else if x.is ".dudon" then decide (x.ty = 0x70000A06) && decide (x.flags = 0)
  else if x.rela then rec_ 4 24
  else if x.is ".symtab" then decide (x.ty = 2)
  else if x.is ".strtab" || x.is ".shstrtab" then decide (x.ty = 3)
  else true

/-- The sections that are placed in the context, each on pages of its own, with their addresses (R308). -/
def placeSections : Nat → List Sect → List (Sect × Nat)
  | _, [] => []
  | a, x :: t =>
    if x.exec || x.data then (x, a) :: placeSections (a + 4096 * ceilDiv x.bytes.length 4096) t else placeSections a t

/-- The address after the placed sections. -/
def placedEnd (base : Nat) (l : List (Sect × Nat)) : Nat :=
  match l.getLast? with
  | some (x, a) => a + 4096 * ceilDiv x.bytes.length 4096
  | none => base

-- Relocations (R314, R315)

/-- A relocation: its section's index, its target, its symbol table, and its fields. -/
structure Rel where
  sect : Nat
  target : Sect
  symtab : Sect
  off : Nat
  sym : Nat
  ty : Nat
  add : Int
deriving DecidableEq, Repr

/-- What relocation works on: all sections, the placed ones, the record sections' bytes and the placed bytes by section
index, and the gate records before each gate section. -/
structure Link where
  all : List Sect
  placed : List (Sect × Nat)
  gateBase : FMap Nat
  bytes : FMap (List Byte)

/-- Whether an image's section has contents that relocation may change. -/
def Sect.relocatable (x : Sect) : Bool :=
  x.exec || x.is ".data" || x.is ".rodata" || x.is ".fjx.funcs" || x.is ".fjx.nodes" || x.is ".fjx.gates"

/-- The relocations of one section, or BAD_OBJECT where it names no target or no symbol table; those of a section that R307 does
not list are ignored with it. -/
def relsIn (all : List Sect) (own : List Sect) (x : Sect) : Except LoadOutcome (List Rel) :=
  match List.find? (fun y => decide (y.idx = x.info)) own, all[x.link]? with
  | some t, some st =>
    if !listedName t.name then .ok []
    else if !t.relocatable ∨ st.ty ≠ 2 then .error .badObject
    else .ok ((List.range (x.bytes.length / 24)).map fun i =>
      { sect := x.idx, target := t, symtab := st, off := numAt x.bytes (24 * i) 8, ty := numAt x.bytes (24 * i + 8) 4
        sym := numAt x.bytes (24 * i + 12) 4, add := sextN (numAt x.bytes (24 * i + 16) 8) 64 })
  | _, _ => .error .badObject

/-- The relocations of an image. -/
def relsOf (all own : List Sect) : Except LoadOutcome (List Rel) :=
  (own.filter (·.rela)).foldlM (fun acc x => (relsIn all own x).map (acc ++ ·)) []

/-- The name of a relocation's symbol. -/
def Rel.symbol (r : Rel) (all : List Sect) : List Byte :=
  match all[r.symtab.link]? with
  | some st => (st.bytes.drop (numAt r.symtab.bytes (24 * r.sym) 4)).takeWhile (· ≠ 0)
  | none => []

/-- RELOC_RANGE of a relocation (R315). -/
def Rel.range (r : Rel) (x : Link) : LoadOutcome := .relocRange (r.symbol x.all) r.sect r.off

/-- The section index and value of a relocation's symbol. -/
def Rel.symVal (r : Rel) : Nat × Nat := (numAt r.symtab.bytes (24 * r.sym + 6) 2, numAt r.symtab.bytes (24 * r.sym + 8) 8)

/-- S: the address of a symbol in a placed section, an absolute value, or 0 for no symbol (log 20). -/
def Rel.value (r : Rel) (x : Link) : Except LoadOutcome Int :=
  let (sec, v) := r.symVal
  if r.symtab.bytes.length < 24 * r.sym + 24 then .error .badObject
  else if r.sym = 0 then .ok 0
  else if sec = 0xFFF1 then .ok v
  else match List.find? (fun p => decide (p.1.idx = sec)) x.placed with
    | some (t, a) => .ok ((a : Int) + v - t.addr)
    | none => .error .badObject

/-- The gate-record index of a relocation's symbol (FJX_GATE); its value takes no addend (R314). -/
def Rel.gateIndex (r : Rel) (x : Link) : Except LoadOutcome Int :=
  let (sec, v) := r.symVal
  match List.find? (fun t => decide (t.idx = sec) && t.is ".fjx.gates") x.all, x.gateBase.find? sec with
  | some t, some b =>
    let d : Int := (v : Int) - t.addr
    if d % 16 = 0 then .ok (b + d / 16) else .error (r.range x)
  | _, _ => .error .badObject

/-- The bytes of a section with the field [hi:lo] of the `n`-byte word at an offset replaced. -/
def putField (l : List Byte) (off n hi lo : Nat) (v : Int) : List Byte :=
  let w := numAt l off n
  let old := bitsN w hi lo
  patch l off (toBytes n (w - old * 2 ^ lo + wrapN v (hi + 1 - lo) * 2 ^ lo))

/-- A field written where its value fits, or RELOC_RANGE. -/
def Rel.put (r : Rel) (x : Link) (off n hi lo : Nat) (fits : Bool) (v : Int) : Except LoadOutcome Link :=
  if fits then .ok { x with bytes := x.bytes.set r.target.idx (putField (x.bytes.get r.target.idx []) off n hi lo v) }
  else .error (r.range x)

/-- Whether a number lies in a range. -/
def fitsIn (v lo hi : Int) : Bool := decide (lo ≤ v) && decide (v ≤ hi)

/-- An exact quotient, or RELOC_RANGE. -/
def Rel.quotient (r : Rel) (x : Link) (v : Int) (d : Int) : Except LoadOutcome Int :=
  if v % d = 0 then .ok (v / d) else .error (r.range x)

/-- A relocation of data or of a record (FJX_ABS64, FJX_ABS32). -/
def applyData (x : Link) (r : Rel) : Except LoadOutcome Link := do
  let off := r.off - r.target.addr
  let n := if r.ty = 1 then 8 else 4
  if r.ty = 0 then return x
  else if r.off < r.target.addr ∨ (r.ty ≠ 1 ∧ r.ty ≠ 2) ∨ r.target.bytes.length < off + n then throw .badObject
  else
    let v := (← r.value x) + r.add
    r.put x off n (8 * n - 1) 0 (if r.ty = 1 then fitsIn v 0 (2 ^ 56 - 1) else fitsIn v 0 (2 ^ 32 - 1)) v

/-- The S operation of the bundle at an offset of a section, where it is a LOOP or a LEND: its register, and whether it is a
LEND. Its L need not stand there yet. -/
def loopWord (l : List Byte) (off : Nat) : Option (Nat × Bool) :=
  match Decode.decodeS (Decode.bundleS (BitVec.ofNat 256 (numAt l off 32))) with
  | .ok (.loop n ..) => some (n.toNat, false)
  | .ok (.lend n _) => some (n.toNat, true)
  | _ => none

/-- The offset of the LOOP that a LEND at an offset matches: the nearest before it of the same register (R314). -/
def loopBefore (l : List Byte) (n : Nat) : Nat → Nat → Option Nat
  | 0, _ => none
  | fuel + 1, off => if off < 32 then none else if loopWord l (off - 32) = some (n, false) then some (off - 32) else loopBefore l n fuel (off - 32)

/-- The offset in place of which P stands for FJX_LOOPL: of a LEND its LOOP's, else the bundle's own. -/
def loopPlace (l : List Byte) (off : Nat) : Option Nat :=
  match loopWord l off with
  | some (n, true) => loopBefore l n (off / 32) off
  | some (_, false) => some off
  | none => none

/-- Whether a fibre word has the field that a type names: IMM32 of MOVI, a branch's IMM32, IMM16, or GATE's IMM24 (R314). -/
def fibreField (ty : Nat) : Instr → Bool
  | .movi .. => ty = 3 ∨ ty = 4
  | .bra .. | .call .. => ty = 5
  | .gate .. => ty = 11
  | .rdsr .. | .wrsr .. | .addi .. | .muli .. | .mini .. | .maxi .. | .andi .. | .ori .. | .xori .. | .addi64 .. | .setpi ..
  | .ldGI8 .. | .ldGUi8 .. | .ldGI16 .. | .ldGUi16 .. | .ldGB32 .. | .ldGB64 .. | .ldGB128 .. | .stGB8 .. | .stGB16 ..
  | .stGB32 .. | .stGB64 .. | .stGB128 .. | .hgive .. | .htake .. => ty = 6
  | _ => false

/-- Whether the word or bundle at an offset has the field that a relocation type names: else the relocation targets a field of
another kind (R315). The field's own value need not stand there yet. -/
def namesField (ty : Nat) (l : List Byte) (off : Nat) : Bool :=
  let w : BitVec 64 := BitVec.ofNat 64 (numAt l off 8)
  if hasN [3, 4, 5, 6, 11] ty then
    (Decode.fibreCandidate (w.extractLsb' 58 6).toNat (w.extractLsb' 52 6).toNat (Decode.fibreHdr w) (w.extractLsb' 0 40)).any (fibreField ty)
  else if ty = 7 then
    match Decode.decodeS (Decode.bundleS (BitVec.ofNat 256 (numAt l off 32))) with
    | .ok (.brk _) | .ok (.bnzk ..) => true
    | _ => false
  else match Decode.streamCandidate (BitVec.ofNat 32 (numAt l off 4)) with
    | some (.pjmp _) => ty = 9
    | some (.pbnz ..) | some (.pbeq ..) => ty = 10
    | _ => ty = 8

/-- A relocation of code: the field that its type names in a word of a function of its kind (R314, R315). -/
def applyCode (funcs : List Func) (x : Link) (r : Rel) : Except LoadOutcome Link := do
  if r.ty = 0 then return x
  let off := r.off - r.target.addr
  let l := x.bytes.get r.target.idx []
  let some base := (List.find? (fun p => decide (p.1.idx = r.target.idx)) x.placed).map (·.2) | throw .badObject
  let p : Int := base + off
  let kind := if hasN [3, 4, 5, 6, 11] r.ty then 0 else if hasN [7, 8] r.ty then 1 else 2
  let n := if kind = 0 then 8 else if kind = 1 then 32 else 4
  let some f := List.find? (fun f => decide ((f.start.toNat : Int) ≤ p) && decide (p < ((f.start.toNat + f.size : Nat) : Int))) funcs | throw .badObject
  if r.off < r.target.addr ∨ ¬hasN [3, 4, 5, 6, 7, 8, 9, 10, 11] r.ty ∨ f.kind ≠ kind ∨ (p - f.start.toNat) % n ≠ 0 ∨ l.length < off + n ∨
      !namesField r.ty l off then
    throw .badObject
  if r.ty = 11 then
    let v ← r.gateIndex x
    let total := (x.gateBase.get 0x10000 0 : Nat)
    r.put x off 8 23 0 (fitsIn v 0 4095 && decide (v < total)) v
  else
    let v := (← r.value x) + r.add
    match r.ty with
    | 3 => r.put x off 8 31 0 true v
    | 4 => r.put x off 8 31 0 true (v / 2 ^ 32)
    | 5 => let d ← r.quotient x (v - p) 8; r.put x off 8 31 0 (fitsIn d (-2 ^ 31) (2 ^ 31 - 1)) d
    | 6 => r.put x off 8 15 0 (fitsIn v (-32768) 32767) v
    | 7 => let d ← r.quotient x (v - p) 32; r.put x off 32 67 36 (fitsIn d (-2 ^ 31) (2 ^ 31 - 1)) d
    | 8 =>
      let some o := loopPlace l off | throw .badObject
      let d ← r.quotient x (v - (base + o : Nat)) 32; r.put x off 32 51 36 (fitsIn d 1 65535) d
    | 9 => let d ← r.quotient x (v - p) 4; r.put x off 4 21 0 (fitsIn d (-2 ^ 21) (2 ^ 21 - 1)) d
    | _ => let d ← r.quotient x (v - p) 4; r.put x off 4 13 0 (fitsIn d (-8192) 8191) d

-- Records (R309 to R312)

/-- The relocated bytes of an image's sections of one name, joined. -/
def joined (x : Link) (own : List Sect) (n : String) : List Byte :=
  (own.filter (·.is n)).flatMap fun y => x.bytes.get y.idx []

/-- The records of `n` bytes in a list. -/
def chunks (n : Nat) (l : List Byte) : List (List Byte) := (List.range (l.length / n)).map fun i => slice l (n * i) n

/-- The slot tables of an image, 64 entries each (R300, R312), or NETSLOT_TABLE. -/
def slotTables (l : List Byte) : Except LoadOutcome (List (List Nat)) :=
  let ts := (chunks 128 l).map fun t => (chunks 2 t).map fun e => ofBytes e
  if ts.all fun t => hasN t 0 && t.all (fun e => decide (e ≤ 191)) then .ok ts else .error .netslotTable

/-- A function record (R309), with its slot table. -/
def funcRecord (placed : List (Sect × Nat)) (tables : List (List Nat)) (l : List Byte) : Except LoadOutcome Func :=
  let a := numAt l 0 8
  let size := numAt l 8 4
  let kind := numAt l 12 1
  let win := numAt l 13 1
  let slot := numAt l 14 2
  let n := if kind = 0 then 8 else if kind = 1 then 32 else 4
  let inside := placed.any fun (x, b) => x.exec && decide (b ≤ a) && decide (a + size ≤ b + 4096 * ceilDiv x.bytes.length 4096)
  if 2 < kind ∨ size % n ≠ 0 ∨ a % n ≠ 0 ∨ !inside ∨ tables.length < slot then .error .badObject
  else if (if kind = 0 then win = 0 ∨ 32 < win else win ≠ 0) then .error .badObject
  else if slot ≠ 0 ∧ kind ≠ 0 then .error .netslotTable
  else
    let t := if slot = 0 then [] else tables.getD (slot - 1) []
    .ok { start := BitVec.ofNat 56 a, size := size, kind := kind, win := 8 * win, slots := if t.all (· == 0) then [] else t }

/-- Whether two functions overlap. -/
def overlaps (f g : Func) : Bool :=
  decide (f.start.toNat < g.start.toNat + g.size) && decide (g.start.toNat < f.start.toNat + f.size)

/-- Whether no two functions of a list overlap. -/
def disjoint : List Func → Bool
  | [] => true
  | f :: t => !t.any (overlaps f) && disjoint t

/-- The limits of R27 and R310 on a node record's fields; `none` where they hold. -/
def nodeLimits (funcs : List Func) (l : List Byte) : Option LoadOutcome :=
  let count := numAt l 8 2
  let win := numAt l 10 1
  let nbar := numAt l 11 1
  let timer := numAt l 12 4
  let spm := numAt l 16 4
  match List.find? (fun f => decide (f.start.toNat = numAt l 0 8) && decide (f.kind = 0)) funcs with
  | none => some .badObject
  | some f =>
    if count = 0 ∨ 1024 < count ∨ win = 0 ∨ 32 < win ∨ 16 < nbar ∨ timer < 64 ∨ 1048576 < timer ∨ 524288 < spm ∨ spm % 256 ≠ 0 ∨
      7 < numAt l 20 1 ∨ 1 < numAt l 21 1 ∨ numAt l 22 10 ≠ 0 then some .badObject
    else if 1023 < count ∨ 98304 < count * (8 * win) then some .nodeSize
    else if 8 * win < f.win then some .window
    else none

/-- The node that a record declares. -/
def nodeRecord (l : List Byte) : Node :=
  { entry := BitVec.ofNat 56 (numAt l 0 8), count := numAt l 8 2, timer := numAt l 12 4, win := 8 * numAt l 10 1, spm := numAt l 16 4
    nbar := numAt l 11 1, stage := numAt l 20 1, weights := numAt l 21 1 = 1 }

/-- A gate record: its tile entry, its first map entry and their count. -/
def gateRecord (l : List Byte) : VAddr × Nat × Nat := (BitVec.ofNat 56 (numAt l 0 8), numAt l 8 2, numAt l 10 1)

/-- A map entry: its first register, its count and its descriptor. -/
def mapRecord (l : List Byte) : Nat × Nat × Nat := (numAt l 0 1, numAt l 1 1 + 1, numAt l 2 1)

/-- What the records of a native image say, or its refusal. -/
structure Native where
  funcs : List Func
  nodes : List Node
  gates : List (VAddr × Nat × Nat)
  maps : List (Nat × Nat × Nat)
  link : Link

/-- The gate records before each gate section of an image, and under 0x10000 their number in all. -/
def gateBases (own : List Sect) : FMap Nat :=
  let r := (own.filter (·.is ".fjx.gates")).foldl (fun (acc : FMap Nat × Nat) x => (acc.1.set x.idx acc.2, acc.2 + x.bytes.length / 16)) ([], 0)
  r.1.set 0x10000 r.2

/-- A native image relocated at its placement, with its records checked (R309 to R315). -/
def nativeOf (all : List Sect) (own : List Sect) (placed : List (Sect × Nat)) : Except LoadOutcome Native := do
  if !own.all (·.formOk) then throw .badObject
  let rels ← relsOf all own
  let x : Link :=
    { all := all, placed := placed, gateBase := gateBases own, bytes := own.foldl (fun m y => m.set y.idx y.bytes) [] }
  let x ← (rels.filter fun r => !r.target.exec).foldlM applyData x
  let tables ← slotTables (joined x own ".fjx.netslot")
  let funcs ← (chunks 16 (joined x own ".fjx.funcs")).mapM (funcRecord placed tables)
  if !disjoint funcs then throw .badObject
  let nodes := chunks 32 (joined x own ".fjx.nodes")
  match nodes.findSome? (nodeLimits funcs) with
  | some e => throw e
  | none =>
    let gates := chunks 16 (joined x own ".fjx.gates")
    let maps := chunks 4 (joined x own ".fjx.maps")
    if gates.any (fun g => numAt g 11 5 ≠ 0 || !(funcs.any fun f => decide (f.start.toNat = numAt g 0 8))) ∨
      maps.any (fun m => numAt m 3 1 ≠ 0) then throw .badObject
    else
      let x ← (rels.filter fun r => r.target.exec).foldlM (applyCode funcs) x
      return { funcs := funcs, nodes := nodes.map nodeRecord, gates := gates.map gateRecord, maps := maps.map mapRecord, link := x }

/-- The refusal of an image before its sections are looked at (R306, R316, R317). -/
def versionRefusal (x : Img) : Option LoadOutcome :=
  if !x.ok then some .badObject
  else if !x.portable && decide (x.part = partCode) && decide (x.version ≠ 4) then some .badObject
  else if 4 < x.version ∧ x.strict then some .versionStrict
  else none

/-- The identity of an overlay (R313). -/
def overlayIdentity (note raw relocated : List Byte) : BitVec 384 := sha384 (raw ++ note ++ relocated)

end Sys2Proof.Machine
end

