-- ==== Sys2Proof/Machine/Dudon.lean ====
section
/-!
DEFINITION. Dudon portable code (R323 to R331): the module and its checks, and the translation of a function into native
words. The words that the translator chooses where the manual names none are a DESIGN CHOICE (log 12).
-/
namespace Sys2Proof.Machine

-- The module (R324, R325)

/-- A segment record. -/
structure DSeg where
  off : Nat
  len : Nat
  hot : Bool
  live : List Nat
  count : Nat
  timer : Nat
deriving DecidableEq, Repr

/-- A clause (R328). -/
inductive Clause where
  | next (s : Nat)
  | cond (p st sf : Nat)
  | call (d e s : Nat)
  | callr (d a s : Nat)
  | ret (d : Nat)
  | fin
  | gate (g s : Nat)
deriving DecidableEq, Repr

/-- A segment with its native words and its clause. -/
structure DBody where
  seg : DSeg
  words : List (BitVec 64)
  clause : Clause
deriving DecidableEq, Repr

/-- A tile region: its bundles and its map entries. -/
structure DRegion where
  bundles : List Byte
  maps : List Byte
deriving DecidableEq, Repr

/-- A module: its window, its segments, its entries with EAGER, and its regions. -/
structure Dudon where
  win : Nat
  segs : List DBody
  entries : List (Nat × Bool)
  regions : List DRegion
deriving DecidableEq, Repr

/-- The 40 operand bits and opcode of an operation, its header, and the bytes after it (R326). -/
def opBytes (l : List Byte) : Option (BitVec 64 × List Byte) :=
  match l with
  | a :: b :: t =>
    let (c, t) := if a.getLsbD 6 then (t.head?.getD 0, t.drop 1) else (0, t)
    let (h, t') := if a.getLsbD 7 then (t.head?.getD 0, t.drop 1) else (0, t)
    if 64 ≤ b.toNat ∨ 16 ≤ h.toNat ∨ t'.length < 5 ∨ (a.getLsbD 7 ∧ t.isEmpty) then none
    else
      let w := (a.toNat % 64) * 2 ^ 58 + b.toNat * 2 ^ 52 + bitsN c.toNat 3 0 * 2 ^ 48 + bitsN c.toNat 4 4 * 2 ^ 47 +
        bitsN c.toNat 7 5 * 2 ^ 44 + bitsN h.toNat 1 0 * 2 ^ 42 + bitsN h.toNat 3 2 * 2 ^ 40 + ofBytes (t'.take 5)
      some (BitVec.ofNat 64 w, t'.drop 5)
  | _ => none

/-- Whether an instruction may stand in a Dudon module (R327). -/
def dudonAllows (i : Instr) : Bool :=
  match i with
  | .eret .. | .fend .. | .gate .. => false
  | .trap _ imm => decide (imm.toNat < 0x800000)
  | _ => true

/-- Whether an operation's native word passes the sealer under a window, and stands for an operation that R327 allows. -/
def dudonOp (win : Nat) (w : BitVec 64) : Bool :=
  decide (bitsN w.toNat 63 58 ≠ 0x0C) &&
    (match Decode.decodeFibre w with
      | .ok i => dudonAllows i && (WellFormed.check i).isNone && (WellFormed.spans i).all fun p => decide (p.1 + p.2 ≤ win)
      | .error _ => false)

/-- The limits on a module that its clauses are checked against. -/
structure DLimits where
  win : Nat
  nseg : Nat
  nent : Nat
  nreg : Nat

/-- The clause in the bytes after 0xFF (R328), if it ends the segment there. -/
def clauseOf (m : DLimits) (l : List Byte) : Option Clause :=
  let pair (d : Nat) : Bool := decide (d % 2 = 0) && decide (2 ≤ d) && decide (d + 2 ≤ m.win)
  let ok (n : Nat) (b : Bool) (c : Clause) : Option Clause := if l.length = n + 1 ∧ b then some c else none
  let seg (o : Nat) : Nat := numAt l o 4
  match numAt l 0 1 with
  | 0 => ok 4 (seg 1 < m.nseg) (.next (seg 1))
  | 1 => ok 9 (numAt l 1 1 < 16 && seg 2 < m.nseg && seg 6 < m.nseg) (.cond (numAt l 1 1) (seg 2) (seg 6))
  | 2 => ok 9 (pair (numAt l 1 1) && seg 2 < m.nent && seg 6 < m.nseg) (.call (numAt l 1 1) (seg 2) (seg 6))
  | 3 => ok 6 (pair (numAt l 1 1) && numAt l 2 1 < m.win && seg 3 < m.nseg) (.callr (numAt l 1 1) (numAt l 2 1) (seg 3))
  | 4 => ok 1 (pair (numAt l 1 1)) (.ret (numAt l 1 1))
  | 5 => ok 0 true .fin
  | 6 => ok 6 (numAt l 1 2 < m.nreg && seg 3 < m.nseg) (.gate (numAt l 1 2) (seg 3))
  | _ => none

/-- The operations and the clause of a segment's bytes; `fuel` bounds the operations. -/
def bodyOf (m : DLimits) : Nat → List Byte → List (BitVec 64) → Option (List (BitVec 64) × Clause)
  | 0, _, _ => none
  | fuel + 1, l, acc =>
    match l with
    | [] => none
    | a :: t =>
      if a = 0xFF then (clauseOf m t).map fun c => (acc, c)
      else match opBytes l with
        | some (w, rest) => if dudonOp m.win w then bodyOf m fuel rest (acc ++ [w]) else none
        | none => none

/-- A segment record with its body (R325 to R328). -/
def segmentOf (m : DLimits) (code : List Byte) (l : List Byte) : Option DBody :=
  let off := numAt l 0 4
  let len := numAt l 4 4
  let hot := numAt l 8 1 = 1
  let n := numAt l 9 1
  let live := (slice l 10 n).map (·.toNat)
  let x : DSeg := { off := off, len := len, hot := hot, live := live, count := numAt l 16 2, timer := numAt l 20 4 }
  let fine := decide (numAt l 8 1 < 2) && decide (n ≤ 6) && live.all (fun r => decide (r < m.win)) &&
    (slice l (10 + n) (6 - n)).all (· == 0) && decide (numAt l 18 2 = 0) && decide (off + len ≤ code.length) &&
    (if hot then decide (1 ≤ x.count) && decide (x.count ≤ 1023) && decide (64 ≤ x.timer) && decide (x.timer ≤ 1048576)
     else decide (n = 0))
  if fine then (bodyOf m (len + 1) (slice code off len) []).map fun (w, c) => ⟨x, w, c⟩ else none

/-- A region record with its bundles and map entries. -/
def regionOf (all l : List Byte) : Option DRegion :=
  let off := numAt l 0 4
  let len := numAt l 4 4
  let n := numAt l 8 1
  if len % 32 ≠ 0 ∨ n = 0 ∨ 16 < n ∨ numAt l 9 7 ≠ 0 ∨ all.length < off + len + 4 * n then none
  else some { bundles := slice all off len, maps := slice all (off + len) (4 * n) }

/-- The segments that may follow a clause within its function (R325). -/
def Clause.succs : Clause → List Nat
  | .next s => [s]
  | .cond _ st sf => [st, sf]
  | .call _ _ s | .callr _ _ s | .gate _ s => [s]
  | .ret _ | .fin => []

/-- The segments reachable from a list of segments. -/
def reach (segs : List DBody) : Nat → List Nat → List Nat → List Nat
  | 0, _, seen => seen
  | _, [], seen => seen
  | fuel + 1, n :: t, seen =>
    if hasN seen n then reach segs fuel t seen
    else reach segs fuel (t ++ ((segs[n]?).map fun b => b.clause.succs).getD []) (seen ++ [n])

/-- The segments of an entry's function, its entry segment first (R325). -/
def functionOf (d : Dudon) (e : Nat) : List Nat :=
  match d.entries[e]? with
  | some (n, _) => reach d.segs (3 * d.segs.length + 2) [n] []
  | none => []

/-- Whether a segment is HOT. -/
def Dudon.hot (d : Dudon) (n : Nat) : Bool := ((d.segs[n]?).map fun b => b.seg.hot).getD false

/-- Whether no static CALL names an entry whose function holds a HOT segment (R330). -/
def callsOk (d : Dudon) : Bool :=
  d.segs.all fun b => match b.clause with
    | .call _ e _ => !(functionOf d e).any d.hot
    | _ => true

/-- The module of a `.dudon` section; none where it is rejected (R324 to R328, R330). -/
def dudonOf (l : List Byte) : Option Dudon :=
  let m : DLimits := { win := 8 * numAt l 5 1, nseg := numAt l 8 4, nent := numAt l 12 4, nreg := numAt l 16 4 }
  let segoff := numAt l 20 4
  let entoff := numAt l 24 4
  let regoff := numAt l 28 4
  let codeoff := numAt l 32 4
  let codelen := numAt l 36 4
  if l.length < 64 ∨ numAt l 0 4 ≠ 0x4E445544 ∨ numAt l 4 1 ≠ 1 ∨ m.win < 8 ∨ 248 < m.win ∨ numAt l 6 2 ≠ 0 ∨ m.nseg = 0 ∨
    1048576 < m.nseg ∨ m.nent = 0 ∨ 1048576 < m.nent ∨ 4096 < m.nreg ∨ ¬(slice l 40 24).all (· == 0) ∨
    l.length < segoff + 24 * m.nseg ∨ l.length < entoff + 8 * m.nent ∨ l.length < regoff + 16 * m.nreg ∨ l.length < codeoff + codelen
  then none
  else
    let ents := chunks 8 (slice l entoff (8 * m.nent))
    if ents.any fun e => decide (m.nseg ≤ numAt e 0 4) || decide (1 < numAt e 4 1) || decide (numAt e 5 3 ≠ 0) then none
    else
      match (chunks 24 (slice l segoff (24 * m.nseg))).mapM (segmentOf m (slice l codeoff codelen)),
        (chunks 16 (slice l regoff (16 * m.nreg))).mapM (regionOf l) with
      | some segs, some regions =>
        let d : Dudon := { win := m.win, segs := segs, entries := ents.map fun e => (numAt e 0 4, numAt e 4 1 = 1), regions := regions }
        if callsOk d then some d else none
      | _, _ => none

-- Translation (R330 to R332)

/-- A native word by its opcode, guard and operand fields. -/
def nativeWord (maj mi gp d sa sb low : Nat) : BitVec 64 :=
  Decode.packFibre maj mi ⟨BitVec.ofNat 4 gp, 0, 0, 0, 0⟩ (BitVec.ofNat 8 d ++ BitVec.ofNat 8 sa ++ BitVec.ofNat 8 sb ++ BitVec.ofNat 16 low)

/-- MOVI of a 32-bit number. -/
def nMovi (d v : Nat) : BitVec 64 := nativeWord 0x05 0x01 0 d (bitsN v 31 24) (bitsN v 23 16) (bitsN v 15 0)
/-- MOVI of the two halves of an address. -/
def nMoviPair (d v : Nat) : List (BitVec 64) := [nMovi d (bitsN v 31 0), nMovi (d + 1) (bitsN v 63 32)]
/-- MOV of one register. -/
def nMov (d a : Nat) : BitVec 64 := nativeWord 0x05 0x00 0 d a 0 0
/-- FEND. -/
def nFend : BitVec 64 := nativeWord 0x00 0x07 0 0 0 0 0
/-- TRAP. -/
def nTrap (imm : Nat) : BitVec 64 := nativeWord 0x00 0x01 0 0 0 (bitsN imm 23 16) (bitsN imm 15 0)
/-- BRA from an address to another, under a guard. -/
def nBra (gp at_ dest : Nat) : BitVec 64 :=
  let v := wrapN (((dest : Int) - at_) / 8) 32
  nativeWord 0x0C 0x00 gp 0 (bitsN v 31 24) (bitsN v 23 16) (bitsN v 15 0)

/-- The words after the address of a call-table word stands in gW + 2 and gW + 3: the load and CALLX (R331). -/
def nCall (w d : Nat) : List (BitVec 64) := [nativeWord 0x0F 0x05 0 (w + 2) (w + 2) 0 0, nativeWord 0x0C 0x03 0 d (w + 2) 0 0]

/-- G2P of gW + 4 into every predicate, with the mask in gW + 5. -/
def nRestore (w : Nat) : List (BitVec 64) := [nMovi (w + 5) 0xFFFE, nativeWord 0x06 0x02 0 0 (w + 4) (w + 5) 0]

/-- Where a function's segments, and the prologues of its HOT segments, stand. -/
structure DPlace where
  seg : FMap Nat
  pro : FMap Nat

/-- The words that pass to a successor at an address: a branch, or a spawn of its node and the fibre's end (R330). -/
def toSuccessor (d : Dudon) (p : DPlace) (at_ n : Nat) : List (BitVec 64) :=
  match d.segs[n]? with
  | some b =>
    if b.seg.hot then
      (List.range b.seg.live.length).map (fun i => nMov (d.win + 2 + i) (b.seg.live.getD i 0)) ++
        nMoviPair d.win (p.pro.get n 0) ++
        [nativeWord 0x0E 0x00 0 0 d.win (if b.seg.live.isEmpty then 0 else d.win + 2) b.seg.live.length, nFend]
    else [nBra 0 at_ (p.seg.get n 0)]
  | none => []

/-- The words of a clause at an address (R329 to R331). -/
def clauseWords (d : Dudon) (ct : Nat) (p : DPlace) (at_ : Nat) (c : Clause) : List (BitVec 64) :=
  let w := d.win
  let then_ (l : List (BitVec 64)) (s : Nat) : List (BitVec 64) := l ++ toSuccessor d p (at_ + 8 * l.length) s
  match c with
  | .next s => toSuccessor d p at_ s
  | .cond pr st sf =>
    let no := toSuccessor d p (at_ + 8) sf
    let here := at_ + 8 + 8 * no.length
    if d.hot st then nBra pr at_ here :: no ++ toSuccessor d p here st else nBra pr at_ (p.seg.get st 0) :: no
  | .call dd e s => then_ (nMoviPair (w + 2) (ct + 8 * e) ++ nCall w dd) s
  | .callr dd a s =>
    let good := at_ + 8 * 8
    then_ ([nativeWord 0x06 0x01 0 (w + 4) 0 0 0, nMovi (w + 5) d.entries.length, nativeWord 0x05 0x02 0 1 a (w + 5) 0x0A,
      nBra 1 (at_ + 24) good] ++ nRestore w ++ [nTrap 0x900000, nFend] ++ nRestore w ++ nMoviPair (w + 2) ct ++
      [nativeWord 0x04 0x11 0 (w + 2) (w + 2) a 0x0B] ++ nCall w dd) s
  | .ret dd => [nativeWord 0x0C 0x04 0 0 dd 0 0]
  | .fin => [nFend]
  | .gate g s => then_ [nativeWord 0x18 0x00 0 0 0 0 g] s

/-- The words of a segment at an address. -/
def segmentWords (d : Dudon) (ct : Nat) (p : DPlace) (at_ n : Nat) : List (BitVec 64) :=
  match d.segs[n]? with
  | some b => b.words ++ clauseWords d ct p (at_ + 8 * b.words.length) b.clause
  | none => []

/-- The words with which the fibre of a HOT segment's node begins: its arguments move into the live-in registers (R330). -/
def prologueWords (d : Dudon) (p : DPlace) (at_ n : Nat) : List (BitVec 64) :=
  match d.segs[n]? with
  | some b =>
    let k := b.seg.live.length
    let l := (List.range k).map (fun i => nMov (d.win + 2 + i) (1 + i)) ++ (List.range k).map (fun i => nMovi (1 + i) 0) ++
      (List.range k).map fun i => nMov (b.seg.live.getD i 0) (d.win + 2 + i)
    l ++ [nBra 0 (at_ + 8 * l.length) (p.seg.get n 0)]
  | none => []

/-- Addresses handed out in a row, by the lengths in words that the items take. -/
def rowOf (len : Nat → Nat) : Nat → List Nat → FMap Nat × Nat
  | a, [] => ([], a)
  | a, n :: t => let (m, e) := rowOf len (a + 8 * len n) t; (m.set n a, e)

/-- A translated function: its code, its function records, the node records of its HOT successors, and its gate records by
region with the region's map entries. -/
structure Translated where
  code : List Byte
  funcs : List Func
  nodes : List Node
  gates : List (Nat × VAddr × List Byte)

/-- The region whose gate a clause passes. -/
def Clause.region : Clause → Option Nat
  | .gate g _ => some g
  | _ => none

/-- The regions that a function's clauses name, in ascending order without repeats. -/
def regionsUsed (d : Dudon) (segs : List Nat) : List Nat :=
  (segs.filterMap fun n => (d.segs[n]?).bind fun b => b.clause.region).foldl insN []

/-- The tile functions of regions from an address on, each on a multiple of 32. -/
def placeRegions (d : Dudon) : Nat → List Nat → List (Nat × Nat × DRegion)
  | _, [] => []
  | a, g :: t =>
    match d.regions[g]? with
    | some r => (g, a, r) :: placeRegions d (a + r.bundles.length) t
    | none => placeRegions d a t

/-- The translation of entry `e` at a page of the pool, `ct` being the call table (R330 to R332). Every segment has an address
of its own, the entry segment the first; the node of a HOT successor enters at its prologue. -/
def translateEntry (d : Dudon) (ct e a : Nat) : Translated :=
  let segs := functionOf d e
  let none_ : DPlace := ⟨[], []⟩
  let (sp, e1) := rowOf (fun n => (segmentWords d ct none_ 0 n).length) a segs
  let hots := segs.filter fun n => d.hot n && segs.any fun m => ((d.segs[m]?).map fun b => hasN b.clause.succs n).getD false
  let (pp, e2) := rowOf (fun n => (prologueWords d none_ 0 n).length) e1 hots
  let p : DPlace := ⟨sp, pp⟩
  let words := (segs.flatMap fun n => segmentWords d ct p (sp.get n 0) n) ++ hots.flatMap fun n => prologueWords d p (pp.get n 0) n
  let t0 := 32 * ceilDiv e2 32
  let regs := placeRegions d t0 (regionsUsed d segs)
  let fn (a n kind win : Nat) : Func := { start := BitVec.ofNat 56 a, size := n, kind := kind, win := win }
  let b (n : Nat) : DSeg := ((d.segs[n]?).map (·.seg)).getD ⟨0, 0, true, [], 1, 64⟩
  { code := words.flatMap (fun w => toBytes 8 w.toNat) ++ List.replicate (t0 - e2) 0 ++ regs.flatMap fun r => r.2.2.bundles
    funcs := fn a (e1 - a) 0 (d.win + 8) ::
      hots.map (fun n => fn (pp.get n 0) (8 * (prologueWords d p 0 n).length) 0 (d.win + 8)) ++
      regs.map fun r => fn r.2.1 r.2.2.bundles.length 1 0
    nodes := hots.map fun n => { entry := BitVec.ofNat 56 (pp.get n 0), count := (b n).count, timer := (b n).timer, win := d.win + 8 }
    gates := regs.map fun r => (r.1, BitVec.ofNat 56 r.2.1, r.2.2.maps) }

end Sys2Proof.Machine
end

