-- ==== Sys2Proof/Machine/Loader.lean ====
section
/-!
DEFINITION. The loader and the sealing engine at work: placing the images of an object, sealing or refusing them, load
reports, portable images, seal requests, resident overlays and unloading (R308, R311, R313, R316 to R323, R331 to R334,
R383).
-/
namespace Sys2Proof.Machine

-- Leaves (R308, R380, R383)

/-- The address and value of a page's plain level-3 leaf. -/
def leafFrom (s : State) (ctx va : Nat) : Nat → Nat → Nat → Option (Nat × Nat)
  | 0, _, _ => none
  | fuel + 1, table, level =>
    let a := table + 8 * (va / 2 ^ (45 - 11 * level) % 2048)
    match physWord s ctx a with
    | none => none
    | some e =>
      if !e.testBit 0 then none
      else if e.testBit 1 then (if level = 3 ∧ ¬e.testBit 6 ∧ ¬e.testBit 7 then some (a, e) else none)
      else leafFrom s ctx va fuel (e % 2 ^ 52 / 2 ^ 14 * 2 ^ 14) (level + 1)

/-- The leaf of a page in the tables of a context. -/
def leafAt (s : State) (ctx va : Nat) : Option (Nat × Nat) := leafFrom s ctx va 4 (devBits s (offCX ctx 0) 51 14 * 2 ^ 14) 0

/-- The frame that a leaf maps. -/
def leafFrame (e : Nat) : Nat := e % 2 ^ 52 / 4096

/-- A leaf with its RD, WR, EX and SEAL flags. -/
def withFlags (e : Nat) (rd wr ex sl : Bool) : Nat :=
  e - bitsN e 5 2 * 4 + (rd.toNat * 4 + wr.toNat * 8 + ex.toNat * 16 + sl.toNat * 32)

/-- A page's leaf is rewritten by a strong read-modify-write, and its cached translation dropped (R383). -/
def setLeaf (s : State) (ctx va : Nat) (f : Nat → Nat) : State :=
  match leafAt s ctx va with
  | none => s
  | some (a, e) =>
    let s := physWrite s ctx ctx a (toBytes 8 (f e))
    { s with tlb := s.tlb.filter fun t => !(decide (t.ctx = ctx) && decide (t.page = va / 4096)) }

/-- The addresses of the pages of `n` bytes from an address on. -/
def codePages (a n : Nat) : List Nat := (List.range (ceilDiv n 4096)).map fun i => a + 4096 * i

/-- Bytes placed from a page on, padded with zeros, under flags (R308). -/
def placeBytes (s : State) (ctx a : Nat) (bytes : List Byte) (wr ex : Bool) : State :=
  (List.range (ceilDiv bytes.length 4096)).foldl (fun s i =>
    let va := a + 4096 * i
    match leafAt s ctx va with
    | none => s
    | some (_, e) =>
      let l := slice bytes (4096 * i) 4096
      let s := physWrite s ctx (e / 2 ^ 58) (leafFrame e * 4096) (l ++ List.replicate (4096 - l.length) 0)
      setLeaf s ctx va fun e => withFlags e true wr ex false) s

/-- Bytes stored by the part at a virtual address within placed pages. -/
def putBytes (s : State) (ctx va : Nat) (bytes : List Byte) : State :=
  match leafAt s ctx va with
  | none => s
  | some (_, e) => physWrite s ctx (e / 2 ^ 58) (leafFrame e * 4096 + va % 4096) bytes

/-- The bytes of a page; POISON reads as no code. -/
def pageBytes (s : State) (ctx va : Nat) : List Byte :=
  match leafAt s ctx va with
  | some (_, e) => (physRead s (e / 2 ^ 58) (leafFrame e * 4096) 4096).getD []
  | none => []

/-- The code of a run of pages. -/
def runBytes (s : State) (ctx a n : Nat) : List Byte := (codePages a n).flatMap fun va => pageBytes s ctx va

/-- Pages that are given back: data pages again, with no seal (R318 step 4, R313). -/
def freePages (s : State) (ctx : Nat) (pages : List Nat) : State :=
  pages.foldl (fun s va =>
    match leafAt s ctx va with
    | none => s
    | some (_, e) => setLeaf { s with seals := s.seals.del (leafFrame e) } ctx va fun e => withFlags e true true false false) s

/-- The seal of the pages of scanned code: cleared hints stored, marks recorded, and SEAL set in every leaf (R318 step 3). -/
def sealRuns (s : State) (ctx : Nat) (x : Scan) (r : Found) : State :=
  let done := clearHints x r
  done.foldl (fun s (a, bytes) =>
    (List.range (ceilDiv bytes.length 4096)).foldl (fun s i =>
      let va := a + 4096 * i
      match leafAt s ctx va with
      | none => s
      | some (_, e) =>
        let l := slice bytes (4096 * i) 4096
        let s := if pageBytes s ctx va = l then s else physWrite s ctx (e / 2 ^ 58) (leafFrame e * 4096) l
        let here := (r.marks.map (·.1)).filter fun m => decide (va ≤ m) && decide (m < va + 4096)
        let s := { s with seals := s.seals.set (leafFrame e) { ctx := ctx, marks := here.map (· % 4096) } }
        setLeaf s ctx va fun e => withFlags e true false true true) s) s

-- Overlays (R313)

/-- A resident overlay of a context by its identity, its frames still sealed. -/
def residentOverlay (s : State) (ctx : Nat) (id : BitVec 384) : Option Overlay :=
  s.overlays.find? fun o => decide (o.ctx = ctx) && decide (o.identity = id) &&
    o.frames.all fun f => (s.seals.find? f).any fun m => decide (m.ctx = ctx) && decide (m.overlay = some id)

/-- The pages of a resident overlay mapped from an address on, with the leaves as they were. -/
def mapOverlay (s : State) (ctx a : Nat) (o : Overlay) : State × List (Nat × Nat) :=
  (List.range o.frames.length).foldl (fun (acc : State × List (Nat × Nat)) i =>
    let (s, old) := acc
    let va := a + 4096 * i
    match leafAt s ctx va with
    | none => (s, old)
    | some (_, e) =>
      (setLeaf s ctx va fun e => withFlags (e - leafFrame e * 4096 + o.frames.getD i 0 * 4096) true false true true, old ++ [(va, e)])) (s, [])

/-- Leaves put back as they were. -/
def unswap (s : State) (ctx : Nat) (old : List (Nat × Nat)) : State := old.foldl (fun s (va, e) => setLeaf s ctx va fun _ => e) s

-- Placing a candidate

/-- Whether every page of a range has a plain leaf in the context. -/
def allMapped (s : State) (ctx a e : Nat) : Bool := (codePages a (e - a)).all fun va => (leafAt s ctx va).isSome

/-- The mapped pages from an address on, at most `fuel` of them. -/
def mappedEnd (s : State) (ctx : Nat) : Nat → Nat → Nat
  | 0, a => a
  | fuel + 1, a => if (leafAt s ctx a).isSome then mappedEnd s ctx fuel (a + 4096) else a

/-- One section placed (R308, R313): the state, its run of code if it is executable, and the leaves it replaced. -/
def placeSection (s : State) (ctx : Nat) (note : List Byte) (x : Sect) (a : Nat) (bytes : List Byte) :
    State × List (Nat × Nat × Option (BitVec 384) × Bool) × List (Nat × Nat) :=
  let n := 4096 * ceilDiv bytes.length 4096
  if x.overlay then
    let id := overlayIdentity note x.bytes bytes
    match residentOverlay s ctx id with
    | some o => let (s, old) := mapOverlay s ctx a o; (s, [(a, n, some id, true)], old)
    | none => (placeBytes s ctx a bytes false true, [(a, n, some id, false)], [])
  else if x.exec then (placeBytes s ctx a bytes false true, [(a, n, none, false)], [])
  else (placeBytes s ctx a bytes (!x.is ".rodata") false, [], [])

/-- The placed sections of an image in the context. -/
def placeAll (s : State) (ctx : Nat) (note : List Byte) (link : Link) :
    State × List (Nat × Nat × Option (BitVec 384) × Bool) × List (Nat × Nat) :=
  link.placed.foldl (fun acc (x, a) =>
    let (s, runs, old) := acc
    let (s, r, o) := placeSection s ctx note x a (link.bytes.get x.idx [])
    (s, runs ++ r, old ++ o)) (s, [], [])

/-- The pages of an image that are not those of an overlay. -/
def ownPages (link : Link) (end_ a : Nat) : List Nat :=
  (link.placed.filter fun p => !p.1.overlay).flatMap (fun (x, a) => codePages a x.bytes.length) ++ codePages a (end_ - a)

/-- A native candidate placed at an address (R308, R311, R313). -/
def placeNative (s : State) (ctx base : Nat) (all : List Sect) (x : Img) : Except LoadOutcome (State × Placed) := do
  let placed := placeSections base x.sects
  let n ← nativeOf all x.sects placed
  let gtab := placedEnd base placed
  let table := joined n.link x.sects ".fjx.gates" ++ joined n.link x.sects ".fjx.maps"
  let end_ := gtab + 4096 * ceilDiv table.length 4096
  if !allMapped s ctx base end_ then throw .unplaced
  let note := (x.sects.head?.map (·.bytes)).getD []
  let (s, runs, old) := placeAll s ctx note n.link
  let s := placeBytes s ctx gtab table false false
  return (s, { index := x.index, version := x.version, code := runs, swaps := old, image :=
    { ctx := ctx, funcs := n.funcs, nodes := n.nodes, gates := n.gates, maps := n.maps, gtab := BitVec.ofNat 56 gtab
      pages := ownPages n.link end_ gtab } })

/-- The stub word of entry `e` (R331). -/
def stubWord (e : Nat) : Nat := 0x0010000000800000 + e

/-- A portable candidate placed at an address, with what the loader allocates for it (R323, R331). Every stub is a fibre function of
window W + 8, which a launch or node of a portable entry must have (R329). -/
def placePortable (s : State) (ctx base : Nat) (all : List Sect) (x : Img) : Except LoadOutcome (State × Placed) := do
  let placed := placeSections base x.sects
  let n ← nativeOf all x.sects placed
  let own := x.sects.filter fun y => y.is ".dudon"
  let [dud] := own | throw .badObject
  let some d := dudonOf dud.bytes | throw .badObject
  if x.sects.any (fun y => y.exec || listedName y.name && (ascii ".fjx.").isPrefixOf y.name) then throw .badObject
  let k := d.entries.length
  let up (a len : Nat) : Nat := a + 4096 * ceilDiv len 4096
  let ct := placedEnd base placed
  let stub := up ct (8 * k)
  let ts := up stub (8 * k)
  let gt := up ts (16 * k)
  let pool := up gt (80 * d.regions.length)
  if !allMapped s ctx base pool then throw .unplaced
  let (s, _, _) := placeAll s ctx [] n.link
  let poolEnd := mappedEnd s ctx 4096 pool
  let s := placeBytes s ctx pool (List.replicate (poolEnd - pool) 0) true false
  let s := placeBytes s ctx ct ((List.range k).flatMap fun e => toBytes 8 (stub + 8 * e)) true false
  let s := placeBytes s ctx stub ((List.range k).flatMap fun e => toBytes 8 (stubWord e)) false true
  let s := placeBytes s ctx ts (List.replicate (16 * k) 0) true false
  let s := placeBytes s ctx gt (List.replicate (80 * d.regions.length) 0) true false
  let p : Portable :=
    { section_ := dud.bytes, ct := ct, stub := stub, ts := ts, pool := pool, next := pool, poolEnd := poolEnd }
  return (s, { index := x.index, version := x.version, code := [(stub, up stub (8 * k) - stub, none, false)], image :=
    { ctx := ctx, funcs := (List.range k).map fun e => { start := BitVec.ofNat 56 (stub + 8 * e), size := 8, kind := 0, win := d.win + 8 }
      gates := List.replicate d.regions.length (0, 0, 0), maps := List.replicate (16 * d.regions.length) (0, 0, 0)
      gtab := BitVec.ofNat 56 gt, pages := ownPages n.link pool ct ++ codePages pool (p.poolEnd - pool), portable_ := some p } })

/-- The report of an image refused by the loader. -/
def refusedReport (x : Img) (e : LoadOutcome) : ImageReport :=
  { index := x.index, version := x.version, outcome := e }

/-- The loader goes on with a load: the next candidate that passes its checks is placed and handed to the sealing engine;
where none is left the load ends with NO_IMAGE (R316). -/
def tryNext (all : List Sect) (imgs : List Img) (j : LoadJob) : List Nat → List ImageReport → State → State
  | [], rep, s =>
    { s with
      loads := s.loads.drop 1
      reports := s.reports ++ [{ ctx := j.ctx, result := .noImage, images := rep }] }
  | i :: t, rep, s =>
    match imgs[i]? with
    | none => tryNext all imgs j t rep s
    | some x =>
      let r : Except LoadOutcome (State × Placed) := match versionRefusal x with
        | some e => .error e
        | none => if x.portable then placePortable s j.ctx j.base all x else placeNative s j.ctx j.base all x
      match r with
      | .ok (s, p) => { s with loads := { j with todo := t, placed := some p, report := rep } :: s.loads.drop 1 }
      | .error e => tryNext all imgs j t (rep ++ [refusedReport x e]) s

/-- The load at the head of the list begins or goes on. -/
def advanceLoad (s : State) : State :=
  match s.loads.head? with
  | none => s
  | some j =>
    match objectOf j.file with
    | none => { s with loads := s.loads.drop 1, reports := s.reports ++ [{ ctx := j.ctx, result := .badObject }] }
    | some (all, imgs) => tryNext all imgs j j.todo j.report s

/-- LOAD_OBJECT (R305, R306, R316): a load of an object into pages that the driver has mapped; loads are served one after
another (R313). -/
def execLoadObject (ctx base : Nat) (file : List Byte) (s : State) : Out :=
  let todo := match objectOf file with
    | some (_, imgs) => (candidates imgs).map (·.index)
    | none => []
  let idle := s.loads.isEmpty
  let s := { s with loads := s.loads ++ [{ ctx := ctx % 64, base := base / 4096 * 4096, file := file, todo := todo }] }
  .next (if idle then advanceLoad s else s)

-- Sealing (R318, R323)

/-- The scan of a placed candidate: its code as it stands in memory, and the functions of resident overlays as known. -/
def placedScan (s : State) (p : Placed) : Scan :=
  let runs := p.code.filter fun r => !r.2.2.2
  let inRun (f : Func) : Bool := runs.any fun r => decide (r.1 ≤ f.start.toNat) && decide (f.start.toNat < r.1 + r.2.1)
  { code := runs.map fun r => (r.1, runBytes s p.image.ctx r.1 r.2.1)
    funcs := p.image.funcs.filter inRun, known := p.image.funcs.filter fun f => !inRun f
    gates := p.image.gates, maps := p.image.maps }

/-- The frames of a run of pages. -/
def framesOf (s : State) (ctx a n : Nat) : List Nat := (codePages a n).map fun va => ((leafAt s ctx va).map fun x => leafFrame x.2).getD 0

/-- The overlays of a candidate whose pages were sealed just now. -/
def newOverlays (s : State) (p : Placed) : List Overlay :=
  p.code.filterMap fun r => match r.2.2.1, r.2.2.2 with
    | some id, false => some { ctx := p.image.ctx, identity := id, frames := framesOf s p.image.ctx r.1 r.2.1 }
    | _, _ => none

/-- The gate records of a translated function in an image, each at its region's index, its map entries after the table. -/
def addGates (i : Image) (l : List (Nat × VAddr × List Byte)) : Image :=
  l.foldl (fun i (g, a, m) => { i with
    gates := i.gates.set g (a, 16 * g, m.length / 4)
    maps := patch i.maps (16 * g) ((chunks 4 m).map mapRecord) }) i

/-- The stores of a gate record and its map entries (R311, R323). -/
def storeGate (s : State) (ctx gt nreg : Nat) (g : Nat) (a : VAddr) (m : List Byte) : State :=
  let s := putBytes s ctx (gt + 16 * g) (toBytes 8 a.toNat ++ toBytes 2 (16 * g) ++ toBytes 1 (m.length / 4) ++ toBytes 5 0)
  putBytes s ctx (gt + 16 * nreg + 64 * g) m

/-- An outcome other than sealed, with what the sealer found before it. -/
abbrev Fail := LoadOutcome × Found

/-- Whether a declared node is within the limits of R310. -/
def Node.fits (n : Node) : Bool := decide (n.count ≤ 1023) && decide (n.count * n.win ≤ 98304)

/-- The translation of an EAGER entry at load (R323, R332), sealed as R334 states: the state and image with it and what the sealer
found, or the sealer's code. -/
def eagerEntry (d : Dudon) (x : Image) (p : Portable) (e : Nat) (f : Found) (s : State) : Except Fail (State × Image × Portable × Found) :=
  let t := translateEntry d p.ct e p.next
  let len := 4096 * ceilDiv t.code.length 4096
  if p.poolEnd < p.next + len then .error (.seal 0xFF p.next 0, f)
  else
    let i := addGates x t.gates
    let s := placeBytes s x.ctx p.next t.code false true
    let sc : Scan := { code := [(p.next, runBytes s x.ctx p.next len)], funcs := t.funcs, known := x.funcs, gates := i.gates, maps := i.maps }
    match scanTranslated sc with
    | .error r => .error (.seal (sealNum r.code) r.func r.off, f.add r.found)
    | .ok r =>
      if !t.nodes.all Node.fits then .error (.seal (sealNum .field) p.next 0, f.add r) else
      let s := sealRuns s x.ctx sc r
      let s := t.gates.foldl (fun s (g, a, m) => storeGate s x.ctx x.gtab.toNat d.regions.length g a m) s
      let s := putBytes s x.ctx (p.ct + 8 * e) (toBytes 8 p.next)
      let s := putBytes s x.ctx (p.ts + 16 * e) (toBytes 4 2 ++ toBytes 4 0 ++ toBytes 8 p.next)
      let p := { p with next := p.next + len }
      .ok (s, { i with funcs := i.funcs ++ t.funcs, nodes := i.nodes ++ t.nodes, portable_ := some p }, p, f.add r)

/-- The EAGER entries of a portable image in order (R323). -/
def eagerAll (x : Image) (f : Found) (s : State) : Except Fail (State × Image × Found) :=
  match x.portable_ with
  | none => .ok (s, x, f)
  | some p =>
    match dudonOf p.section_ with
    | none => .error (.badObject, f)
    | some d => do
      let es := (List.range d.entries.length).filter fun e => ((d.entries[e]?).map (·.2)).getD false
      let (s, i, _, f) ← es.foldlM (fun (acc : State × Image × Portable × Found) e =>
        eagerEntry d acc.2.1 acc.2.2.1 e acc.2.2.2 acc.1) (s, x, p, f)
      return (s, i, f)

/-- The number of a new image. -/
def freshImage (s : State) : Nat := s.images.foldl (fun n i => max n (i.id + 1)) 0

/-- The seal metadata with the identity of overlays that were sealed just now. -/
def markOverlays (m : FMap SealMeta) (l : List Overlay) : FMap SealMeta :=
  l.foldl (fun m o => o.frames.foldl (fun m f => match m.find? f with
    | some x => m.set f { x with overlay := some o.identity }
    | none => m) m) m

/-- The warnings that the sealer recorded of an image (R319, R321). -/
def warningsOf (p : Placed) (r : Found) : List (Nat × Nat) :=
  (if 4 < p.version then [(0x84, 0)] else []) ++ (r.clears.map fun a => (0x81, a)) ++ r.marks.map fun m => (m.2, m.1)

/-- The sealing engine's work on a placed candidate: a state in which the load is over, or the outcome of its rejection. -/
def sealPlaced (s : State) (j : LoadJob) (p : Placed) : Except Fail State := do
  let x := placedScan s p
  match scanImage (if p.image.portable_.isSome then { x with gates := [] } else x) with
  | .error r => throw (.seal (sealNum r.code) r.func r.off, r.found)
  | .ok r =>
    let (s, i, r) ← eagerAll p.image r (sealRuns s p.image.ctx x r)
    let id := freshImage s
    let new := newOverlays s p
    return { s with
      seals := markOverlays s.seals new
      overlays := s.overlays ++ new
      images := s.images ++ [{ i with id := id }]
      loads := s.loads.drop 1
      reports := s.reports ++ [{
        ctx := j.ctx, result := .loaded, callTable := i.portable_.map (·.ct)
        images := j.report ++ [{ index := p.index, version := p.version, outcome := .sealed_ id, warnings := warningsOf p r }] }] }

/-- The pages of a rejected candidate are freed (R318 step 4). -/
def dropPlaced (s : State) (p : Placed) : State :=
  let fresh := (p.code.filter fun r => r.2.2.1.isSome && !r.2.2.2).flatMap fun r => codePages r.1 r.2.1
  unswap (freePages s p.image.ctx (p.image.pages ++ fresh)) p.image.ctx p.swaps

/-- SEAL_IMAGE (R318): the sealing engine takes the candidate that the loader has placed. A rejection frees its pages, and
the loader tries the next candidate; the end of a load lets the next one begin. -/
def execSealImage (s : State) : Out :=
  match s.loads.head? with
  | none => .next s
  | some j =>
    match j.placed with
    | none => .next (advanceLoad s)
    | some p =>
      match sealPlaced s j p with
      | .ok s => .next (advanceLoad s)
      | .error (e, f) =>
        let rep : ImageReport := { index := p.index, version := p.version, outcome := e, warnings := warningsOf p f }
        let s := dropPlaced s p
        .next (advanceLoad { s with loads := { j with placed := none, report := j.report ++ [rep] } :: s.loads.drop 1 })

-- Seal requests (R334)

/-- A seal request's fields. -/
structure SealReq where
  pool : Nat
  npage : Nat
  done : Nat
  report : Nat
  funcs : List Func
  nodes : List (List Byte)

/-- The portable image of a context whose pool holds pages. -/
def poolOwner (s : State) (ctx a n : Nat) : Option Image :=
  s.images.find? fun i => decide (i.ctx = ctx) && i.portable_.any fun p => decide (p.pool ≤ a) && decide (a + 4096 * n ≤ p.poolEnd)

/-- The records of a request in the context's memory, `n` bytes each. -/
def reqRecords (s : State) (ctx a k n : Nat) : Option (List (List Byte)) :=
  match readVirt s ctx a (k * n) with
  | .ok l => some (chunks n l)
  | _ => none

/-- A request read from its record; none where a field or record breaks its layout (R334). -/
def sealReq (s : State) (ctx : Nat) (l : List Byte) : Option SealReq := do
  let pool := numAt l 0 8
  let npage := numAt l 8 4
  if pool % 4096 ≠ 0 ∨ npage = 0 ∨ numAt l 12 4 ≠ 0 ∨ numAt l 16 8 % 4 ≠ 0 ∨ numAt l 48 8 % 8 ≠ 0 ∨ ¬(slice l 56 72).all (· == 0) then none
  let fs ← reqRecords s ctx (numAt l 32 8) (numAt l 40 4) 16
  let ns ← reqRecords s ctx (numAt l 48 8) (numAt l 44 4) 32
  let whole : Sect := { idx := 0, name := ascii ".text", ty := 1, flags := 6, addr := 0, link := 0, info := 0, ent := 0, bytes := List.replicate (4096 * npage) 0 }
  match fs.mapM (funcRecord [(whole, pool)] []) with
  | .ok funcs => some { pool := pool, npage := npage, done := numAt l 16 8, report := numAt l 24 8, funcs := funcs, nodes := ns }
  | .error _ => none

/-- An image's gate records as they stand in its gate table, for the records that translated code names. -/
def refreshGates (s : State) (i : Image) (l : List Nat) : Image :=
  l.foldl (fun i g =>
    match readVirt s i.ctx (i.gtab.toNat + 16 * g) 16 with
    | .ok b =>
      let (a, m, n) := gateRecord b
      match readVirt s i.ctx (i.gtab.toNat + 16 * i.gates.length + 4 * m) (4 * n) with
      | .ok mb => { i with gates := i.gates.set g (a, m, n), maps := patch i.maps m ((chunks 4 mb).map mapRecord) }
      | _ => i
    | _ => i) i

/-- The scan and the seal of a request's pages: the code and failing offset for REPORT, with the state (R334 steps 1 to 3). -/
def sealPool (s : State) (i : Image) (q : SealReq) : State × Nat × Nat :=
  let pages := codePages q.pool (4096 * q.npage)
  let s := pages.foldl (fun s va => setLeaf s i.ctx va fun e => withFlags e true false true false) s
  let base : Scan := { code := [(q.pool, runBytes s i.ctx q.pool (4096 * q.npage))], funcs := q.funcs, known := i.funcs }
  let i' := refreshGates s i (gatesNamed base)
  let x := { base with gates := i'.gates, maps := i'.maps }
  match scanTranslated x with
  | .error r => (freePages s i.ctx pages, sealNum r.code, r.func + r.off - q.pool)
  | .ok r =>
    if !disjoint q.funcs || q.nodes.any (fun n => (nodeLimits (q.funcs ++ i.funcs) n).isSome) then (freePages s i.ctx pages, 0x08, 0)
    else
      let s := sealRuns s i.ctx x r
      let i' := { i' with
        funcs := i'.funcs ++ q.funcs
        nodes := i'.nodes ++ q.nodes.map nodeRecord }
      ({ s with images := s.images.map fun y => if y.ctx = i.ctx ∧ y.id = i.id then i' else y }, 0, 0)

/-- The answer to a request: REPORT, then 0 to DONE as a release (R334 steps 4 and 5). -/
def answerRequest (s : State) (ctx done report code off : Nat) : State :=
  let put (s : State) (va : Nat) (b : List Byte) : State :=
    match translate s ctx 1 va with
    | .ok t => physWrite s ctx t.key (t.pa va) b
    | .error _ => s
  put (put (put s report (toBytes 1 code)) (report + 4) (toBytes 4 off)) done (toBytes 4 0)

/-- Whether a seal queue's head may be taken: the queue is enabled and of KIND 1 (R334, R336). -/
def sealReady (s : State) (q : Nat) : Bool := qctl s q 0 0 = 1 && qctl s q 1 1 = 1 && (headRecord s q).isSome

/-- The seal queue that is served next: of the enabled KIND 1 queues with a record, by class, PRIO and round robin (R334, R336,
R345). -/
def nextSealQueue (s : State) : Option Nat := firstServed s ((List.range 128).filter (sealReady s))

/-- SEAL_REQUEST (R334): the sealer takes a request from a seal queue. Pages outside the pool of a portable image of the
context fail with code 0xFF, a record that breaks its layout with code FIELD. -/
def execSealRequest (s : State) : Out :=
  match nextSealQueue s with
  | none => .next s
  | some q =>
    let ctx := queueCtx s q
    match headRecord s q with
    | none => .next s
    | some (box, none) => .next (queueError (advanceQueue s q box) q 5 (queueHead s q))
    | some (box, some r) =>
      let s := advanceQueue s q box
      let answer (s : State) (code off : Nat) : State := answerRequest s ctx (numAt r.bytes 16 8) (numAt r.bytes 24 8) code off
      match poolOwner s ctx (numAt r.bytes 0 8) (numAt r.bytes 8 4) with
      | none => .next (answer s 0xFF 0)
      | some i =>
        match sealReq s ctx r.bytes with
        | none => .next (answer s 0x08 0)
        | some x => let (s, code, off) := sealPool s i x; .next (answer s code off)

/-- The next record is taken: of all queues whose heads are ready, launch and seal queues in one order of class, PRIO and round
robin, the first served (R345). -/
def takeNext (s : State) : Out :=
  match firstServed s ((List.range 128).filter fun q => headReady s q || sealReady s q) with
  | none => .next s
  | some q => if sealReady s q then execSealRequest s else execDispatchTakeRecord s

-- Unloading (R313)

/-- IMAGE_UNLOAD (R313): the image's pages are freed and its nodes and functions are no longer declared; the sealed pages of
its overlays stay resident. -/
def execImageUnload (ctx image : Nat) (s : State) : Out :=
  match s.images.find? fun i => decide (i.ctx = ctx) && decide (i.id = image) with
  | none => .next s
  | some i => .next { freePages s ctx i.pages with images := s.images.filter fun y => !(decide (y.ctx = ctx) && decide (y.id = image)) }

end Sys2Proof.Machine
end

