-- ==== Sys2Proof/Machine/Translation.lean ====
section
/-!
DEFINITION. Invalidation of translations (R384).
-/
namespace Sys2Proof.Machine

/-- Offset of TICTL. -/
def offTictl : Nat := 0x50008

/-- The pages of 4,096 bytes that the leaf of a cached translation maps (R380). -/
def Tlb.pages (t : Tlb) : Nat := if t.level = 1 then 2 ^ 22 else if t.level = 2 then 2 ^ 11 else 1

/-- Whether a cached translation maps the page that another's leaf maps: an invalidation of a page drops the whole of its leaf. -/
def Tlb.covers (t : Tlb) (page : Nat) : Bool := t.page / t.pages = page / t.pages

/-- Whether a page is one that an invalidation names: the page itself, or one that a cached leaf maps together with it. -/
def samePage (s : State) (ctx page p : Nat) : Bool :=
  decide (p = page) || s.tlb.any fun t => decide (t.ctx = ctx) && t.covers page && t.covers p

/-- Whether a translation or an access of a context belongs to what an invalidation names. -/
def invalidates (s : State) (ctx page : Nat) (all : Bool) (c p : Nat) : Bool := decide (c = ctx) && (all || samePage s ctx page p)

/-- The accesses that used a translation about to be dropped and are still to be performed. -/
def usersOf (s : State) (ctx page : Nat) (all : Bool) : List (Nat × Nat) :=
  s.cores.flatMap fun (c, k) =>
    (k.pend.filter fun a => a.open_ && a.spm.isNone && invalidates s ctx page all a.ctx (a.va / 4096)).map fun a => (c, a.id)

/-- TICTL_INVALIDATE (R384): a write of TICTL. With GO, and no invalidation under way, the translations are dropped and
BUSY is set; GO reads 1 until it clears (R8). -/
def execTictlInvalidate (v : BitVec 64) (s : State) : Out :=
  if s.tivaBusy.isSome then .next (devPut s offTictl 6 0 (bitsN v.toNat 6 0))
  else
    let s := devSet s offTictl (v &&& 0x7F)
    if !v.getLsbD 8 then .next s
    else
      let ctx := bitsN v.toNat 5 0
      let page := devBits s 0x50000 55 12
      let all := v.getLsbD 6
      .next { devPut s offTictl 9 8 3 with
        tivaBusy := some (ctx, page, all, usersOf s ctx page all)
        tlb := s.tlb.filter fun t => !invalidates s ctx page all t.ctx t.page }

/-- TLB_INVALIDATE_COMPLETE (R384): every access that used the old translations has been performed. -/
def execTlbInvalidateComplete (s : State) : Out :=
  match s.tivaBusy with
  | none => .next s
  | some (_, _, _, l) =>
    if l.any fun (c, id) => (findAccess s c id).any Access.open_ then .next s
    else .next { devPut s offTictl 9 8 0 with tivaBusy := none }

end Sys2Proof.Machine
end

