-- ==== Sys2Proof/Machine/Registers.lean ====
section
/-!
DEFINITION. Writes of device registers (R8, R412): the writable fields, clamps and locks of every register, and the
operations that a write starts.
-/
namespace Sys2Proof.Machine

/-- Bits [hi:lo] as a mask. -/
def maskBits (hi lo : Nat) : BitVec 64 := BitVec.ofNat 64 ((2 ^ (hi + 1 - lo) - 1) * 2 ^ lo)

/-- A value with its field [hi:lo] clamped to a range. -/
def clampField (v : BitVec 64) (hi lo least most : Nat) : BitVec 64 :=
  let f := min (max (bitsN v.toNat hi lo) least) most
  (v &&& ~~~(maskBits hi lo)) ||| BitVec.ofNat 64 (f * 2 ^ lo)

/-- A register that stores the writable bits of a mask. -/
def storeMask (s : State) (off : Nat) (v mask : BitVec 64) : State := devSet s off (v &&& mask)

/-- The state that an outcome goes on with; the meanings called here always go on. -/
def outState (s : State) : Out → State
  | .next t => t
  | _ => s

/-- A launch queue's registers (R336, R337, R414). -/
def writeQueue (s : State) (q r : Nat) (v : BitVec 64) : State :=
  if tdiLocked s (queueCtx s q) then s
  else match r with
  | 0x00 => if qctl s q 0 0 = 1 then s else storeMask s (offQ q 0) v (maskBits 55 12)
  | 0x08 => outState s (execQctlWrite q v s)
  | 0x10 => outState s (execQtailWrite q (v.setWidth 32) s)
  | 0x20 => if v.getLsbD 0 then devPut s (offQ q 0x20) 0 0 0 else s
  | _ => s

/-- A cluster's mooring-queue registers (R348). -/
def writeMooringQueue (s : State) (c r : Nat) (v : BitVec 64) : State :=
  match r with
  | 0x00 => storeMask s (offMQ c 0) v (maskBits 51 0)
  | 0x08 => storeMask s (offMQ c 8) v (maskBits 23 0)
  | _ => s

/-- A write of CXPRE (R370): GO starts a save or a restore. -/
def writeCxpre (s : State) (n : Nat) (v : BitVec 64) : State :=
  if !v.getLsbD 0 then
    let old := devGet s (offPre n)
    devSet s (offPre n) ((v &&& 0xFF06) ||| (old &&& ~~~0xFF06#64))
  else if v.getLsbD 2 then outState s (execCxpreRestore n v s)
  else if v.getLsbD 1 then outState s (execCxpreForcedSave n v s)
  else outState s (execCxpreNodeSave n v s)

/-- A write of CXROOT (R32, R353): a context that becomes enabled counts its mooring releases anew. -/
def writeCxroot (s : State) (n : Nat) (v : BitVec 64) : State :=
  let on := v.getLsbD 0 && devBits s (offCX n 0) 0 0 == 0
  let s := storeMask s (offCX n 0) v (maskBits 0 0 ||| maskBits 51 14)
  if on then { s with cores := s.cores.map fun p => (p.1, { p.2 with relNum := p.2.relNum.del n }) } else s

/-- Whether a block of a context is resident or a record of it held: in a mooring, in the placement order, for a stream start, in
a save, or in a device inbox on the hub (R338, R353). -/
def contextHeld (s : State) (n : Nat) : Bool :=
  (s.cores.any fun (_, k) => (k.blocks.vals.any fun b => decide (b.ctx = n)) || k.moorings.vals.any fun m => decide (m.ctx = n)) ||
    (s.order.any fun w => decide (w.ctx = n)) || (s.saves.any fun p => decide (p.1 % 64 = n)) ||
    (s.held.any fun p => (s.launches.find? p.2).any fun l => decide (l.ctx = n)) ||
    s.inboxes.any fun (q, l) => l.any fun r => decide ((if r.succOf.isSome then r.ctx else queueCtx s q) = n)

/-- A context's registers (R353, R370, R401, R414). CXSIG, CXTRC and CXTRF may be written at any time (R433). -/
def writeContext (s : State) (n r : Nat) (v : BitVec 64) : State :=
  let set (mask : BitVec 64) (v : BitVec 64) : State := storeMask s (offCX n r) v mask
  if (decide (r < 0x48) && tdiLocked s n) || ((decide (r ≤ 0x28) || decide (r = 0x40)) && contextHeld s n) then s
  else match r with
  | 0x00 => writeCxroot s n v
  | 0x08 => set (maskBits 55 3) v
  | 0x10 => set (maskBits 55 12) v
  | 0x18 => set (maskBits 10 0) (clampField v 10 0 0 1024)
  | 0x20 => set (maskBits 3 0 ||| maskBits 55 12) (clampField v 3 0 4 15)
  | 0x28 => set (maskBits 63 0) v
  | 0x30 => writeCxpre s n v
  | 0x38 => set (maskBits 51 12) v
  | 0x40 => set (maskBits 51 12) v
  | 0x48 => set (maskBits 5 0 ||| maskBits 51 12) (clampField v 5 1 4 20)
  | 0x50 => set (maskBits 5 0 ||| maskBits 51 12) (clampField v 5 1 4 24)
  | 0x58 => set (maskBits 55 0) v
  | _ => s

/-- A cluster's debug registers (R405): while EN is 1 only EN may change. -/
def writeDebug (s : State) (c r : Nat) (v : BitVec 64) : State :=
  let on := devBits s (offDbg c 0) 0 0 = 1
  match r with
  | 0x00 => if on then devPut s (offDbg c 0) 0 0 (if v.getLsbD 0 then 1 else 0) else storeMask s (offDbg c 0) v (maskBits 7 0)
  | 0x08 => if on then s else storeMask s (offDbg c 8) v (maskBits 51 12)
  | 0x10 => outState s (execDbgrsmWrite c v s)
  | _ => s

/-- The flash registers (R427): while EN is 1 only EN may change. -/
def writeFlash (s : State) (off : Nat) (v : BitVec 64) : State :=
  let on := devBits s 0x8000 0 0 = 1
  if off = 0x8000 then
    if on then (if v.getLsbD 0 then s else devPut s 0x8000 0 0 0)
    else storeMask s 0x8000 (clampField (clampField v 5 1 12 24) 20 16 8 24) (maskBits 20 0)
  else if on then s
  else if off = 0x8008 then storeMask s off v (maskBits 51 12)
  else if off = 0x8018 then storeMask s off v (maskBits 63 0)
  else s

/-- KEYCMD (R419). The fields CTX, OP and SESS are stored as written, and GO starts a command where none is under way. The wrapped key
of an install is one that its session holds; with the unassigned OP 0 a GO does no more than fail where the context is enabled. -/
def writeKeycmd (s : State) (v : BitVec 64) : State :=
  let ctx := bitsN v.toNat 5 0
  let op := bitsN v.toNat 7 6
  let sess := bitsN v.toNat 15 8
  if tdiLocked s ctx then s
  else if !v.getLsbD 16 || decide (devBits s 0x7000 17 17 = 1) then devPut s 0x7000 15 0 (bitsN v.toNat 15 0)
  else if op = 1 then generateKey s ctx sess
  else if op = 2 then installKey s.draw ctx sess (Config.wrappedKey s.free)
  else if op = 3 then eraseCommand s ctx sess
  else keyCommand s ctx op sess id

/-- GSCTL, GSSTART, GSEND and GSLINKS (R445). -/
def writeGang (s : State) (off : Nat) (v : BitVec 64) : State :=
  if gangArmed s then s
  else if off = 0xA200 then
    (if v.getLsbD 8 then outState s (execGangSliceArm (bitsN v.toNat 5 0) s) else storeMask s off v (maskBits 5 0))
  else if off = 0xA218 then storeMask s off v (maskBits 23 0)
  else storeMask s off v (maskBits 63 0)

/-- Hub registers below the launch queues. -/
def writeHub (s : State) (off : Nat) (v : BitVec 64) : State :=
  if off = 0x7000 then writeKeycmd s v
  else if 0x8000 ≤ off ∧ off < 0x8030 then writeFlash s off v
  else if 0x9000 ≤ off ∧ off < 0x9800 then
    devPut s off 13 8 (min (bitsN v.toNat 13 8) 48)
  else if off = 0x9800 then devPut s off 11 0 (min (max (bitsN v.toNat 11 0) 1000) 3000)
  else if off = 0x9A00 then storeMask s off (clampField v 3 0 4 15) (maskBits 3 0 ||| maskBits 51 12)
  else if off = 0x9A10 then storeMask s off v (maskBits 63 0)
  else if off = 0x9C00 then
    (if v.getLsbD 8 then outState s (execContextKill (bitsN v.toNat 5 0) s) else devPut s off 5 0 (bitsN v.toNat 5 0))
  else if off = 0xA200 ∨ off = 0xA208 ∨ off = 0xA210 ∨ off = 0xA218 then writeGang s off v
  else s

/-- Whether a byte of a slice's handler SRAM lies in the region of an enabled set (R389). -/
def sramLocked (s : State) (sl a : Nat) : Bool :=
  (List.range 8).any fun k =>
    setOn s sl k && decide (regionBase s sl k ≤ a) && decide (a < regionBase s sl k + regionSize s sl k)

/-- A write through the SRAM window: eight bytes, except those that are locked (R389). -/
def writeSram (s : State) (sl a : Nat) (v : BitVec 64) : State :=
  (List.range 8).foldl (fun t i =>
    if sramLocked s sl (a + i) then t else sramPut t sl (a + i) [(v >>> (8 * i)).setWidth 8]) s

/-- A handler set's registers (R389, R397, R414). -/
def writeSet (s : State) (sl k r : Nat) (v : BitVec 64) : State :=
  let locked := setOn s sl k || tdiLocked s (lhBits s sl k 0 6 1)
  match r with
  | 0x00 => outState s (execLhctlWrite sl k v s)
  | 0x08 => if locked then s else storeMask s (offLH sl k 8) v (maskBits 4 0 ||| maskBits 13 8)
  | 0x10 => if locked then s else storeMask s (offLH sl k 0x10) v (maskBits 51 12)
  | 0x18 => if locked then s else storeMask s (offLH sl k 0x18) v (maskBits 51 12)
  | 0x20 => if v.getLsbD 2 then outState s (execLhstatRearm sl k s) else s
  | _ => s

/-- A slice's registers (R75, R389). -/
def writeSlice (s : State) (sl r : Nat) (v : BitVec 64) : State :=
  if r = 0 then storeMask s (offSlice sl 0) (clampField v 8 0 16 256) (maskBits 9 0)
  else if 0x200 ≤ r ∧ r < 0x400 then writeSet s sl ((r - 0x200) / 0x40) (r % 0x40) v
  else if 0x10000 ≤ r ∧ r < 0x30000 then writeSram s sl (r - 0x10000) v
  else s

/-- A stack's format-window registers (R76). -/
def writeStack (s : State) (st r : Nat) (v : BitVec 64) : State :=
  if r < 0x100 ∨ 0x300 ≤ r then s
  else
    let w := (r - 0x100) / 0x20
    let on := devBits s (offFW st w 8) 0 0 = 1
    match r % 0x20 with
    | 0x00 => if on then s else storeMask s (offFW st w 0) v (maskBits 51 12)
    | 0x08 => outState s (execFwctlWrite st w v s)
    | 0x10 => if on then s else storeMask s (offFW st w 0x10) v (maskBits 51 0)
    | _ => s

/-- A write by VF `n` + 1 at an offset of its BAR0 (R412): QTAIL and QERR of the queues bound to its context. -/
def writeVf (s : State) (n o : Nat) (v : BitVec 64) : State :=
  let q := o / 0x40
  if queueCtx s q ≠ n then s
  else if o % 0x40 = 0x10 then outState s (execQtailWrite q (v.setWidth 32) s)
  else if o % 0x40 = 0x20 ∧ v.getLsbD 0 then devPut s (offQ q 0x20) 0 0 0
  else s

/-- A write that enables an MSI-X vector, or not: vector `i` % 2 of function `i` / 2. The manual gives no place to these enables, and
the model's is from 0x808_0000 on, 8 bytes a vector with the enable in bit 0 (log 5). -/
def writeVector (s : State) (i : Nat) (v : BitVec 64) : State :=
  let p := (i / 2, i % 2)
  { s with vfVec := (s.vfVec.filter (· ≠ p)) ++ if v.getLsbD 0 then [p] else [] }

/-- A write of 64 bits at an aligned offset of the PF's BAR0, or, from 0x800_0000 + 0x2000 × n on, of the BAR0 of
VF `n` + 1 (R412). -/
def writeRegister (s : State) (off : Nat) (v : BitVec 64) : State :=
  if off < 0x20000 then writeHub s off v
  else if off < 0x22000 then writeQueue s ((off - 0x20000) / 0x40) (off % 0x40) v
  else if 0x30000 ≤ off ∧ off < 0x30100 then writeMooringQueue s ((off - 0x30000) / 0x20) (off % 0x20) v
  else if 0x40000 ≤ off ∧ off < 0x42000 then writeContext s ((off - 0x40000) / 0x80) (off % 0x80) v
  else if off = 0x50000 then storeMask s off v (maskBits 55 12)
  else if off = 0x50008 then outState s (execTictlInvalidate v s)
  else if 0x60000 ≤ off ∧ off < 0x60100 then writeDebug s ((off - 0x60000) / 0x20) (off % 0x20) v
  else if 0x1000000 ≤ off ∧ off < 0x5000000 then writeSlice s ((off - 0x1000000) / 0x40000) (off % 0x40000) v
  else if 0x5000000 ≤ off ∧ off < 0x50C0000 then writeStack s ((off - 0x5000000) / 0x10000) (off % 0x10000) v
  else if 0x8000000 ≤ off ∧ off < 0x8080000 then writeVf s ((off - 0x8000000) / 0x2000) (off % 0x2000) v
  else if 0x8080000 ≤ off ∧ off < 0x8080410 then writeVector s ((off - 0x8080000) / 8) v
  else s

/-- REGISTER_WRITE (R8): the PF writes a device register. The manual gives no width or alignment of such accesses: the model's
choice is that they are of 64 bits, and that one at an offset that is no multiple of 8 has no effect (log 62). -/
def execRegisterWrite (off : Nat) (v : BitVec 64) (s : State) : Out :=
  if off % 8 = 0 then .next (writeRegister s off v) else .next s

end Sys2Proof.Machine
end

