-- ==== Sys2Proof/Machine/Dispatch.lean ====
section
/-!
DEFINITION. Dispatch: one arm for each constructor of Instr, each a direct call of its meaning.
-/
namespace Sys2Proof.Machine

def exec (i : Instr) (s : State) : Host.Outcome State Fault Refusal :=
  match i with
  | .nop f => Sys2Proof.Machine.execNop f s
  | .trap f imm => Sys2Proof.Machine.execTrap f imm s
  | .bkpt f imm => Sys2Proof.Machine.execBkpt f imm s
  | .eret f => Sys2Proof.Machine.execEret f s
  | .rdsr f d num => Sys2Proof.Machine.execRdsr f d num s
  | .wrsr f sa num => Sys2Proof.Machine.execWrsr f sa num s
  | .rdcyc f d => Sys2Proof.Machine.execRdcyc f d s
  | .fend f => Sys2Proof.Machine.execFend f s
  | .sleep f sa => Sys2Proof.Machine.execSleep f sa s
  | .add f d sa sb sat => Sys2Proof.Machine.execAdd f d sa sb sat s
  | .sub f d sa sb sat => Sys2Proof.Machine.execSub f d sa sb sat s
  | .mul f d sa sb => Sys2Proof.Machine.execMul f d sa sb s
  | .mulhi f d sa sb => Sys2Proof.Machine.execMulhi f d sa sb s
  | .mulhiu f d sa sb => Sys2Proof.Machine.execMulhiu f d sa sb s
  | .mad f d sa sb sc sat => Sys2Proof.Machine.execMad f d sa sb sc sat s
  | .div f d sa sb => Sys2Proof.Machine.execDiv f d sa sb s
  | .divu f d sa sb => Sys2Proof.Machine.execDivu f d sa sb s
  | .rem f d sa sb => Sys2Proof.Machine.execRem f d sa sb s
  | .remu f d sa sb => Sys2Proof.Machine.execRemu f d sa sb s
  | .min f d sa sb => Sys2Proof.Machine.execMin f d sa sb s
  | .max f d sa sb => Sys2Proof.Machine.execMax f d sa sb s
  | .minu f d sa sb => Sys2Proof.Machine.execMinu f d sa sb s
  | .maxu f d sa sb => Sys2Proof.Machine.execMaxu f d sa sb s
  | .abs f d sa sat => Sys2Proof.Machine.execAbs f d sa sat s
  | .neg f d sa sat => Sys2Proof.Machine.execNeg f d sa sat s
  | .addi f d sa imm => Sys2Proof.Machine.execAddi f d sa imm s
  | .muli f d sa imm => Sys2Proof.Machine.execMuli f d sa imm s
  | .mini f d sa imm => Sys2Proof.Machine.execMini f d sa imm s
  | .maxi f d sa imm => Sys2Proof.Machine.execMaxi f d sa imm s
  | .and f d sa sb => Sys2Proof.Machine.execAnd f d sa sb s
  | .or f d sa sb => Sys2Proof.Machine.execOr f d sa sb s
  | .xor f d sa sb => Sys2Proof.Machine.execXor f d sa sb s
  | .andn f d sa sb => Sys2Proof.Machine.execAndn f d sa sb s
  | .not f d sa => Sys2Proof.Machine.execNot f d sa s
  | .shl f d sa sb => Sys2Proof.Machine.execShl f d sa sb s
  | .shr f d sa sb => Sys2Proof.Machine.execShr f d sa sb s
  | .sar f d sa sb => Sys2Proof.Machine.execSar f d sa sb s
  | .rotl f d sa sb => Sys2Proof.Machine.execRotl f d sa sb s
  | .rotr f d sa sb => Sys2Proof.Machine.execRotr f d sa sb s
  | .popc f d sa => Sys2Proof.Machine.execPopc f d sa s
  | .clz f d sa => Sys2Proof.Machine.execClz f d sa s
  | .ctz f d sa => Sys2Proof.Machine.execCtz f d sa s
  | .brev f d sa => Sys2Proof.Machine.execBrev f d sa s
  | .bfe f d sa sb sgn => Sys2Proof.Machine.execBfe f d sa sb sgn s
  | .bfi f d sa sb sc => Sys2Proof.Machine.execBfi f d sa sb sc s
  | .bpick f d sa sb sc => Sys2Proof.Machine.execBpick f d sa sb sc s
  | .blut3 f d sa sb sc lut => Sys2Proof.Machine.execBlut3 f d sa sb sc lut s
  | .andi f d sa imm => Sys2Proof.Machine.execAndi f d sa imm s
  | .ori f d sa imm => Sys2Proof.Machine.execOri f d sa imm s
  | .xori f d sa imm => Sys2Proof.Machine.execXori f d sa imm s
  | .shli f d sa imm => Sys2Proof.Machine.execShli f d sa imm s
  | .shri f d sa imm => Sys2Proof.Machine.execShri f d sa imm s
  | .sari f d sa imm => Sys2Proof.Machine.execSari f d sa imm s
  | .add64 f d sa sb => Sys2Proof.Machine.execAdd64 f d sa sb s
  | .sub64 f d sa sb => Sys2Proof.Machine.execSub64 f d sa sb s
  | .mul64 f d sa sb => Sys2Proof.Machine.execMul64 f d sa sb s
  | .mulw f d sa sb => Sys2Proof.Machine.execMulw f d sa sb s
  | .mulwu f d sa sb => Sys2Proof.Machine.execMulwu f d sa sb s
  | .shl64 f d sa sb => Sys2Proof.Machine.execShl64 f d sa sb s
  | .shr64 f d sa sb => Sys2Proof.Machine.execShr64 f d sa sb s
  | .sar64 f d sa sb => Sys2Proof.Machine.execSar64 f d sa sb s
  | .min64 f d sa sb => Sys2Proof.Machine.execMin64 f d sa sb s
  | .max64 f d sa sb => Sys2Proof.Machine.execMax64 f d sa sb s
  | .addi64 f d sa imm => Sys2Proof.Machine.execAddi64 f d sa imm s
  | .lea f d sa sb shift u => Sys2Proof.Machine.execLea f d sa sb shift u s
  | .mov f d sa b64 => Sys2Proof.Machine.execMov f d sa b64 s
  | .movi f d imm => Sys2Proof.Machine.execMovi f d imm s
  | .setp f pd sa sb cc ty => Sys2Proof.Machine.execSetp f pd sa sb cc ty s
  | .sel f d sa sb pc b64 => Sys2Proof.Machine.execSel f d sa sb pc b64 s
  | .setpi f pd sa cc u imm => Sys2Proof.Machine.execSetpi f pd sa cc u imm s
  | .plut3 f pd pa pb pc lut => Sys2Proof.Machine.execPlut3 f pd pa pb pc lut s
  | .p2g f d => Sys2Proof.Machine.execP2g f d s
  | .g2p f sa sb => Sys2Proof.Machine.execG2p f sa sb s
  | .fadd f d sa sb rm => Sys2Proof.Machine.execFadd f d sa sb rm s
  | .fsub f d sa sb rm => Sys2Proof.Machine.execFsub f d sa sb rm s
  | .fmul f d sa sb rm => Sys2Proof.Machine.execFmul f d sa sb rm s
  | .ffma f d sa sb sc rm => Sys2Proof.Machine.execFfma f d sa sb sc rm s
  | .fmin f d sa sb => Sys2Proof.Machine.execFmin f d sa sb s
  | .fmax f d sa sb => Sys2Proof.Machine.execFmax f d sa sb s
  | .fabs f d sa => Sys2Proof.Machine.execFabs f d sa s
  | .fneg f d sa => Sys2Proof.Machine.execFneg f d sa s
  | .fdiv f d sa sb rm => Sys2Proof.Machine.execFdiv f d sa sb rm s
  | .hadd2 f d sa sb bf rm => Sys2Proof.Machine.execHadd2 f d sa sb rm bf s
  | .hsub2 f d sa sb bf rm => Sys2Proof.Machine.execHsub2 f d sa sb rm bf s
  | .hmul2 f d sa sb bf rm => Sys2Proof.Machine.execHmul2 f d sa sb rm bf s
  | .hfma2 f d sa sb sc bf rm => Sys2Proof.Machine.execHfma2 f d sa sb sc rm bf s
  | .hmin2 f d sa sb bf => Sys2Proof.Machine.execHmin2 f d sa sb bf s
  | .hmax2 f d sa sb bf => Sys2Proof.Machine.execHmax2 f d sa sb bf s
  | .dadd f d sa sb rm => Sys2Proof.Machine.execDadd f d sa sb rm s
  | .dsub f d sa sb rm => Sys2Proof.Machine.execDsub f d sa sb rm s
  | .dmul f d sa sb rm => Sys2Proof.Machine.execDmul f d sa sb rm s
  | .dfma f d sa sb sc rm => Sys2Proof.Machine.execDfma f d sa sb sc rm s
  | .dmin f d sa sb => Sys2Proof.Machine.execDmin f d sa sb s
  | .dmax f d sa sb => Sys2Proof.Machine.execDmax f d sa sb s
  | .ddiv f d sa sb rm => Sys2Proof.Machine.execDdiv f d sa sb rm s
  | .dsqrt f d sa rm => Sys2Proof.Machine.execDsqrt f d sa rm s
  | .rcp f d sa => Sys2Proof.Machine.execRcp f d sa s
  | .rsq f d sa => Sys2Proof.Machine.execRsq f d sa s
  | .sqrt f d sa => Sys2Proof.Machine.execSqrt f d sa s
  | .exp2 f d sa => Sys2Proof.Machine.execExp2 f d sa s
  | .log2 f d sa => Sys2Proof.Machine.execLog2 f d sa s
  | .sin f d sa => Sys2Proof.Machine.execSin f d sa s
  | .cos f d sa => Sys2Proof.Machine.execCos f d sa s
  | .tanh f d sa => Sys2Proof.Machine.execTanh f d sa s
  | .cvt f d sa df sf sat rm => Sys2Proof.Machine.execCvt f d sa df sf sat rm s
  | .cvts f d sa sb e8 df sf sat rm => Sys2Proof.Machine.execCvts f d sa sb e8 df sf sat rm s
  | .cvtpk f d sa sb sc df sat rm => Sys2Proof.Machine.execCvtpk f d sa sb sc df sat rm s
  | .cvtupk f d sa sf idx => Sys2Proof.Machine.execCvtupk f d sa sf idx s
  | .bra f off => Sys2Proof.Machine.execBra f off s
  | .brx f sa => Sys2Proof.Machine.execBrx f sa s
  | .call f d off => Sys2Proof.Machine.execCall f d off s
  | .callx f d sa => Sys2Proof.Machine.execCallx f d sa s
  | .ret f sa => Sys2Proof.Machine.execRet f sa s
  | .enrol f j => Sys2Proof.Machine.execEnrol f j s
  | .strike f j => Sys2Proof.Machine.execStrike f j s
  | .park f j => Sys2Proof.Machine.execPark f j s
  | .xread f d sa sb j b64 => Sys2Proof.Machine.execXread f d sa sb j b64 s
  | .xvote f d pa j op => Sys2Proof.Machine.execXvote f d pa j op s
  | .xred f d sa j op ty => Sys2Proof.Machine.execXred f d sa j op ty s
  | .matchw f d sa j b64 => Sys2Proof.Machine.execMatchw f d sa j b64 s
  | .matchf f d sa j => Sys2Proof.Machine.execMatchf f d sa j s
  | .elect f pd j => Sys2Proof.Machine.execElect f pd j s
  | .spawn f sa sb sc count => Sys2Proof.Machine.execSpawn f sa sb sc count s
  | .waitj f sa => Sys2Proof.Machine.execWaitj f sa s
  | .launch f d sa queue => Sys2Proof.Machine.execLaunch f d sa queue s
  | .ldGI8 f d sa kind scope off => Sys2Proof.Machine.execLdGI8 f d sa kind scope off s
  | .ldGUi8 f d sa kind scope off => Sys2Proof.Machine.execLdGUi8 f d sa kind scope off s
  | .ldGI16 f d sa kind scope off => Sys2Proof.Machine.execLdGI16 f d sa kind scope off s
  | .ldGUi16 f d sa kind scope off => Sys2Proof.Machine.execLdGUi16 f d sa kind scope off s
  | .ldGB32 f d sa kind scope off => Sys2Proof.Machine.execLdGB32 f d sa kind scope off s
  | .ldGB64 f d sa kind scope off => Sys2Proof.Machine.execLdGB64 f d sa kind scope off s
  | .ldGB128 f d sa kind scope off => Sys2Proof.Machine.execLdGB128 f d sa kind scope off s
  | .stGB8 f d sa kind scope off => Sys2Proof.Machine.execStGB8 f d sa kind scope off s
  | .stGB16 f d sa kind scope off => Sys2Proof.Machine.execStGB16 f d sa kind scope off s
  | .stGB32 f d sa kind scope off => Sys2Proof.Machine.execStGB32 f d sa kind scope off s
  | .stGB64 f d sa kind scope off => Sys2Proof.Machine.execStGB64 f d sa kind scope off s
  | .stGB128 f d sa kind scope off => Sys2Proof.Machine.execStGB128 f d sa kind scope off s
  | .ldSI8 f d sa hd kind scope off => Sys2Proof.Machine.execLdSI8 f d sa hd kind scope off s
  | .ldSUi8 f d sa hd kind scope off => Sys2Proof.Machine.execLdSUi8 f d sa hd kind scope off s
  | .ldSI16 f d sa hd kind scope off => Sys2Proof.Machine.execLdSI16 f d sa hd kind scope off s
  | .ldSUi16 f d sa hd kind scope off => Sys2Proof.Machine.execLdSUi16 f d sa hd kind scope off s
  | .ldSB32 f d sa hd kind scope off => Sys2Proof.Machine.execLdSB32 f d sa hd kind scope off s
  | .ldSB64 f d sa hd kind scope off => Sys2Proof.Machine.execLdSB64 f d sa hd kind scope off s
  | .ldSB128 f d sa hd kind scope off => Sys2Proof.Machine.execLdSB128 f d sa hd kind scope off s
  | .stSB8 f d sa hd kind scope off => Sys2Proof.Machine.execStSB8 f d sa hd kind scope off s
  | .stSB16 f d sa hd kind scope off => Sys2Proof.Machine.execStSB16 f d sa hd kind scope off s
  | .stSB32 f d sa hd kind scope off => Sys2Proof.Machine.execStSB32 f d sa hd kind scope off s
  | .stSB64 f d sa hd kind scope off => Sys2Proof.Machine.execStSB64 f d sa hd kind scope off s
  | .stSB128 f d sa hd kind scope off => Sys2Proof.Machine.execStSB128 f d sa hd kind scope off s
  | .atomAddI32 f d sa sb kind scope => Sys2Proof.Machine.execAtomAddI32 f d sa sb kind scope s
  | .atomsAddI32 f d sa sb hd kind scope => Sys2Proof.Machine.execAtomsAddI32 f d sa sb hd kind scope s
  | .atomAddI64 f d sa sb kind scope => Sys2Proof.Machine.execAtomAddI64 f d sa sb kind scope s
  | .atomsAddI64 f d sa sb hd kind scope => Sys2Proof.Machine.execAtomsAddI64 f d sa sb hd kind scope s
  | .atomAndB32 f d sa sb kind scope => Sys2Proof.Machine.execAtomAndB32 f d sa sb kind scope s
  | .atomsAndB32 f d sa sb hd kind scope => Sys2Proof.Machine.execAtomsAndB32 f d sa sb hd kind scope s
  | .atomOrB32 f d sa sb kind scope => Sys2Proof.Machine.execAtomOrB32 f d sa sb kind scope s
  | .atomsOrB32 f d sa sb hd kind scope => Sys2Proof.Machine.execAtomsOrB32 f d sa sb hd kind scope s
  | .atomXorB32 f d sa sb kind scope => Sys2Proof.Machine.execAtomXorB32 f d sa sb kind scope s
  | .atomsXorB32 f d sa sb hd kind scope => Sys2Proof.Machine.execAtomsXorB32 f d sa sb hd kind scope s
  | .atomMinI32 f d sa sb kind scope => Sys2Proof.Machine.execAtomMinI32 f d sa sb kind scope s
  | .atomsMinI32 f d sa sb hd kind scope => Sys2Proof.Machine.execAtomsMinI32 f d sa sb hd kind scope s
  | .atomMaxI32 f d sa sb kind scope => Sys2Proof.Machine.execAtomMaxI32 f d sa sb kind scope s
  | .atomsMaxI32 f d sa sb hd kind scope => Sys2Proof.Machine.execAtomsMaxI32 f d sa sb hd kind scope s
  | .atomMinUi32 f d sa sb kind scope => Sys2Proof.Machine.execAtomMinUi32 f d sa sb kind scope s
  | .atomsMinUi32 f d sa sb hd kind scope => Sys2Proof.Machine.execAtomsMinUi32 f d sa sb hd kind scope s
  | .atomMaxUi32 f d sa sb kind scope => Sys2Proof.Machine.execAtomMaxUi32 f d sa sb kind scope s
  | .atomsMaxUi32 f d sa sb hd kind scope => Sys2Proof.Machine.execAtomsMaxUi32 f d sa sb hd kind scope s
  | .atomExchB32 f d sa sb kind scope => Sys2Proof.Machine.execAtomExchB32 f d sa sb kind scope s
  | .atomsExchB32 f d sa sb hd kind scope => Sys2Proof.Machine.execAtomsExchB32 f d sa sb hd kind scope s
  | .atomExchB64 f d sa sb kind scope => Sys2Proof.Machine.execAtomExchB64 f d sa sb kind scope s
  | .atomsExchB64 f d sa sb hd kind scope => Sys2Proof.Machine.execAtomsExchB64 f d sa sb hd kind scope s
  | .atomCasB32 f d sa sb sc kind scope => Sys2Proof.Machine.execAtomCasB32 f d sa sb sc kind scope s
  | .atomsCasB32 f d sa sb sc hd kind scope => Sys2Proof.Machine.execAtomsCasB32 f d sa sb sc hd kind scope s
  | .atomCasB64 f d sa sb sc kind scope => Sys2Proof.Machine.execAtomCasB64 f d sa sb sc kind scope s
  | .atomsCasB64 f d sa sb sc hd kind scope => Sys2Proof.Machine.execAtomsCasB64 f d sa sb sc hd kind scope s
  | .atomAddF32 f d sa sb kind scope => Sys2Proof.Machine.execAtomAddF32 f d sa sb kind scope s
  | .atomsAddF32 f d sa sb hd kind scope => Sys2Proof.Machine.execAtomsAddF32 f d sa sb hd kind scope s
  | .atomMinF32 f d sa sb kind scope => Sys2Proof.Machine.execAtomMinF32 f d sa sb kind scope s
  | .atomsMinF32 f d sa sb hd kind scope => Sys2Proof.Machine.execAtomsMinF32 f d sa sb hd kind scope s
  | .atomMaxF32 f d sa sb kind scope => Sys2Proof.Machine.execAtomMaxF32 f d sa sb kind scope s
  | .atomsMaxF32 f d sa sb hd kind scope => Sys2Proof.Machine.execAtomsMaxF32 f d sa sb hd kind scope s
  | .fence f order scope => Sys2Proof.Machine.execFence f order scope s
  | .pref f sa => Sys2Proof.Machine.execPref f sa s
  | .ldrop f sa => Sys2Proof.Machine.execLdrop f sa s
  | .qpop f d q pe => Sys2Proof.Machine.execQpop f d q pe s
  | .lmsg f d sa sb len sel => Sys2Proof.Machine.execLmsg f d sa sb len sel s
  | .hgive f hd sb tag => Sys2Proof.Machine.execHgive f hd sb tag s
  | .htake f hd tag => Sys2Proof.Machine.execHtake f hd tag s
  | .barv f d b => Sys2Proof.Machine.execBarv f d b s
  | .bwait f b sa => Sys2Proof.Machine.execBwait f b sa s
  | .bsync f b => Sys2Proof.Machine.execBsync f b s
  | .bsign f d b => Sys2Proof.Machine.execBsign f d b s
  | .bexp f b sa => Sys2Proof.Machine.execBexp f b sa s
  | .batt f b sa j => Sys2Proof.Machine.execBatt f b sa j s
  | .gate f idx => Sys2Proof.Machine.execGate f idx s
  | .xcopy f d sa bar pm pt arr => Sys2Proof.Machine.execXcopy f d sa bar pm pt arr s
  | .publish f sa sb => Sys2Proof.Machine.execPublish f sa sb s
  | .fmnx _ _ _ _ => Sys2Proof.Machine.execFmnx s
  | .cvtf8 _ _ _ => Sys2Proof.Machine.execCvtf8 s
  | .rdcycl f d => Sys2Proof.Machine.execRdcycl f d s
  | .pnop => Sys2Proof.Machine.execPnop s
  | .pli md imm => Sys2Proof.Machine.execPli md imm s
  | .padd md ma mb => Sys2Proof.Machine.execPadd md ma mb s
  | .psub md ma mb => Sys2Proof.Machine.execPsub md ma mb s
  | .pand md ma mb => Sys2Proof.Machine.execPand md ma mb s
  | .por md ma mb => Sys2Proof.Machine.execPor md ma mb s
  | .pshl md ma mb => Sys2Proof.Machine.execPshl md ma mb s
  | .pshr md ma mb => Sys2Proof.Machine.execPshr md ma mb s
  | .paddi md ma imm => Sys2Proof.Machine.execPaddi md ma imm s
  | .pjmp off => Sys2Proof.Machine.execPjmp off s
  | .pbnz ma off => Sys2Proof.Machine.execPbnz ma off s
  | .pbeq ma mb off => Sys2Proof.Machine.execPbeq ma mb off s
  | .pchunk md => Sys2Proof.Machine.execPchunk md s
  | .pbits md n => Sys2Proof.Machine.execPbits md n s
  | .ptab n => Sys2Proof.Machine.execPtab n s
  | .psym md n => Sys2Proof.Machine.execPsym md n s
  | .plit ma n => Sys2Proof.Machine.execPlit ma n s
  | .pbref ma mb => Sys2Proof.Machine.execPbref ma mb s
  | .palign => Sys2Proof.Machine.execPalign s
  | .pplane k corr => Sys2Proof.Machine.execPplane k corr s
  | .pcvt ma sf df rm sat => Sys2Proof.Machine.execPcvt ma sf df rm sat s
  | .pscale ma mb sf df rm sat e8 => Sys2Proof.Machine.execPscale ma mb sf df rm sat e8 s
  | .ppush q => Sys2Proof.Machine.execPpush q s
  | .peos mask => Sys2Proof.Machine.execPeos mask s
  | .pmode sc v => Sys2Proof.Machine.execPmode sc v s
  | .pscout md => Sys2Proof.Machine.execPscout md s
  | .pend => Sys2Proof.Machine.execPend s
  | .xnop g => Sys2Proof.Machine.execXnop g s
  | .xpose g c a => Sys2Proof.Machine.execXpose g c a s
  | .chain g ka kb n => Sys2Proof.Machine.execChain g ka kb n s
  | .chord g ka hd cnt => Sys2Proof.Machine.execChord g ka hd cnt s
  | .chstep g cnt b bae => Sys2Proof.Machine.execChstep g cnt b bae s
  | .chend g kd => Sys2Proof.Machine.execChend g kd s
  | .bundleIssue w => Sys2Proof.Machine.execBundleIssue w s
  | .loopNestBundle w => Sys2Proof.Machine.execLoopNestBundle w s
  | .repeatPrefix w => Sys2Proof.Machine.execRepeatPrefix w s
  | .coldReset => Sys2Proof.Machine.execColdReset s
  | .bootStageVerify image sig1 sig2 => Sys2Proof.Machine.execBootStageVerify image sig1 sig2 s
  | .registerWrite off v => Sys2Proof.Machine.execRegisterWrite off v s
  | .loadObject ctx base file => Sys2Proof.Machine.execLoadObject ctx base file s
  | .sealImage => Sys2Proof.Machine.execSealImage s
  | .sealRequest => Sys2Proof.Machine.execSealRequest s
  | .qtailWrite q v => Sys2Proof.Machine.execQtailWrite q v s
  | .qctlWrite q v => Sys2Proof.Machine.execQctlWrite q v s
  | .launchInboxArrival => Sys2Proof.Machine.execLaunchInboxArrival s
  | .dispatchTakeRecord => Sys2Proof.Machine.execDispatchTakeRecord s
  | .launchCompletion id => Sys2Proof.Machine.execLaunchCompletion id s
  | .successorInboxCopy => Sys2Proof.Machine.execSuccessorInboxCopy s
  | .blockPlacement cluster core => Sys2Proof.Machine.execBlockPlacement cluster core s
  | .placementHeadAging cluster => Sys2Proof.Machine.execPlacementHeadAging cluster s
  | .staggerExpiry id cluster => Sys2Proof.Machine.execStaggerExpiry id cluster s
  | .mooringTimerExpiry core key => Sys2Proof.Machine.execMooringTimerExpiry core key s
  | .joinDecrement core id => Sys2Proof.Machine.execJoinDecrement core id s
  | .fibreContextFree core slot fib => Sys2Proof.Machine.execFibreContextFree core slot fib s
  | .blockEnd core slot => Sys2Proof.Machine.execBlockEnd core slot s
  | .lampGrant core => Sys2Proof.Machine.execLampGrant core s
  | .l1LeaseExpiry core line => Sys2Proof.Machine.execL1LeaseExpiry core line s
  | .l2Request core id => Sys2Proof.Machine.execL2Request core id s
  | .l2FillArrival slice line => Sys2Proof.Machine.execL2FillArrival slice line s
  | .mergeWindowClose slice line => Sys2Proof.Machine.execMergeWindowClose slice line s
  | .fwctlWrite stack win v => Sys2Proof.Machine.execFwctlWrite stack win v s
  | .writePerformed core id => Sys2Proof.Machine.execWritePerformed core id s
  | .loadDataReturn core id => Sys2Proof.Machine.execLoadDataReturn core id s
  | .publishPoint core => Sys2Proof.Machine.execPublishPoint core s
  | .latencyWriteLanding core => Sys2Proof.Machine.execLatencyWriteLanding core s
  | .trapEntry core slot fib => Sys2Proof.Machine.execTrapEntry core slot fib s
  | .pendingTrapDelivery core slot fib => Sys2Proof.Machine.execPendingTrapDelivery core slot fib s
  | .loopNestIteration core => Sys2Proof.Machine.execLoopNestIteration core s
  | .repeatIssue core => Sys2Proof.Machine.execRepeatIssue core s
  | .attachedOpStart core => Sys2Proof.Machine.execAttachedOpStart core s
  | .bloadqRowPop core => Sys2Proof.Machine.execBloadqRowPop core s
  | .cpeCommandComplete core => Sys2Proof.Machine.execCpeCommandComplete core s
  | .cpeCommandFault core => Sys2Proof.Machine.execCpeCommandFault core s
  | .promiseExpiry core id => Sys2Proof.Machine.execPromiseExpiry core id s
  | .chstepStep core => Sys2Proof.Machine.execChstepStep core s
  | .netslotBeat core id => Sys2Proof.Machine.execNetslotBeat core id s
  | .netslotReply core id => Sys2Proof.Machine.execNetslotReply core id s
  | .streamStart core => Sys2Proof.Machine.execStreamStart core s
  | .scoutHeaderRead core => Sys2Proof.Machine.execScoutHeaderRead core s
  | .fiuIssue core => Sys2Proof.Machine.execFiuIssue core s
  | .fibreUrgent core slot fib => Sys2Proof.Machine.execFibreUrgent core slot fib s
  | .cxpreNodeSave ctx v => Sys2Proof.Machine.execCxpreNodeSave ctx v s
  | .nodeBoundarySave core => Sys2Proof.Machine.execNodeBoundarySave core s
  | .cxpreForcedSave ctx v => Sys2Proof.Machine.execCxpreForcedSave ctx v s
  | .forcedSaveComplete core => Sys2Proof.Machine.execForcedSaveComplete core s
  | .cxpreRestore ctx v => Sys2Proof.Machine.execCxpreRestore ctx v s
  | .pageWalk ctx page => Sys2Proof.Machine.execPageWalk ctx page s
  | .tictlInvalidate v => Sys2Proof.Machine.execTictlInvalidate v s
  | .tlbInvalidateComplete => Sys2Proof.Machine.execTlbInvalidateComplete s
  | .lmsgArrival core id => Sys2Proof.Machine.execLmsgArrival core id s
  | .lanternDispatch slice => Sys2Proof.Machine.execLanternDispatch slice s
  | .lanternReturn slice => Sys2Proof.Machine.execLanternReturn slice s
  | .lanternBudgetAbort slice => Sys2Proof.Machine.execLanternBudgetAbort slice s
  | .lanternWindowAccess slice => Sys2Proof.Machine.execLanternWindowAccess slice s
  | .lprefWrite slice pa => Sys2Proof.Machine.execLprefWrite slice pa s
  | .lanternPrefetchComplete slice line => Sys2Proof.Machine.execLanternPrefetchComplete slice line s
  | .lsendWrite slice addr => Sys2Proof.Machine.execLsendWrite slice addr s
  | .lanternSendDelivery slice => Sys2Proof.Machine.execLanternSendDelivery slice s
  | .lstatRead slice rd => Sys2Proof.Machine.execLstatRead slice rd s
  | .lhctlWrite slice set v => Sys2Proof.Machine.execLhctlWrite slice set v s
  | .lhstatRearm slice set => Sys2Proof.Machine.execLhstatRearm slice set s
  | .breakpointNotice cluster => Sys2Proof.Machine.execBreakpointNotice cluster s
  | .dbgrsmWrite cluster v => Sys2Proof.Machine.execDbgrsmWrite cluster v s
  | .debugRead cluster => Sys2Proof.Machine.execDebugRead cluster s
  | .debugWrite cluster => Sys2Proof.Machine.execDebugWrite cluster s
  | .debugResume cluster => Sys2Proof.Machine.execDebugResume cluster s
  | .debugBpset cluster => Sys2Proof.Machine.execDebugBpset cluster s
  | .keyGenerate ctx => Sys2Proof.Machine.execKeyGenerate ctx s
  | .keyInstall ctx sess wrapped => Sys2Proof.Machine.execKeyInstall ctx sess wrapped s
  | .keyErase ctx => Sys2Proof.Machine.execKeyErase ctx s
  | .keycmdComplete => Sys2Proof.Machine.execKeycmdComplete s
  | .measurementExtend slot digest => Sys2Proof.Machine.execMeasurementExtend slot digest s
  | .spdmMeasurements nonce => Sys2Proof.Machine.execSpdmMeasurements nonce s
  | .tdiError ctx => Sys2Proof.Machine.execTdiError ctx s
  | .flashTick => Sys2Proof.Machine.execFlashTick s
  | .flashSyncExchange link master => Sys2Proof.Machine.execFlashSyncExchange link master s
  | .throttleUpdate temps power => Sys2Proof.Machine.execThrottleUpdate temps power s
  | .contextKill ctx => Sys2Proof.Machine.execContextKill ctx s
  | .contextKillComplete => Sys2Proof.Machine.execContextKillComplete s
  | .peerLinkStateChange link st lanes => Sys2Proof.Machine.execPeerLinkStateChange link st lanes s
  | .peerAccessArrival link ctx write pa data => Sys2Proof.Machine.execPeerAccessArrival link ctx write pa data s
  | .peerTrafficRelease => Sys2Proof.Machine.execPeerTrafficRelease s
  | .gangSliceArm ctx => Sys2Proof.Machine.execGangSliceArm ctx s
  | .gangSliceStart => Sys2Proof.Machine.execGangSliceStart s
  | .gangSliceEnd => Sys2Proof.Machine.execGangSliceEnd s
  | .snop => Sys2Proof.Machine.execSnop s
  | .addk kd ka fi kb imm => Sys2Proof.Machine.execAddk kd ka fi kb imm s
  | .subk kd ka fi kb imm => Sys2Proof.Machine.execSubk kd ka fi kb imm s
  | .mulk kd ka fi kb imm => Sys2Proof.Machine.execMulk kd ka fi kb imm s
  | .andk kd ka fi kb imm => Sys2Proof.Machine.execAndk kd ka fi kb imm s
  | .ork kd ka fi kb imm => Sys2Proof.Machine.execOrk kd ka fi kb imm s
  | .xork kd ka fi kb imm => Sys2Proof.Machine.execXork kd ka fi kb imm s
  | .shlk kd ka fi kb imm => Sys2Proof.Machine.execShlk kd ka fi kb imm s
  | .shrk kd ka fi kb imm => Sys2Proof.Machine.execShrk kd ka fi kb imm s
  | .sark kd ka fi kb imm => Sys2Proof.Machine.execSark kd ka fi kb imm s
  | .mink kd ka fi kb imm => Sys2Proof.Machine.execMink kd ka fi kb imm s
  | .maxk kd ka fi kb imm => Sys2Proof.Machine.execMaxk kd ka fi kb imm s
  | .sltk kd ka fi kb imm => Sys2Proof.Machine.execSltk kd ka fi kb imm s
  | .sltku kd ka fi kb imm => Sys2Proof.Machine.execSltku kd ka fi kb imm s
  | .seqk kd ka fi kb imm => Sys2Proof.Machine.execSeqk kd ka fi kb imm s
  | .movk kd fi ka imm => Sys2Proof.Machine.execMovk kd fi ka imm s
  | .movhk kd imm => Sys2Proof.Machine.execMovhk kd imm s
  | .addik kd ka imm => Sys2Proof.Machine.execAddik kd ka imm s
  | .ldk kd ka size sx hd imm => Sys2Proof.Machine.execLdk kd ka size sx hd imm s
  | .stk ka kb size hd imm => Sys2Proof.Machine.execStk ka kb size hd imm s
  | .brk off => Sys2Proof.Machine.execBrk off s
  | .bnzk ka off => Sys2Proof.Machine.execBnzk ka off s
  | .loop n fi ka len count => Sys2Proof.Machine.execLoop n fi ka len count s
  | .lend n len => Sys2Proof.Machine.execLend n len s
  | .setst fi ka mask fc => Sys2Proof.Machine.execSetst fi ka mask fc s
  | .setbd n fi ka imm => Sys2Proof.Machine.execSetbd n fi ka imm s
  | .setad n ka step => Sys2Proof.Machine.execSetad n ka step s
  | .setd n ka hd imm => Sys2Proof.Machine.execSetd n ka hd imm s
  | .rdsrk kd num => Sys2Proof.Machine.execRdsrk kd num s
  | .wrsrk ka num => Sys2Proof.Machine.execWrsrk ka num s
  | .arrk kd b => Sys2Proof.Machine.execArrk kd b s
  | .waitk b ka => Sys2Proof.Machine.execWaitk b ka s
  | .sleepk ka => Sys2Proof.Machine.execSleepk ka s
  | .gret => Sys2Proof.Machine.execGret s
  | .vnop g => Sys2Proof.Machine.execVnop g s
  | .vadd g vd va vb t rm sat => Sys2Proof.Machine.execVadd g vd va vb t rm sat s
  | .vsub g vd va vb t rm sat => Sys2Proof.Machine.execVsub g vd va vb t rm sat s
  | .vmul g vd va vb t rm sat => Sys2Proof.Machine.execVmul g vd va vb t rm sat s
  | .vfma g vd va vb vc t rm sat => Sys2Proof.Machine.execVfma g vd va vb vc t rm sat s
  | .vmin g vd va vb t => Sys2Proof.Machine.execVmin g vd va vb t s
  | .vmax g vd va vb t => Sys2Proof.Machine.execVmax g vd va vb t s
  | .vabs g vd va t sat => Sys2Proof.Machine.execVabs g vd va t sat s
  | .vneg g vd va t sat => Sys2Proof.Machine.execVneg g vd va t sat s
  | .vand g vd va vb => Sys2Proof.Machine.execVand g vd va vb s
  | .vor g vd va vb => Sys2Proof.Machine.execVor g vd va vb s
  | .vxor g vd va vb => Sys2Proof.Machine.execVxor g vd va vb s
  | .vshl g vd va vb t => Sys2Proof.Machine.execVshl g vd va vb t s
  | .vshr g vd va vb t => Sys2Proof.Machine.execVshr g vd va vb t s
  | .vsar g vd va vb t => Sys2Proof.Machine.execVsar g vd va vb t s
  | .vcmp g vd va vb t cc => Sys2Proof.Machine.execVcmp g vd va vb t cc s
  | .vsel g vd va vb vc t => Sys2Proof.Machine.execVsel g vd va vb vc t s
  | .vrcp g vd va t rm sat => Sys2Proof.Machine.execVrcp g vd va t rm sat s
  | .vrsq g vd va t rm sat => Sys2Proof.Machine.execVrsq g vd va t rm sat s
  | .vexp2 g vd va t rm sat => Sys2Proof.Machine.execVexp2 g vd va t rm sat s
  | .vlog2 g vd va t rm sat => Sys2Proof.Machine.execVlog2 g vd va t rm sat s
  | .vcvt g vd va sf df part rm sat => Sys2Proof.Machine.execVcvt g vd va sf df part rm sat s
  | .vscale g vd va vb sf df part e8 lg rm sat => Sys2Proof.Machine.execVscale g vd va vb sf df part e8 lg rm sat s
  | .vredl g vd va t op rm sat => Sys2Proof.Machine.execVredl g vd va t op rm sat s
  | .vredr g vd va t op cnt rm sat => Sys2Proof.Machine.execVredr g vd va t op cnt rm sat s
  | .vld g vd hd ad use off => Sys2Proof.Machine.execVld g vd hd ad use off s
  | .vst g va hd ad use off => Sys2Proof.Machine.execVst g va hd ad use off s
  | .vbcast g vd va t usek lane => Sys2Proof.Machine.execVbcast g vd va t usek lane s
  | .vmov g vd va => Sys2Proof.Machine.execVmov g vd va s
  | .vqpop g vd q => Sys2Proof.Machine.execVqpop g vd q s
  | .mnop g => Sys2Proof.Machine.execMnop g s
  | .mma g c a unit rows af corr sat cpk => Sys2Proof.Machine.execMma g c a unit rows af corr sat cpk s
  | .mmaq g c q unit rows af corr sat cpk => Sys2Proof.Machine.execMmaq g c q unit rows af corr sat cpk s
  | .bload g unit src bf corr mx => Sys2Proof.Machine.execBload g unit src bf corr mx s
  | .bloadq g unit q bf corr mx => Sys2Proof.Machine.execBloadq g unit q bf corr mx s
  | .mclr g c cnt w => Sys2Proof.Machine.execMclr g c cnt w s
  | .cnop g => Sys2Proof.Machine.execCnop g s
  | .copy g ds dd ada sae adb dae bar bae kp pt => Sys2Proof.Machine.execCopy g ds dd ada sae adb dae bar bae kp pt s
  | .copyp g ds dd ada sae adb dae bar bae kp pt => Sys2Proof.Machine.execCopyp g ds dd ada sae adb dae bar bae kp pt s
  | .cpack g ds dd ada sae adb dae bar bae kp pt fac => Sys2Proof.Machine.execCpack g ds dd ada sae adb dae bar bae kp pt fac s
  | .cunpk g ds dd ada sae adb dae bar bae kp pt fac => Sys2Proof.Machine.execCunpk g ds dd ada sae adb dae bar bae kp pt fac s
  | .pub g ka kb bar bae kp pt => Sys2Proof.Machine.execPub g ka kb bar bae kp pt s
  | .lanternHandlerInstruction w => Sys2Proof.Machine.execLanternHandlerInstruction w s
  | .imageUnload ctx image => Sys2Proof.Machine.execImageUnload ctx image s
  | .tdispRequest ctx msg => Sys2Proof.Machine.execTdispRequest ctx msg s
  | .spdmSession sess secret => Sys2Proof.Machine.execSpdmSession sess secret s

end Sys2Proof.Machine
end

