-- ==== Sys2Proof/Machine/Schedule.lean ====
section
/-!
DEFINITION. The end of a cycle: %cycle advances, and what the part may do in the new cycle enters the agenda in a fixed order,
which stands for the part's choice where the manual leaves one (log 1). An event whose conditions do not hold at its turn
does nothing.
-/
namespace Sys2Proof.Machine

/-- The accesses of a core as events: to memory, to remote SPM, messages, and the decrements of join words. -/
def accessTurns (c : Nat) (a : Access) : List Turn :=
  let open_ := match a.op with
    | .lmsg _ => [Turn.message c a.id]
    | .launch _ => []
    | .joinDec => [.join c a.id]
    | .store | .rmw _ => [.perform c a.id, .beat c a.id]
    | .load _ _ | .pref _ => [.request c a.id, .beat c a.id]
    | .fence _ | .arrive _ _ => []
  open_ ++ [.answer c a.id, .reply c a.id]

/-- Whether the sequencer cycles of a core go on (R218, R221, R358, R373, R437). -/
def sequencerRuns (s : State) (c : Nat) (k : Core) : Bool := k.tsq.stopped.isNone && mayIssue s c

/-- The units of the sequencer and the matrix engine in a sequencer cycle. -/
def sequencerTurns (s : State) (c : Nat) (k : Core) : List Turn :=
  if sequencerRuns s c k then [.landing c, .chain c, .repeated c, .nest c, .rowPop c, .attached c] else []

/-- The copy engine: promises first, since a command that completes in the cycle after its promise is late (R209, R257). -/
def copyTurns (s : State) (c : Nat) (k : Core) : List Turn :=
  if k.preempting || k.cpe.isEmpty then [] else
  (k.cpe.filter fun x => x.pt && !x.missed && decide (x.promise < s.cycle)).map (fun x => .promise c x.id) ++
    (match k.cpe with
      | x :: _ => if 0 < x.toSrc + x.toDst then [.beat c (aloneBit + x.id)] else []
      | [] => []) ++ [.copyFault c, .publish c, .copyDone c]

/-- The traps of a core's fibres that wait to be taken; none is while a forced save is in progress (R291, R373). -/
def trapTurns (c : Nat) (k : Core) : List Turn :=
  if k.preempting then [] else
  k.blocks.flatMap fun (b, x) => x.fibres.flatMap fun (f, y) =>
    (match y.status with
      | .trapping _ => [Turn.enter c b f]
      | _ => []) ++ (if y.depth = 0 ∧ ¬(y.pending.isEmpty ∧ x.pending.isEmpty) then [.pending c b f] else [])

/-- The issue of a core: the FIU, the tile program's bundle, and the stream word with its scout. -/
def issueTurns (s : State) (c : Nat) (k : Core) : List Turn :=
  [Turn.fiu c] ++ (if sequencerRuns s c k && k.tsq.active then [.issue (.tile c)] else []) ++
    (if mayIssue s c && k.prs.isSome then [.issue (.producer c), .scout c] else [])

/-- The ends of a core's fibres and blocks, and fibres that become urgent. -/
def endTurns (s : State) (c : Nat) (k : Core) : List Turn :=
  k.blocks.flatMap fun (b, x) =>
    (x.fibres.filterMap fun (f, y) =>
      match y.status with
      | .ended => some (Turn.ctxFree c b f)
      | .ready => if y.urgentAt.isNone ∧ y.readyAt + 1024 ≤ s.cycle then some (.urgent c b f) else none
      | _ => none) ++ (if x.live.isEmpty then [.blockEnd c b] else [])

/-- The leases of a core's L1 lines that end in this cycle: at their bound, or earlier as the part chooses (R70, log 9). -/
def leaseTurns (s : State) (c : Nat) (k : Core) : List Turn :=
  (k.l1.filter fun p => decide (p.2.ends ≤ s.cycle) || !Config.delayed s.cycle (2 ^ 64 * (c + 1) + p.1)).map fun p => .lease c p.1

/-- A slice's fills, merge windows, prefetches and sends, and in every second cycle its Lantern (R386, R437). -/
def sliceTurns (s : State) (n : Nat) (x : Slice) : List Turn :=
  x.merges.flatMap (fun p => [Turn.fill n p.1, .window n p.1]) ++ x.prefetches.map (fun p => .prefetched n p.line) ++
    (if x.sends.isEmpty then [] else [.send n]) ++
    (if s.cycle % 2 = 0 ∧ !suppressed s (sliceIsland n) s.cycle ∧ (x.run.isSome ∨ !x.events.isEmpty) then [.lantern n] else [])

/-- The hub: launches and seal requests, a record for every queue whose head is ready (R345), placement, saves, invalidations,
kills, keys, gang slices and sealing. -/
def hubTurns (s : State) : List Turn :=
  let cls := List.range 8
  Turn.submit :: .take :: ((List.range 128).filter fun q => headReady s q || sealReady s q).map (fun _ => .take) ++ (s.launches.filter fun p => p.2.left = 0).map (fun p => .finish p.1) ++
    (if s.succs.isEmpty then [] else [.successor]) ++
    s.launches.flatMap (fun p => p.2.lastAt.map fun q => .stagger p.1 q.1) ++
    (if s.order.isEmpty then [] else cls.map .aging ++ cls.map .place) ++
    s.held.map (fun p => .streamStart p.1) ++
    s.cores.flatMap (fun (c, k) => if k.preempt.isEmpty then [] else [.nodeSave c, .forcedSave c, .restore c]) ++
    (if s.tivaBusy.isSome then [.invalidated] else []) ++ (if devBits s 0x9C00 9 9 = 1 then [.killed] else []) ++
    (if devBits s 0x7000 17 17 = 1 then [.keyed] else []) ++ (if gangArmed s then [.sliceStart, .sliceEnd] else []) ++
    (if s.peers.isEmpty then [] else [.peers]) ++
    cls.flatMap (fun n => (if (s.cluster n).notices.isEmpty then [] else [.notice n]) ++
      (if (s.core (Config.coresPerCluster * n)).hasMonitor s n then [.monitor n] else [])) ++
    (if s.loads.isEmpty then [] else [.sealImage]) ++ (if throttleDue s then [.throttle] else [])

/-- The moorings whose timers have run out: after a record that enters in the same cycle (R30). -/
def mooringTurns (s : State) : List Turn :=
  s.cores.flatMap fun (c, k) =>
    (k.moorings.filter fun p => p.2.expiry.any fun t => decide (t ≤ s.cycle)).map fun p => .mooring c p.1

/-- Whether the manual leaves the cycle of a turn open, once its event is possible: accesses, walks, fills,
the ends of engine commands, deliveries, and the work of the hub (R11, R87, R257, R342, R346, R364). -/
def Turn.open_ : Turn → Bool
  | .request _ _ | .perform _ _ | .answer _ _ | .message _ _ | .join _ _ | .submit | .fill _ _
  | .walk _ _ | .copyDone _ | .copyFault _ | .publish _ | .scout _ | .streamStart _ | .prefetched _ _ | .send _
  | .ctxFree _ _ _ | .blockEnd _ _ | .take | .finish _ | .successor | .place _ | .nodeSave _ | .forcedSave _ | .restore _
  | .invalidated | .killed | .keyed | .peers | .notice _ | .monitor _ | .sealImage => true
  | _ => false

/-- The turns of a cycle but for those that the part puts off, none for longer than an open bound (R87, log 1). -/
def notDelayed (cycle : Nat) (l : List Turn) : List Turn :=
  l.zipIdx.filterMap fun (t, i) =>
    if t.open_ && Config.delayed cycle i && decide (cycle % (Config.delayBound + 1) ≠ 0) then none else some t

/-- The cores that hold nothing and have had no turn yet, in a cycle that is not to be charged NOFIBRE (R422, R437). -/
def freshCores (s : State) : List Nat :=
  (List.range Config.cores).filter fun c =>
    (s.cores.find? c).isNone && (suppressed s (islandOf c) s.cycle || (!s.order.isEmpty && heldByStagger s c))

/-- What may happen in a cycle, in order. -/
def possibleTurns (s : State) : List Turn :=
  s.cores.flatMap (fun (c, k) => leaseTurns s c k ++ sequencerTurns s c k) ++
    (runningWalks s).map (fun w => .walk w.2.1 w.2.2) ++
    s.cores.flatMap (fun (c, k) => k.pend.flatMap (accessTurns c) ++ copyTurns s c k ++ trapTurns c k) ++
    s.slices.flatMap (fun (n, x) => sliceTurns s n x) ++ [.flash] ++
    s.cores.flatMap (fun (c, k) => issueTurns s c k ++ endTurns s c k ++ (if k.lampQ.isEmpty then [] else [.lamp c])) ++
    (freshCores s).map .fiu ++ hubTurns s ++ mooringTurns s

/-- The islands that an access's requests go to: its slice's, and for H = 0b10 the next line's, unless it goes to a scratchpad or
a leased copy serves it. -/
def accessIslands (s : State) (c id : Nat) : List Nat :=
  match findAccess s c id with
  | none => []
  | some a =>
    if a.spm.isSome ∨ (a.kind = 0 ∧ a.loads ∧ (l1Hit s c a (((s.fibre c a.slot a.fib).map (·.acqTime)).getD 0)).isSome) then []
    else [sliceIsland (sliceOf (dieOf c) a.pa), sliceIsland (sliceOf (dieOf c) (if a.hint = 2 then a.pa + 128 else a.pa))]

/-- The islands other than a core's that must accept a turn as a new request (R436, R437): a slice's for accesses, messages and
prefetches, a stack's for fills and walks, the dispatcher's for records, blocks and sealing, and the
security block's for a key command. Other units ask their slices by `askAlone` and `CpeCmd.shut`, and
the ports of peers and the host by `portShut`. -/
def Turn.islands (s : State) : Turn → List Nat
  | .request c id | .perform c id | .message c id | .join c id => accessIslands s c id
  | .prefetched n line => [sliceIsland (sliceOf (n / 64) (128 * line))]
  | .send n => match nextSend s (s.slice' n).sends [] with
    | some m => if m.lantern then [sliceIsland m.dest] else []
    | none => []
  | .fill _ line => stackIslands (128 * (line % aloneBit))
  | .walk ctx _ => stackIslands (devBits s (offCX ctx 0) 51 14 * 2 ^ 14)
  | .submit | .take | .place _ | .sealImage => [hubIsland]
  | .keyed => [keyIsland]
  | _ => []

/-- The turns of the part in a cycle; an island takes no new request in a cycle that it suppresses (R437). -/
def dueTurns (s : State) : List Turn :=
  notDelayed s.cycle ((possibleTurns s).filter fun t => !(t.islands s).any fun n => suppressed s n s.cycle)

/-- A new cycle with its turns; the cores' accounts of the old one are closed (R420). -/
def nextCycle (s : State) : State :=
  let s := (s.cores.map (·.1)).foldl closeCore s
  let s := { s with cycle := s.cycle + 1 }
  { s with agenda := dueTurns s }

/-- The core on which a cluster places its next block, as the part chooses (R346). -/
def chosenCore (s : State) (cl : Nat) : Option Nat :=
  (nextPlacement s cl).bind fun p => p.2[Config.coreChoice s.placeNum % p.2.length]?

-- The turns of agents that fetch for themselves

/-- A fetched bundle issues by its kind (R144, R220, R245, R253). -/
def issueWord (w : BitVec 256) (s : State) : Out :=
  if Decode.bundleRep w && Decode.bundleNest w then .refused .reservedEncoding
  else if Decode.bundleNest w then execLoopNestBundle w s
  else if Decode.bundleRep w then execRepeatPrefix w s
  else execBundleIssue w s

/-- Whether the fetch of the next bundle may stall: at the target of a branch, the exit of a LOOP of count 0, the start of a
long body reached from its LEND, or a new page (R296). -/
def fetchPoint (t : Tsq) : Bool := t.jumped || decide (t.pc.toNat % 4096 = 0)

/-- Whether the part still awaits a bundle at such a point: as long as it chooses, within the open bound (log 1). -/
def fetchStalls (s : State) (c : Nat) (t : Tsq) : Bool :=
  fetchPoint t && decide (s.cycle % (Config.delayBound + 1) ≠ 0) && Config.delayed s.cycle (2 ^ 64 * (c + 1) + 2 ^ 63)

/-- The loop buffer takes a bundle of its body as it is fetched (R299). -/
def keepBundle (t : Tsq) (w : BitVec 256) : Tsq :=
  if t.holds t.pc then { t with bodyWords := t.bodyWords.set t.pc.toNat w } else t

/-- A bundle from the loop buffer, which costs no fetch (R231, R299). -/
def heldBundle (t : Tsq) : Option (BitVec 256) := if t.holds t.pc then t.bodyWords.find? t.pc.toNat else none

/-- The tile program stops with POISON_READ at an uncorrectable error that its sequencer met, with a stop record of engine 0
(R366, R440, log 28); the mark goes. -/
def badStop (s : State) (c : Nat) (q : TCtx) : State :=
  stopTile ((badUnit s q.k.ctx (islandOf c)).modCore c fun k => { k with tsq := { k.tsq with bad := false } }) c q.b {
    code := 0x03, word := wordAt s q.k.ctx q.pc, info0 := 0xFFFF
    stop := some { trap := 0x03, spc := q.q.spc, progress := q.q.progress } }

/-- The page for whose walk the fetch of a tile program waits. -/
def fetchWalk (t : Tsq) : Option Nat :=
  match t.wait with
  | some (.xlate _ va) => some (va / 4096)
  | _ => none

/-- The tile program of a core fetches its bundle and issues it (R142, R220, R362); a held trap goes before the fetch. A bundle
that the loop buffer holds needs no fetch; at a fetch wait point the fetch may stall, and it waits for the walk of a page that
has no cached translation (R296, R385). The first bundle of a grant comes after the gather (R46, R206). -/
def issueBundle (s : State) (c : Nat) : Out :=
  let s := gatherDue s c
  match tileCtx s c with
  | none => .next s
  | some q =>
    let t := q.q.tsq
    if tileHeld q.q then .next s
    else if t.bad then .next (badStop s c q)
    else if !t.held.isEmpty then execBundleIssue 0 s
    else match heldBundle t with
      | some w => issueWord w s
      | none =>
        if fetchStalls s c t then .next s
        else if walkNeeded s (dieOf c) q.k.ctx (q.pc.toNat / 4096) (fetchWalk t) then
          .next (askWalk (s.modCore c fun k => { k with tsq := { k.tsq with wait := some (.xlate 3 q.pc.toNat) } }) (dieOf c) q.k.ctx
            (q.pc.toNat / 4096))
        else match readCode s q.k.ctx q.pc.toNat 32 with
          | .fault e => .next (q.trap s {
              code := 0x04, addr := q.pc.setWidth 64, info0 := BitVec.ofNat 64 (e.reason + 768), info1 := BitVec.ofNat 64 e.level })
          | .unsealed => .next (q.trap s { code := 0x08, addr := q.pc.setWidth 64, info0 := 1 })
          | .poison => .next (q.trap (badVirt s q.k.ctx q.pc.toNat 32) { code := 0x03, addr := q.pc.setWidth 64, info0 := 0xFFFF })
          | .ok l =>
            let w := BitVec.ofNat 256 (ofBytes l)
            issueWord w (s.modCore c fun k => { k with tsq := keepBundle k.tsq w })

/-- A running handler's next instruction (R386). -/
def issueLantern (s : State) (n : Nat) : Out :=
  match (s.slice' n).run with
  | none => .next s
  | some r => execLanternHandlerInstruction (BitVec.ofNat 32 (lanternRaw s n r)) s

/-- A Lantern's cycle: a handler that has returned or used its budget ends, and an idle Lantern takes an event; otherwise the
handler's next instruction is issued (R386, R393, R396). -/
def lanternTurns (n : Nat) (s : State) : Out :=
  match (s.slice' n).run with
  | none => execLanternDispatch n s
  | some r =>
    if r.pc = firmwarePc then execLanternReturn n s
    else if r.budget ≤ r.used then execLanternBudgetAbort n s
    else .next { s with agenda := .issue (.lantern n) :: s.agenda }

/-- The debug monitor of a cluster takes the oldest notice and serves the host's request (R407, R410). -/
def monitorTurn (n : Nat) (s : State) : Out :=
  let s := takeNotice s n
  match pageNum s n 16 4 with
  | some 2 => execDebugWrite n s
  | some 3 => execDebugResume n s
  | some 4 => execDebugBpset n s
  | _ => execDebugRead n s

end Sys2Proof.Machine
end

