-- ==== Sys2Proof/Machine/Step.lean ====
section
/-!
DEFINITION. One step: the oldest turn of the agenda is taken, or a new cycle begins. And the placing of an instruction
where the next step fetches it.
-/
namespace Sys2Proof.Machine

/-- What a fetch gives, run. -/
def runFetched (r : Fetched) (s : State) : Host.Outcome State Fault Refusal :=
  match r with
  | .run i => exec i s
  | .took s => .next s
  | .bad r => .refused r

/-- The fetch of an agent's next instruction, if it is one whose instruction is fetched and decoded here. -/
def fetchFor (a : Agent) (s : State) : Fetched :=
  match a with
  | .fibre c b f => fetchFibre s c b f
  | .producer c => fetchProducer s c
  | _ => .took s

/-- The turn of a fibre to issue (R349): its instruction is fetched and run. One that issues joins a gang of this cycle; where none is
left it stays at its instruction. A fibre that no longer can issue, or whose gang is being re-formed, does not. -/
def fibreTurn (c b f : Nat) (s : State) : Host.Outcome State Fault Refusal :=
  match (s.fibre c b f).filter Fibre.canIssue with
  | none => .next s
  | some x =>
  let pc := x.pc.toNat
  let free := gangFree (s.core c) s.cycle pc && !(hasN (s.core c).last.reform pc && decide ((s.core c).last.cycle = s.cycle))
  match runFetched (fetchFor (.fibre c b f) s) s with
  | .next t =>
    .next (if !hasIssued c b f s t then holdReady c b f s t else if free then joinGang t c b f pc else denyIssue c b f s)
  | o => if free then o else .next s

/-- An agent fetches and issues its next instruction. -/
def issueTurn (a : Agent) (s : State) : Host.Outcome State Fault Refusal :=
  match a with
  | .fibre c b f => fibreTurn c b f s
  | .tile c => issueBundle s c
  | .lantern n => issueLantern s n
  | a => runFetched (fetchFor a s) s

/-- A turn of the agenda. -/
def takeTurn (t : Turn) (s : State) : Host.Outcome State Fault Refusal :=
  match t with
  | .issue a => issueTurn a { s with cur := a }
  | .event a i => exec i { s with cur := a }
  | .landing c => execLatencyWriteLanding c s
  | .chain c => execChstepStep c s
  | .repeated c => execRepeatIssue c s
  | .nest c => execLoopNestIteration c s
  | .rowPop c => execBloadqRowPop c s
  | .attached c => execAttachedOpStart c s
  | .request c i => execL2Request c i s
  | .perform c i => execWritePerformed c i s
  | .answer c i => execLoadDataReturn c i s
  | .beat c i => execNetslotBeat c i s
  | .reply c i => execNetslotReply c i s
  | .message c i => execLmsgArrival c i s
  | .join c i => execJoinDecrement c i s
  | .submit => execLaunchInboxArrival s
  | .lease c l => execL1LeaseExpiry c l s
  | .fill n l => execL2FillArrival n l s
  | .window n l => execMergeWindowClose n l s
  | .walk x p => execPageWalk x p s
  | .copyDone c => execCpeCommandComplete c s
  | .copyFault c => execCpeCommandFault c s
  | .publish c => execPublishPoint c s
  | .promise c i => execPromiseExpiry c i s
  | .enter c b f => execTrapEntry c b f s
  | .pending c b f => execPendingTrapDelivery c b f s
  | .flash => execFlashTick s
  | .fiu c => execFiuIssue c s
  | .scout c => execScoutHeaderRead c s
  | .streamStart c => execStreamStart c s
  | .lantern n => lanternTurns n s
  | .prefetched n l => execLanternPrefetchComplete n l s
  | .send n => execLanternSendDelivery n s
  | .urgent c b f => execFibreUrgent c b f s
  | .ctxFree c b f => execFibreContextFree c b f s
  | .blockEnd c b => execBlockEnd c b s
  | .lamp c => execLampGrant c s
  | .take => takeNext s
  | .throttle => .next (throttle s)
  | .finish i => execLaunchCompletion i s
  | .successor => execSuccessorInboxCopy s
  | .aging n => execPlacementHeadAging n s
  | .stagger i n => execStaggerExpiry i n s
  | .place n => match chosenCore s n with
    | some c => execBlockPlacement n c s
    | none => .next s
  | .nodeSave c => execNodeBoundarySave c s
  | .forcedSave c => execForcedSaveComplete c s
  | .restore c => .next (restoreDue s c)
  | .invalidated => execTlbInvalidateComplete s
  | .killed => execContextKillComplete s
  | .keyed => execKeycmdComplete s
  | .sliceStart => execGangSliceStart s
  | .sliceEnd => execGangSliceEnd s
  | .peers => execPeerTrafficRelease s
  | .notice n => execBreakpointNotice n s
  | .monitor n => monitorTurn n s
  | .sealImage => execSealImage s
  | .mooring c k => execMooringTimerExpiry c k s

/-- One step of the machine. -/
def step (s : State) : Host.Outcome State Fault Refusal :=
  match s.agenda with
  | [] => .next (nextCycle s)
  | t :: rest => takeTurn t { s with agenda := rest }

-- Placing an instruction (log 17)

/-- The physical and virtual address at which withFetchWord places a word. -/
def placeAt : Nat := 0x10000

/-- The context's page that holds the word, translated and sealed. -/
def placePage (s : State) (bytes : List Byte) : State :=
  { s with
    mem := memPut s.mem placeAt bytes
    tags := tagPut s.tags none placeAt bytes.length
    seals := s.seals.set (placeAt / 4096) { ctx := 0, marks := [] }
    tlb := { ctx := 0, page := placeAt / 4096, frame := placeAt / 4096, rd := true, wr := false, ex := true,
             sealed_ := true, key := 0 } :: s.tlb }

/-- A block of core 0 with one fibre at the placed word. -/
def placeBlock : Block :=
  { nfibre := 1, win := 256, bars := [0], spmLen := 0, entry := BitVec.ofNat 56 placeAt, fibres := [(0, { pc := BitVec.ofNat 56 placeAt })] }

/-- A block of core 0 whose tile program runs: its fibre waits in the gate. -/
def placeGateBlock : Block :=
  { placeBlock with
    fibres := [(0, { pc := BitVec.ofNat 56 placeAt, status := .waiting .lamp })]
    gate := some { core := 0, slot := 0, record := 0, gatepc := BitVec.ofNat 56 placeAt }, requested := true }

/-- The state with an instruction where the next step fetches it: a fibre word at the PC of a fibre of core 0, a stream word
at the PC of its producer slot, a bundle, or an X operation alone in a bundle, at the PC of its tile program. -/
def State.withFetchWord (s : State) (nbits w : Nat) : State :=
  let at_ := BitVec.ofNat 56 placeAt
  if nbits = 32 then
    let s := (placePage s (toBytes 4 w)).modCore 0 fun k => { k with ctx := 0, prs := some { pc := at_ } }
    { s with agenda := [.issue (.producer 0)] }
  else if nbits = 24 ∨ 64 < nbits then
    let w := if nbits = 24 then (w % 2 ^ 24) * 2 ^ 232 else w
    let s := (placePage s (toBytes 32 w)).modCore 0 fun k =>
      { k with ctx := 0, lamp := some 0, grants := 1, blocks := [(0, placeGateBlock)], tsq := { active := true, grant := 1, pc := at_ } }
    { s with agenda := [.issue (.tile 0)] }
  else
    let s := (placePage s (toBytes 32 w)).modCore 0 fun k => { k with ctx := 0, blocks := [(0, placeBlock)] }
    { s with agenda := [.issue (.fibre 0 0 0)] }

end Sys2Proof.Machine
end

