-- ==== Sys2Proof/Safety.lean ====
section
/-!
DEFINITION. The terms that claims use: the invariant that every step keeps, and the conditions on the state and the operands
alone under which an instruction issues.
-/
namespace Sys2Proof.Safety
open Sys2Proof.Machine

/-- Memory is in its canonical form. -/
def MemOk (s : State) : Prop := Memory.wf s.mem = true

/-- The issuer described by `q` has its turn, and nothing stops the instruction with header `h` before its operands are
looked at: no trap is pending, the word carries no must-understand hint and no trap-on-execute mark, and its guard may be
read (R138, R151, R155, R356). -/
structure FibreTurn (s : State) (h : FHdr) (q : FCtx) : Prop where
  cur : s.cur = .fibre q.c q.b q.f
  block : s.block q.c q.b = some q.k
  fibre : s.fibre q.c q.b q.f = some q.x
  can : q.x.canIssue = true
  own : q.x.pending = []
  shared : q.k.pending = []
  hint : h.m = 0
  unmarked : marked s q.k.ctx q.x.pc = false
  free : heldBack q.x s.cycle [256 + h.gp.toNat] = false
  hdr : q.h = h
  guardIs : q.guard = guardOf h q.x

/-- The sources are full and not poisoned, and neither they nor the predicate sources are held back (R138 steps 3 to 5,
R155). -/
structure Readable (s : State) (q : FCtx) (srcs : List Src) (ps : List Nat) : Prop where
  free : heldBack q.x s.cycle (srcs.flatMap Src.regs ++ ps.map (256 + ·)) = false
  full : ∀ r ∈ srcs, ∀ n ∈ r.regs, (q.x.reg q.k.win n).full = true
  clean : ∀ r ∈ srcs, ∀ n ∈ r.regs, (q.x.reg q.k.win n).poison = false

/-- An instruction with these operands runs: the turn is the issuer's, its guard holds, its sources can be read and none of
its destinations is empty (R138, R188). -/
structure Issues (s : State) (h : FHdr) (q : FCtx) (srcs : List Src) (ps : List Nat) (dsts : List (Nat × Nat)) : Prop where
  turn : FibreTurn s h q
  guard : q.guard = true
  read : Readable s q srcs ps
  write : dstEmpty dsts q.x q.k.win = false

/-- When its operands are ready, the instruction `i` puts `v` into register `d`, readable after `lat` cycles, and its fibre goes
on to the next word (R152, R155). -/
def Result32 (s : State) (h : FHdr) (q : FCtx) (srcs : List Src) (i : Instr) (d : BitVec 8) (v : Word) (lat : Nat) : Prop :=
  Issues s h q srcs [] [(d.toNat, 1)] → exec i s = .next (q.putReg s d.toNat v lat)

/-- When its operands are ready, the instruction `i` puts `v` into pair `d`, readable after `lat` cycles, and its fibre goes on
to the next word (R152, R155). -/
def Result64 (s : State) (h : FHdr) (q : FCtx) (srcs : List Src) (i : Instr) (d : BitVec 8) (v : DWord) (lat : Nat) : Prop :=
  Issues s h q srcs [] [(d.toNat, 2)] → exec i s = .next (q.putPair s d.toNat v lat)

/-- When its operands are ready, the instruction `i` puts `v` into predicate `p`, readable after `lat` cycles, and its fibre
goes on to the next word (R152, R155). -/
def ResultPred (s : State) (h : FHdr) (q : FCtx) (srcs : List Src) (ps : List Nat) (i : Instr) (p : BitVec 8) (v : Bool)
    (lat : Nat) : Prop :=
  Issues s h q srcs ps [] → exec i s = .next (q.putPred s p.toNat v lat)

/-- When its operands are ready, the instruction `i` takes the trap `t` (R354, R362). -/
def Takes (s : State) (h : FHdr) (q : FCtx) (srcs : List Src) (dsts : List (Nat × Nat)) (i : Instr) (t : Trap) : Prop :=
  Issues s h q srcs [] dsts → exec i s = .next (takeTrap s q.c q.b q.f t)

/-- A precise trap at the issuer's own instruction (R362). -/
def ownTrap (s : State) (q : FCtx) (code : BitVec 8) (addr info0 info1 : BitVec 64) : Trap :=
  { code := code, pc := q.x.pc.setWidth 64, word := wordAt s q.k.ctx q.x.pc, addr := addr, info0 := info0, info1 := info1 }

/-- When its operands are ready, the instruction `i` leaves an access `a` outstanding (R188, R189). -/
def Accesses (s : State) (h : FHdr) (q : FCtx) (srcs : List Src) (dsts : List (Nat × Nat)) (i : Instr) (a : Access) : Prop :=
  Issues s h q srcs [] dsts → exec i s = .next (q.issueAccess s a)

/-- The address passes the checks of R187 for an access of `n` bytes, with the cached translation `t`. Access: 0 read, 1
write, 2 read-modify-write. -/
structure Mapped (s : State) (q : FCtx) (acc va n : Nat) (t : Tlb) : Prop where
  canonical : va < 2 ^ 56
  aligned : va % n = 0
  cached : tlbFind s q.k.ctx (va / 4096) = some t
  allowed : permit s q.k.ctx acc t = .ok t

/-- The range passes the checks of R61 in the buffer `b` of handle `hd`. -/
structure InBuffer (q : FCtx) (hd off n : Nat) (b : Buf) : Prop where
  held : q.k.handles.find? hd = some b
  valid : b.valid = true
  inside : off + n ≤ b.len
  aligned : off % n = 0

/-- No earlier access of the issuer is still to be performed (R85). -/
def Drained (s : State) (q : FCtx) : Prop := openOf s q.c q.b q.f = []

/-- The slice of a physical address serves a request of core `c` now: its island accepts one in this cycle, and it holds the
line with no fill of it behind a handler (R72, R103, R437). -/
def LineHere (s : State) (c pa : Nat) : Prop :=
  sliceShut s (dieOf c) pa = false ∧ lineReady (s.slice' (sliceOf (dieOf c) pa)) (pa / 128) = true

/-- The slice of a physical address does not serve a request of core `c` now. -/
def LineAway (s : State) (c pa : Nat) : Prop :=
  sliceShut s (dieOf c) pa = true ∨ lineReady (s.slice' (sliceOf (dieOf c) pa)) (pa / 128) = false

/-- The arrivals of mask `j` of the issuer's block once `a` has joined them (R36). -/
def arrivalsWith (q : FCtx) (j : Nat) (a : Arrival) : List Arrival := (q.k.masks.get j {}).arrived ++ [a]

/-- The issuer is the last enrolled fibre of mask `j` to arrive, and every arrival stands at the same address (R36, R37). -/
structure LastArrival (q : FCtx) (j : Nat) (a : Arrival) : Prop where
  enrolled : hasN (q.k.masks.get j {}).enrolled q.f = true
  full : ({ (q.k.masks.get j {}) with arrived := arrivalsWith q j a } : Mask).full = true
  together : ∀ b ∈ arrivalsWith q j a, b.pc = q.x.pc
  once : ((arrivalsWith q j a).map (·.fib)).Nodup

/-- A rendezvous instruction: the last arrival ends the round, and every fibre of it goes on with its result; an earlier one
waits; a fibre that is not enrolled passes (R36 to R38, R176). -/
def Meets (s : State) (h : FHdr) (q : FCtx) (srcs : List Src) (ps : List Nat) (dsts : List (Nat × Nat)) (i : Instr) (j : Nat)
    (a : Arrival) : Prop :=
  (Issues s h q srcs ps dsts → LastArrival q j a → ∃ t k, exec i s = .next t ∧ t.mem = s.mem ∧ t.block q.c q.b = some k ∧
    (k.masks.get j {}).arrived = [] ∧ (k.masks.get j {}).enrolled = (q.k.masks.get j {}).enrolled ∧
    ∀ b ∈ arrivalsWith q j a, ∀ x, q.k.fibres.find? b.fib = some x → t.fibre q.c q.b b.fib =
      some ((if b.active then withResult ((arrivalsWith q j a).filter (·.active)) b q.k.win x else x).issued s.cycle)) ∧
  (Issues s h q srcs ps dsts → hasN (q.k.masks.get j {}).enrolled q.f = true →
    ({ (q.k.masks.get j {}) with arrived := arrivalsWith q j a } : Mask).full = false → ∃ t k y, exec i s = .next t ∧
      t.mem = s.mem ∧ t.block q.c q.b = some k ∧ (k.masks.get j {}).arrived = arrivalsWith q j a ∧
      t.fibre q.c q.b q.f = some y ∧ y.status = .waiting (.rejoin j) ∧ y.pc = q.x.pc ∧ y.regs = q.x.regs) ∧
  (Issues s h q srcs ps dsts → hasN (q.k.masks.get j {}).enrolled q.f = false → exec i s = .next (q.retire s q.x))

/-- A form of a memory instruction: the instruction, its sources and destinations, its access code (0 read, 1 write, 2
read-modify-write), and the access that it leaves outstanding. -/
structure MemForm where
  instr : Instr
  srcs : List Src
  dsts : List (Nat × Nat)
  acc : Nat
  access : Access

/-- A form of a global access at the address `va`: it is left outstanding at the physical address of a cached translation; it
takes PAGE_FAULT at an address that is not canonical or that the translation does not allow, ALIGN at a misaligned one; and it
waits for a walk where no translation is cached (R187, R362, R380, R385). -/
def GlobalForm (s : State) (h : FHdr) (q : FCtx) (va : Nat) (m : MemForm) : Prop :=
  let n := m.access.size
  let fault (e : PFault) : Trap :=
    ownTrap s q 0x04 (BitVec.ofNat 64 va) (BitVec.ofNat 64 (e.reason + 256 * m.acc)) (BitVec.ofNat 64 e.level)
  (∀ t, Mapped s q m.acc va n t →
    Accesses s h q m.srcs m.dsts m.instr { m.access with va := va, pa := t.frame * 4096 + va % 4096, key := t.key }) ∧
  (2 ^ 56 ≤ va → Takes s h q m.srcs m.dsts m.instr (fault ⟨0, 0⟩)) ∧
  (va < 2 ^ 56 → va % n ≠ 0 →
    Takes s h q m.srcs m.dsts m.instr (ownTrap s q 0x05 (BitVec.ofNat 64 va) (BitVec.ofNat 64 n) 0)) ∧
  (∀ t e, va < 2 ^ 56 → va % n = 0 → tlbFind s q.k.ctx (va / 4096) = some t → permit s q.k.ctx m.acc t = .error e →
    Takes s h q m.srcs m.dsts m.instr (fault e)) ∧
  (va < 2 ^ 56 → va % n = 0 → tlbFind s q.k.ctx (va / 4096) = none → Issues s h q m.srcs [] m.dsts →
    ∃ t y, exec m.instr s = .next t ∧ t.fibre q.c q.b q.f = some y ∧ y.status = .waiting (.xlate m.acc va) ∧ y.pc = q.x.pc ∧
      (dieOf q.c, q.k.ctx, va / 4096) ∈ t.walks ∧ t.mem = s.mem)

/-- A form of a scratchpad access at an offset of handle `hd`: it is left outstanding at its place in the buffer; it takes
OWNERSHIP for a null or invalid handle, BOUNDS outside the buffer and ALIGN at a misaligned offset (R61, R362). -/
def SpmForm (s : State) (h : FHdr) (q : FCtx) (hd off : Nat) (m : MemForm) : Prop :=
  let n := m.access.size
  (∀ b, InBuffer q hd off n b → Accesses s h q m.srcs m.dsts m.instr { m.access with spm := some b, pa := b.base + off }) ∧
  ((∀ b, q.k.handles.find? hd = some b → b.valid = false) →
    Takes s h q m.srcs m.dsts m.instr (ownTrap s q 0x07 0 (BitVec.ofNat 64 hd) 0)) ∧
  (∀ b, q.k.handles.find? hd = some b → b.valid = true →
    (b.len < off + n → Takes s h q m.srcs m.dsts m.instr (ownTrap s q 0x06 (BitVec.ofNat 64 off) 0 0)) ∧
    (off + n ≤ b.len → off % n ≠ 0 →
      Takes s h q m.srcs m.dsts m.instr (ownTrap s q 0x05 (BitVec.ofNat 64 off) (BitVec.ofNat 64 n) 0)))

/-- The tile program of core `c`, as `q` describes it, has its turn, and its next bundle issues: the program is not stopped,
the bundle's cycle has come, no trap is held, the bundle is not marked, and no accumulator row of the core holds an uncorrectable
error (R220, R236, R359, R440). -/
structure TileTurn (s : State) (c : Nat) (q : TCtx) : Prop where
  cur : s.cur = .tile c
  ctx : tileCtx s c = some q
  may : tileHeld q.q = false
  own : q.q.tsq.held = []
  unmarked : marked s q.k.ctx q.pc = false
  sound : q.q.acmBad = []

/-- The state after the issue of a bundle whose slots do nothing: the next bundle is the following one, no earlier than the
next sequencer cycle (R142, R220). -/
def bundleIssued (q : TCtx) (s : State) : State :=
  s.modCore q.c fun k => { k with
    issueNo := k.issueNo + 1
    tileIssued := some (s.cycle, q.pc.toNat)
    tsq := { k.tsq with pc := k.tsq.pc + 32, bundles := k.tsq.bundles + 1, wait := none, passed := none,
                        holdTill := k.seqCyc + 1, clear := true, jumped := false, prefix_ := none } }

/-- The slot operation `i`, alone in its bundle under the guard `g`, leaves the state `t`; with a false guard its bundle does
nothing (R143, R220). -/
def Tile (s : State) (c : Nat) (q : TCtx) (g : SGuard) (i : Instr) (t : State) : Prop :=
  TileTurn s c q → (guardHolds q.q.tsq g = true → exec i s = .next t) ∧
    (guardHolds q.q.tsq g = false → exec i s = .next (bundleIssued q s))

/-- The slot operation `i` has one result: `v` lands in `dst` after `lat` sequencer cycles (R221). -/
def Lands (s : State) (c : Nat) (q : TCtx) (g : SGuard) (i : Instr) (slot lat : Nat) (dst : Dest) (v : Nat) : Prop :=
  Tile s c q g i (q.land slot lat dst v (bundleIssued q s))

/-- The slot operation `i` takes the tile trap `t` where its guard holds, and its bundle changes nothing else (R220, R358). -/
def TileTraps (s : State) (c : Nat) (q : TCtx) (g : SGuard) (i : Instr) (t : TTrap) : Prop :=
  TileTurn s c q → guardHolds q.q.tsq g = true → exec i s = .next (q.trap s t)

/-- The slot operation `i` waits at issue where its guard holds (R220, R224). -/
def TileWaits (s : State) (c : Nat) (q : TCtx) (g : SGuard) (i : Instr) (w : Wait) : Prop :=
  TileTurn s c q → guardHolds q.q.tsq g = true →
    exec i s = .next (s.modCore q.c fun k => { k with tsq := { k.tsq with wait := some w } })

/-- The V-slot operation `i` writes the row that `vd` names: lane `j` of width `w` receives the low `w` bits of `f j` after
`lat` sequencer cycles (R65, R237). -/
def LanesLand (s : State) (c : Nat) (q : TCtx) (g : SGuard) (i : Instr) (vd : BitVec 7) (lat w : Nat) (f : Nat → Nat) : Prop :=
  ∃ row : BitVec 2048, Lands s c q g i 1 lat (.row (q.rd vd)) row.toNat ∧ ∀ j, j < 2048 / w → laneOf row w j = f j % 2 ^ w

/-- The stream program of core `c` has its turn (R274). -/
structure StreamTurn (s : State) (c : Nat) (p : Producer) : Prop where
  cur : s.cur = .producer c
  runs : (s.core c).prs = some p

/-- The stream word `i` leaves the program as `p`, its queues as `qs`, and takes `cost` cycles; it awaits no walk, and nothing else
changes (R282, R287). -/
def Streams (s : State) (c : Nat) (i : Instr) (p : Producer) (qs : FMap Queue) (cost : Nat) : Prop :=
  ∃ t o, exec i s = .next t ∧ (s.core c).prs = some o ∧
    t.core c = { (s.core c) with prs := some { p with holdTill := s.cycle + cost, walkFor := none, at_ := o.pc }, queues := qs } ∧
    t.mem = s.mem ∧ t.dev = s.dev ∧ ∀ d, d ≠ c → t.core d = s.core d

/-- In `t` the stream program `p` of core `c` has been frozen: it is over, and each of its open queues ends with a POISON entry
(R280, R281). -/
def Frozen (s t : State) (c : Nat) (p : Producer) (reason : Nat) : Prop :=
  (t.core c).prs = none ∧ ∀ n, n < 8 → ((t.core c).queue n) = if n ∈ p.openQueues
    then { ((s.core c).queue n) with term := some (.poison, poisonEntry p reason) } else (s.core c).queue n

/-- The stream word `i` freezes the program `p`, and no memory changes (R280). -/
def Freezes (s : State) (c : Nat) (p : Producer) (i : Instr) (reason : Nat) : Prop :=
  ∃ t, exec i s = .next t ∧ Frozen s t c p reason ∧ t.mem = s.mem

/-- The stream word `i` cannot read what it needs of header or payload: it asks for data that are still to come, and freezes at
anything else, a read that fails being reason 7 and an uncorrectable error among its bytes an error-ring entry besides (R280, R385,
R441). -/
def Halts (s : State) (c : Nat) (p : Producer) (i : Instr) (e : PStop) : Prop :=
  match e with
  | .data va => exec i s = .next (askData s c p va)
  | .bad va n => ∃ t, exec i s = .next t ∧ Frozen s t c p 7 ∧ t.mem = (badVirt s p.ctx va n).mem
  | .reason r => Freezes s c p i r

end Sys2Proof.Safety
end

