-- ==== Sys2Proof/Certificates/Slice0/Obligations.lean ====
section
/-!
DEFINITION. The statements for the provers. Each is named for what it states; its docstring names the rule of spec/ it rests
on, and the log entry where a clause is the model's own choice.
-/
open Sys2Proof Sys2Proof.Machine Sys2Proof.Safety
open Sys2Proof.Decode (bundleS bundleV bundleM bundleC bundleX decodeS decodeV decodeM)
open Sys2Proof.WellFormed (checkS checkV)

-- Fibre instructions with a fixed latency

/-- R156, R158: the results of the 32-bit integer instructions, the wrapped or saturated exact value, and their latencies. -/
def Obligations.ArithmeticResults : Prop :=
  ∀ (s : State) (h : FHdr) (q : FCtx) (d sa sb sc : BitVec 8) (imm : BitVec 16),
    let a := q.g sa
    let b := q.g sb
    let c := q.g sc
    let sat (v : Int) : Word := BitVec.ofInt 32 (max (-(2 ^ 31)) (min (2 ^ 31 - 1) v))
    let two := Result32 s h q [srcA sa, srcB sb]
    let one := Result32 s h q [srcA sa]
    let three := Result32 s h q [srcA sa, srcB sb, srcC sc]
    two (.add h d sa sb 0) d (a + b) 4 ∧ two (.add h d sa sb 1) d (sat (a.toInt + b.toInt)) 4 ∧
    two (.sub h d sa sb 0) d (a - b) 4 ∧ two (.sub h d sa sb 1) d (sat (a.toInt - b.toInt)) 4 ∧
    two (.mul h d sa sb) d (a * b) 5 ∧
    two (.mulhi h d sa sb) d (BitVec.ofInt 32 (a.toInt * b.toInt / 2 ^ 32)) 5 ∧
    two (.mulhiu h d sa sb) d (BitVec.ofNat 32 (a.toNat * b.toNat / 2 ^ 32)) 5 ∧
    three (.mad h d sa sb sc 0) d (a * b + c) 5 ∧
    three (.mad h d sa sb sc 1) d (sat (a.toInt * b.toInt + c.toInt)) 5 ∧
    two (.min h d sa sb) d (BitVec.ofInt 32 (min a.toInt b.toInt)) 4 ∧
    two (.max h d sa sb) d (BitVec.ofInt 32 (max a.toInt b.toInt)) 4 ∧
    two (.minu h d sa sb) d (BitVec.ofNat 32 (min a.toNat b.toNat)) 4 ∧
    two (.maxu h d sa sb) d (BitVec.ofNat 32 (max a.toNat b.toNat)) 4 ∧
    one (.abs h d sa 0) d (BitVec.ofInt 32 a.toInt.natAbs) 4 ∧ one (.abs h d sa 1) d (sat a.toInt.natAbs) 4 ∧
    one (.neg h d sa 0) d (-a) 4 ∧ one (.neg h d sa 1) d (sat (-a.toInt)) 4 ∧
    one (.addi h d sa imm) d (a + imm.signExtend 32) 4 ∧
    one (.muli h d sa imm) d (a * imm.signExtend 32) 5 ∧
    one (.mini h d sa imm) d (BitVec.ofInt 32 (min a.toInt imm.toInt)) 4 ∧
    one (.maxi h d sa imm) d (BitVec.ofInt 32 (max a.toInt imm.toInt)) 4

/-- R157: division truncates toward zero; a zero divisor gives the quotient of all ones and the dividend as the remainder; the
one quotient that overflows wraps; no operand traps. -/
def Obligations.DivisionResults : Prop :=
  ∀ (s : State) (h : FHdr) (q : FCtx) (d sa sb : BitVec 8),
    let a := q.g sa
    let b := q.g sb
    let two := Result32 s h q [srcA sa, srcB sb]
    two (.div h d sa sb) d (if b = 0 then BitVec.allOnes 32 else BitVec.ofInt 32 (a.toInt.tdiv b.toInt)) 20 ∧
    two (.divu h d sa sb) d (if b = 0 then BitVec.allOnes 32 else a / b) 20 ∧
    two (.rem h d sa sb) d (if b = 0 then a else BitVec.ofInt 32 (a.toInt.tmod b.toInt)) 20 ∧
    two (.remu h d sa sb) d (if b = 0 then a else a % b) 20

/-- R159: the results of the logic, shift, rotate and count instructions; a count of 32 or more shifts everything out. -/
def Obligations.LogicResults : Prop :=
  ∀ (s : State) (h : FHdr) (q : FCtx) (d sa sb : BitVec 8) (imm : BitVec 16) (n : BitVec 5),
    let a := q.g sa
    let b := q.g sb
    let two := Result32 s h q [srcA sa, srcB sb]
    let one := Result32 s h q [srcA sa]
    two (.and h d sa sb) d (a &&& b) 4 ∧ two (.or h d sa sb) d (a ||| b) 4 ∧ two (.xor h d sa sb) d (a ^^^ b) 4 ∧
    two (.andn h d sa sb) d (a &&& ~~~b) 4 ∧ one (.not h d sa) d (~~~a) 4 ∧
    two (.shl h d sa sb) d (a <<< b.toNat) 4 ∧ two (.shr h d sa sb) d (a >>> b.toNat) 4 ∧
    two (.sar h d sa sb) d (a.sshiftRight b.toNat) 4 ∧
    two (.rotl h d sa sb) d (a.rotateLeft b.toNat) 4 ∧ two (.rotr h d sa sb) d (a.rotateRight b.toNat) 4 ∧
    one (.popc h d sa) d (BitVec.ofNat 32 ((List.range 32).countP a.getLsbD)) 4 ∧
    one (.clz h d sa) d (a.clz) 4 ∧ one (.ctz h d sa) d (a.ctz) 4 ∧ one (.brev h d sa) d a.reverse 4 ∧
    one (.andi h d sa imm) d (a &&& imm.setWidth 32) 4 ∧ one (.ori h d sa imm) d (a ||| imm.setWidth 32) 4 ∧
    one (.xori h d sa imm) d (a ^^^ imm.setWidth 32) 4 ∧ one (.shli h d sa n) d (a <<< n.toNat) 4 ∧
    one (.shri h d sa n) d (a >>> n.toNat) 4 ∧ one (.sari h d sa n) d (a.sshiftRight n.toNat) 4

/-- R160: bit-field extract and insert by position and length, byte pick, and the three-input table, bit by bit. -/
def Obligations.BitFieldResults : Prop :=
  ∀ (s : State) (h : FHdr) (q : FCtx) (d sa sb sc lut : BitVec 8),
    let a := q.g sa
    let b := q.g sb
    let c := q.g sc
    let field (w : Word) : Nat × Nat := ((w.extractLsb' 0 8).toNat, min (w.extractLsb' 8 8).toNat (32 - (w.extractLsb' 0 8).toNat))
    let three := Result32 s h q [srcA sa, srcB sb, srcC sc]
    Result32 s h q [srcA sa, srcB sb] (.bfe h d sa sb 0) d (BitVec.ofNat 32 (a.toNat / 2 ^ (field b).1 % 2 ^ (field b).2)) 4 ∧
    Result32 s h q [srcA sa, srcB sb] (.bfe h d sa sb 1) d
      (BitVec.ofInt 32 (Int.bmod (a.toNat / 2 ^ (field b).1) (2 ^ (field b).2))) 4 ∧
    (∃ v : Word, three (.bfi h d sa sb sc) d v 4 ∧ ∀ i, i < 32 → v.getLsbD i =
      if (field c).1 ≤ i ∧ i < (field c).1 + (field c).2 then b.getLsbD (i - (field c).1) else a.getLsbD i) ∧
    (∃ v : Word, three (.bpick h d sa sb sc) d v 4 ∧ ∀ i, i < 4 →
      let ctl := c.extractLsb' (8 * i) 8
      let byte := ((b ++ a) >>> (8 * (ctl.toNat % 8))).setWidth 8
      v.extractLsb' (8 * i) 8 = if ctl.toNat / 64 = 0 then byte else if ctl.toNat / 64 = 1 then 0
        else if ctl.toNat / 64 = 2 then 0xFF else byte.reverse) ∧
    (∃ v : Word, three (.blut3 h d sa sb sc lut) d v 4 ∧ ∀ i, i < 32 →
      v.getLsbD i = lut.getLsbD ((a.getLsbD i).toNat + 2 * (b.getLsbD i).toNat + 4 * (c.getLsbD i).toNat))

/-- R161, R162: the results of the 64-bit instructions over register pairs. -/
def Obligations.PairResults : Prop :=
  ∀ (s : State) (h : FHdr) (q : FCtx) (d sa sb : BitVec 8) (imm : BitVec 16) (sh : BitVec 3),
    let A := q.gg sa
    let B := q.gg sb
    let a := q.g sa
    let b := q.g sb
    let pairs := Result64 s h q [srcA sa 2, srcB sb 2]
    let words := Result64 s h q [srcA sa, srcB sb]
    let mixed := Result64 s h q [srcA sa 2, srcB sb]
    pairs (.add64 h d sa sb) d (A + B) 4 ∧ pairs (.sub64 h d sa sb) d (A - B) 4 ∧ pairs (.mul64 h d sa sb) d (A * B) 8 ∧
    words (.mulw h d sa sb) d (a.signExtend 64 * b.signExtend 64) 5 ∧
    words (.mulwu h d sa sb) d (a.setWidth 64 * b.setWidth 64) 5 ∧
    mixed (.shl64 h d sa sb) d (A <<< b.toNat) 4 ∧ mixed (.shr64 h d sa sb) d (A >>> b.toNat) 4 ∧
    mixed (.sar64 h d sa sb) d (A.sshiftRight b.toNat) 4 ∧
    pairs (.min64 h d sa sb) d (BitVec.ofInt 64 (min A.toInt B.toInt)) 4 ∧
    pairs (.max64 h d sa sb) d (BitVec.ofInt 64 (max A.toInt B.toInt)) 4 ∧
    Result64 s h q [srcA sa 2] (.addi64 h d sa imm) d (A + imm.signExtend 64) 4 ∧
    mixed (.lea h d sa sb sh 0) d (A + (b.signExtend 64 <<< sh.toNat)) 4 ∧
    mixed (.lea h d sa sb sh 1) d (A + (b.setWidth 64 <<< sh.toNat)) 4

/-- R163 to R165: moves, selection, comparisons, the three-input predicate table, and the moves between the predicate word and
a register, in which p0 reads as true and is never written. -/
def Obligations.MoveAndPredicateResults : Prop :=
  ∀ (s : State) (h : FHdr) (q : FCtx) (d sa sb pd pa pb pc lut : BitVec 8) (imm : BitVec 16) (w : Word) (cc : BitVec 3),
    let a := q.g sa
    let b := q.g sb
    let A := q.gg sa
    let B := q.gg sb
    let p (n : BitVec 8) : Bool := q.x.pred n.toNat
    let words := ResultPred s h q [srcA sa, srcB sb] []
    let pairs := ResultPred s h q [srcA sa 2, srcB sb 2] []
    Result32 s h q [srcA sa] (.mov h d sa 0) d a 4 ∧ Result64 s h q [srcA sa 2] (.mov h d sa 1) d A 4 ∧
    Result32 s h q [] (.movi h d w) d w 4 ∧
    (Issues s h q [srcA sa, srcB sb] [pc.toNat] [(d.toNat, 1)] →
      exec (.sel h d sa sb pc 0) s = .next (q.putReg s d.toNat (if p pc then a else b) 4)) ∧
    (Issues s h q [srcA sa 2, srcB sb 2] [pc.toNat] [(d.toNat, 2)] →
      exec (.sel h d sa sb pc 1) s = .next (q.putPair s d.toNat (if p pc then A else B) 4)) ∧
    words (.setp h pd sa sb cc 0) pd (cmpInt cc.toNat a.toInt b.toInt) 4 ∧
    words (.setp h pd sa sb cc 1) pd (cmpInt cc.toNat a.toNat b.toNat) 4 ∧
    words (.setp h pd sa sb cc 2) pd (cmpFloat cc.toNat 0x11 a.toNat b.toNat) 4 ∧
    pairs (.setp h pd sa sb cc 3) pd (cmpInt cc.toNat A.toInt B.toInt) 4 ∧
    pairs (.setp h pd sa sb cc 4) pd (cmpInt cc.toNat A.toNat B.toNat) 4 ∧
    pairs (.setp h pd sa sb cc 5) pd (cmpFloat cc.toNat 0x10 A.toNat B.toNat) 4 ∧
    ResultPred s h q [srcA sa] [] (.setpi h pd sa cc 0 imm) pd (cmpInt cc.toNat a.toInt imm.toInt) 4 ∧
    ResultPred s h q [srcA sa] [] (.setpi h pd sa cc 1 imm) pd (cmpInt cc.toNat a.toNat imm.toNat) 4 ∧
    ResultPred s h q [] [pa.toNat, pb.toNat, pc.toNat] (.plut3 h pd pa pb pc lut) pd
      (lut.getLsbD ((p pa).toNat + 2 * (p pb).toNat + 4 * (p pc).toNat)) 2 ∧
    (Issues s h q [] (List.range 16) [(d.toNat, 1)] →
      exec (.p2g h d) s = .next (q.putReg s d.toNat ((q.x.preds ||| 1).setWidth 32) 2)) ∧
    (Issues s h q [srcA sa, srcB sb] [] [] → ∃ y : Fibre,
      exec (.g2p h sa sb) s = .next (q.retire s y) ∧ y.regs = q.x.regs ∧ ∀ i, y.pred i =
        if 0 < i ∧ i < 16 ∧ b.getLsbD i = true then a.getLsbD i else q.x.pred i)

/-- R166: FP32 arithmetic is one rounding of the exact result in the mode that the word names; minimum and maximum follow
R128, absolute value and negation R110. -/
def Obligations.FloatResults : Prop :=
  ∀ (s : State) (h : FHdr) (q : FCtx) (d sa sb sc : BitVec 8) (rm : BitVec 2),
    let a := (q.g sa).toNat
    let b := (q.g sb).toNat
    let c := (q.g sc).toNat
    let r (v : RVal) : Word := BitVec.ofNat 32 (roundTo 0x11 rm.toNat false v)
    let down := decide (rm.toNat = 2)
    let two := Result32 s h q [srcA sa, srcB sb]
    two (.fadd h d sa sb rm) d (r (addVal down (valueOf a 0x11) (valueOf b 0x11))) 5 ∧
    two (.fsub h d sa sb rm) d (r (addVal down (valueOf a 0x11) (negVal (valueOf b 0x11)))) 5 ∧
    two (.fmul h d sa sb rm) d (r (mulVal (valueOf a 0x11) (valueOf b 0x11)).toR) 5 ∧
    Result32 s h q [srcA sa, srcB sb, srcC sc] (.ffma h d sa sb sc rm) d
      (r (fmaVal down (valueOf a 0x11) (valueOf b 0x11) (valueOf c 0x11))) 5 ∧
    two (.fmin h d sa sb) d (BitVec.ofNat 32 (fminmax false 0x11 a b)) 5 ∧
    two (.fmax h d sa sb) d (BitVec.ofNat 32 (fminmax true 0x11 a b)) 5 ∧
    Result32 s h q [srcA sa] (.fabs h d sa) d (BitVec.ofNat 32 (fAbs 0x11 a)) 4 ∧
    Result32 s h q [srcA sa] (.fneg h d sa) d (BitVec.ofNat 32 (fNeg 0x11 a)) 4 ∧
    two (.fdiv h d sa sb rm) d (r (divVal 36 (valueOf a 0x11) (valueOf b 0x11))) 20

/-- R167, R168: the packed 16-bit instructions work on each half alone, in FP16 or BF16; the FP64 instructions on pairs. -/
def Obligations.PackedAndDoubleResults : Prop :=
  ∀ (s : State) (h : FHdr) (q : FCtx) (d sa sb sc : BitVec 8) (bf : BitVec 1) (rm : BitVec 2),
    let fm : Nat := if bf = 1 then 0x13 else 0x12
    let half (w : Word) (n : Nat) : Nat := (w.extractLsb' (16 * n) 16).toNat
    let both (f : Nat → Nat) : Word := BitVec.ofNat 32 (f 0 + 2 ^ 16 * f 1)
    let a := half (q.g sa)
    let b := half (q.g sb)
    let c := half (q.g sc)
    let two := Result32 s h q [srcA sa, srcB sb]
    let A := (q.gg sa).toNat
    let B := (q.gg sb).toNat
    let C := (q.gg sc).toNat
    let pairs := Result64 s h q [srcA sa 2, srcB sb 2]
    two (.hadd2 h d sa sb bf rm) d (both fun n => fAdd fm rm.toNat (a n) (b n)) 5 ∧
    two (.hsub2 h d sa sb bf rm) d (both fun n => fSub fm rm.toNat (a n) (b n)) 5 ∧
    two (.hmul2 h d sa sb bf rm) d (both fun n => fMul fm rm.toNat (a n) (b n)) 5 ∧
    Result32 s h q [srcA sa, srcB sb, srcC sc] (.hfma2 h d sa sb sc bf rm) d (both fun n => fFma fm rm.toNat (a n) (b n) (c n)) 5 ∧
    two (.hmin2 h d sa sb bf) d (both fun n => fminmax false fm (a n) (b n)) 5 ∧
    two (.hmax2 h d sa sb bf) d (both fun n => fminmax true fm (a n) (b n)) 5 ∧
    pairs (.dadd h d sa sb rm) d (BitVec.ofNat 64 (fAdd 0x10 rm.toNat A B)) 10 ∧
    pairs (.dsub h d sa sb rm) d (BitVec.ofNat 64 (fSub 0x10 rm.toNat A B)) 10 ∧
    pairs (.dmul h d sa sb rm) d (BitVec.ofNat 64 (fMul 0x10 rm.toNat A B)) 10 ∧
    Result64 s h q [srcA sa 2, srcB sb 2, srcC sc 2] (.dfma h d sa sb sc rm) d (BitVec.ofNat 64 (fFma 0x10 rm.toNat A B C)) 10 ∧
    pairs (.dmin h d sa sb) d (BitVec.ofNat 64 (fminmax false 0x10 A B)) 5 ∧
    pairs (.dmax h d sa sb) d (BitVec.ofNat 64 (fminmax true 0x10 A B)) 5 ∧
    pairs (.ddiv h d sa sb rm) d (BitVec.ofNat 64 (fDiv 0x10 rm.toNat A B)) 48 ∧
    Result64 s h q [srcA sa 2] (.dsqrt h d sa rm) d (BitVec.ofNat 64 (fSqrt 0x10 rm.toNat A)) 48

/-- R169: RCP, RSQ and SQRT write the rounding of the exact result to the nearest FP32 value; EXP2, LOG2, SIN, COS and TANH
write the result of the model's function of that name, which for every operand whose result is not exact is the value rounded
down or the value rounded up of the exact result as the series of log 7 gives it (which of the two is a free value of log 7),
with the special operands' results. -/
def Obligations.SpecialFunctionResults : Prop :=
  ∀ (s : State) (h : FHdr) (q : FCtx) (d sa : BitVec 8),
    let a := q.g sa
    let one := Result32 s h q [srcA sa]
    let rcp (x : Nat) : Nat := roundTo 0x11 0 false (recipVal 40 (valueOf x 0x11))
    let rsq (x : Nat) : Nat := roundTo 0x11 0 false (rsqrtVal 40 (valueOf x 0x11))
    let sqrt (x : Nat) : Nat := roundTo 0x11 0 false (sqrtVal 36 (valueOf x 0x11))
    let between (code : Nat) (v : RVal) : Prop := code = roundTo 0x11 2 false v ∨ code = roundTo 0x11 3 false v
    one (.rcp h d sa) d (BitVec.ofNat 32 (rcp a.toNat)) 12 ∧ one (.rsq h d sa) d (BitVec.ofNat 32 (rsq a.toNat)) 12 ∧
    one (.sqrt h d sa) d (BitVec.ofNat 32 (sqrt a.toNat)) 12 ∧
    one (.exp2 h d sa) d (BitVec.ofNat 32 (exp2Code a)) 12 ∧ one (.log2 h d sa) d (BitVec.ofNat 32 (log2Code a)) 12 ∧
    one (.sin h d sa) d (BitVec.ofNat 32 (sinCode a)) 12 ∧ one (.cos h d sa) d (BitVec.ofNat 32 (cosCode a)) 12 ∧
    one (.tanh h d sa) d (BitVec.ofNat 32 (tanhCode a)) 12 ∧
    (∀ (n : Bool) (m : Nat) (e : Int), valueOf a.toNat 0x11 = .fin n m e → m ≠ 0 →
      (ilogb m e < 24 → e < 0 → m % 2 ^ (-e).toNat ≠ 0 → between (exp2Code a) (exp2Val n m e)) ∧
      (n = false → m ≠ 2 ^ Nat.log2 m → between (log2Code a) (log2Val m e)) ∧
      (n = true → log2Code a = 0x7FC00000 ∧ rsq a.toNat = 0x7FC00000 ∧ sqrt a.toNat = 0x7FC00000) ∧
      between (sinCode a) (sinPiVal n m e) ∧ between (cosCode a) (cosPiVal m e) ∧ between (tanhCode a) (tanhVal n m e) ∧
      (0 ≤ e → sinCode a = if n then 0x80000000 else 0) ∧ (1 ≤ e → cosCode a = 0x3F800000)) ∧
    (valueOf a.toNat 0x11 = .nan → rcp a.toNat = 0x7FC00000 ∧ rsq a.toNat = 0x7FC00000 ∧ sqrt a.toNat = 0x7FC00000 ∧
      exp2Code a = 0x7FC00000 ∧ log2Code a = 0x7FC00000 ∧ sinCode a = 0x7FC00000 ∧ cosCode a = 0x7FC00000 ∧
      tanhCode a = 0x7FC00000) ∧
    rcp 0 = 0x7F800000 ∧ rcp 0x80000000 = 0xFF800000 ∧ rcp 0x7F800000 = 0 ∧ rcp 0xFF800000 = 0x80000000 ∧
    rcp 0x80000001 = 0xFF800000 ∧ rsq 0 = 0x7F800000 ∧ rsq 0x80000000 = 0xFF800000 ∧ rsq 0x7F800000 = 0 ∧
    sqrt 0x80000000 = 0x80000000 ∧ sqrt 0x7F800000 = 0x7F800000 ∧
    exp2Code 0x7F800000 = 0x7F800000 ∧ exp2Code 0xFF800000 = 0 ∧ exp2Code 0x40400000 = 0x41000000 ∧
    log2Code 0 = 0xFF800000 ∧ log2Code 0x80000000 = 0xFF800000 ∧ log2Code 0x7F800000 = 0x7F800000 ∧
    log2Code 0x41000000 = 0x40400000 ∧ sinCode 0x7F800000 = 0x7FC00000 ∧ cosCode 0xFF800000 = 0x7FC00000 ∧
    cosCode 0x3F000000 = 0 ∧ cosCode 0x3F800000 = 0xBF800000 ∧
    tanhCode 0x7F800000 = 0x3F800000 ∧ tanhCode 0xFF800000 = 0xBF800000 ∧ tanhCode 0 = 0 ∧ tanhCode 0x80000000 = 0x80000000

/-- R170 to R172: CVT, CVTS, CVTPK and CVTUPK convert the element's exact value, scaled where the form has a scale, by one
rounding in the mode that the word names. -/
def Obligations.ConversionResults : Prop :=
  ∀ (s : State) (h : FHdr) (q : FCtx) (d sa sb sc : BitVec 8) (df sf : BitVec 5) (sat e8 : BitVec 1) (rm idx : BitVec 2),
    let a := (q.g sa).toNat
    let A := (q.gg sa).toNat
    let n := fmtWidth sf.toNat
    let cv := fun (x : Nat) => convert df.toNat sf.toNat rm.toNat (sat = 1) (x % 2 ^ n)
    let pk := fun (r : BitVec 8) => convert df.toNat 0x11 rm.toNat (sat = 1) (q.g r).toNat % 2 ^ fmtWidth df.toNat
    (n ≠ 64 → fmtWidth df.toNat ≠ 64 →
      Result32 s h q [srcA sa] (.cvt h d sa df sf sat rm) d ((placeCode df.toNat (cv a)).setWidth 32) 5) ∧
    (n = 64 → fmtWidth df.toNat ≠ 64 →
      Result32 s h q [srcA sa 2] (.cvt h d sa df sf sat rm) d ((placeCode df.toNat (cv A)).setWidth 32) 5) ∧
    (n ≠ 64 → fmtWidth df.toNat = 64 → Result64 s h q [srcA sa] (.cvt h d sa df sf sat rm) d (placeCode df.toNat (cv a)) 5) ∧
    (n = 64 → fmtWidth df.toNat = 64 → Result64 s h q [srcA sa 2] (.cvt h d sa df sf sat rm) d (placeCode df.toNat (cv A)) 5) ∧
    Result32 s h q [srcA sa, srcB sb] (.cvts h d sa sb e8 df sf sat rm) d ((placeCode df.toNat (convert df.toNat sf.toNat rm.toNat
      (sat = 1) (a % 2 ^ n) (some (valueOf ((q.g sb).toNat % 256) (if e8 = 1 then 0x1F else 0x1E))))).setWidth 32) 5 ∧
    Result32 s h q [srcA sa, srcB sb, srcC sc] (.cvtpk h d sa sb sc df sat rm) d (BitVec.ofNat 32
      (if fmtWidth df.toNat = 16 then pk sa + 2 ^ 16 * pk sb else pk sa + 2 ^ 8 * pk sb + 2 ^ 16 * ((q.g sc).toNat % 2 ^ 16))) 5 ∧
    Result32 s h q [srcA sa] (.cvtupk h d sa sf idx) d
      (BitVec.ofNat 32 (convert 0x11 sf.toNat 0 false (a / 2 ^ (n * idx.toNat) % 2 ^ n))) 5

/-- R152, R18, R139: what the write of a result does, in every state: the named register alone changes, a write to g0 or outside
the window is discarded, the PC moves on by 8, and nothing outside the fibre changes, memory among it. -/
def Obligations.RegisterResultFrame : Prop :=
  ∀ (s : State) (q : FCtx) (d : Nat) (v : Word) (lat : Nat),
    s.block q.c q.b = some q.k → s.fibre q.c q.b q.f = some q.x →
    ∃ y : Fibre, (q.putReg s d v lat).fibre q.c q.b q.f = some y ∧
      (∀ n, y.reg q.k.win n = if n = d ∧ d ≠ 0 ∧ d < q.k.win then { val := v } else q.x.reg q.k.win n) ∧
      y.preds = q.x.preds ∧ y.pc = q.x.pc + 8 ∧ y.join = q.x.join ∧ y.sig = q.x.sig ∧ y.depth = q.x.depth ∧
      y.frame = q.x.frame ∧ y.pending = q.x.pending ∧
      (q.putReg s d v lat).mem = s.mem ∧ (q.putReg s d v lat).dev = s.dev ∧ (q.putReg s d v lat).cycle = s.cycle ∧
      (∀ c b f, (c, b, f) ≠ (q.c, q.b, q.f) → (q.putReg s d v lat).fibre c b f = s.fibre c b f) ∧
      (∀ c, ((q.putReg s d v lat).core c).tsq = (s.core c).tsq ∧ ((q.putReg s d v lat).core c).acm = (s.core c).acm ∧
        ((q.putReg s d v lat).core c).spm = (s.core c).spm ∧ ((q.putReg s d v lat).core c).pend = (s.core c).pend)

/-- R152, R153, R155: the same for a pair and for a predicate: g0 names no pair, a pair at the end of the window keeps only its
lower half, and p0 is not written. -/
def Obligations.PairAndPredicateFrame : Prop :=
  ∀ (s : State) (q : FCtx) (d p : Nat) (v : DWord) (e : Bool) (lat : Nat),
    s.block q.c q.b = some q.k → s.fibre q.c q.b q.f = some q.x →
    let rest (t : State) : Prop := t.mem = s.mem ∧ t.dev = s.dev ∧ t.cycle = s.cycle ∧
      (∀ c b f, (c, b, f) ≠ (q.c, q.b, q.f) → t.fibre c b f = s.fibre c b f) ∧
      (∀ c, (t.core c).tsq = (s.core c).tsq ∧ (t.core c).acm = (s.core c).acm ∧ (t.core c).spm = (s.core c).spm ∧
        (t.core c).pend = (s.core c).pend)
    let same (y : Fibre) : Prop := y.pc = q.x.pc + 8 ∧ y.join = q.x.join ∧ y.sig = q.x.sig ∧ y.depth = q.x.depth ∧
      y.frame = q.x.frame ∧ y.pending = q.x.pending
    (∃ y : Fibre, (q.putPair s d v lat).fibre q.c q.b q.f = some y ∧ same y ∧ y.preds = q.x.preds ∧ rest (q.putPair s d v lat) ∧
      (∀ n, y.reg q.k.win n =
        if n = d ∧ d ≠ 0 ∧ d < q.k.win then { val := v.setWidth 32 }
        else if n = d + 1 ∧ d ≠ 0 ∧ d + 1 < q.k.win then { val := (v >>> 32).setWidth 32 }
        else q.x.reg q.k.win n)) ∧
    (∃ y : Fibre, (q.putPred s p e lat).fibre q.c q.b q.f = some y ∧ same y ∧ y.regs = q.x.regs ∧ rest (q.putPred s p e lat) ∧
      (∀ n, y.pred n = if n = p ∧ p ≠ 0 ∧ p < 16 then e else q.x.pred n))

-- The steps of issue

/-- R138: the steps of every fibre instruction at issue, the first that decides ending the sequence: trap-on-execute, a false
guard, a trap that names the empty source of the lowest field where an empty source has its E bit 1 (R362), an empty source or
destination that is waited for (that the destination's wait stands at this step is the model's choice: log 79), a poisoned source, and the instruction's own
effect. A write to g0 is discarded, and a load to g0 empties no register and is still performed. -/
def Obligations.IssueSteps : Prop :=
  (∀ (i : Instr) maj mi h o, Decode.fibreParts i = some (maj, mi, h, o) → maj ≠ 0x19 → ∃ y : FSem,
    y.rendezvous = decide (maj = 0x0D ∧ 2 ≤ mi) ∧ (y.srcs.map (·.field)).Pairwise (· < ·) ∧ ∀ s, exec i s = fibreExec h y s) ∧
  ∀ (s : State) (h : FHdr) (q : FCtx) (y : FSem),
    let full (r : Src) : Prop := r.empty q.x q.k.win = false
    (s.cur = .fibre q.c q.b q.f → s.block q.c q.b = some q.k → s.fibre q.c q.b q.f = some q.x → q.x.canIssue = true →
      q.x.pending = [] → q.k.pending = [] → marked s q.k.ctx q.x.pc = true →
      fibreExec h y s = .next (takeTrap s q.c q.b q.f (ownTrap s q 0x01 0 0 0))) ∧
    (FibreTurn s h q → q.guard = false → fibreExec h y s = .next (if y.rendezvous then y.act q s else q.retire s q.x)) ∧
    (FibreTurn s h q → q.guard = true → heldBack q.x s.cycle y.keys = false →
      (∀ r ∈ y.srcs, ¬ full r → (∀ z ∈ y.srcs, ¬ full z → z = r ∨ r.field < z.field) →
        (∃ z ∈ y.srcs, eBit h z.field = true ∧ ¬ full z) →
        fibreExec h y s = .next (takeTrap s q.c q.b q.f
          (ownTrap s q 0x02 0 (BitVec.ofNat 64 r.field) (BitVec.ofNat 64 r.reg)))) ∧
      ((∀ r ∈ y.srcs, eBit h r.field = true → full r) → (∃ r ∈ y.srcs, ¬ full r) ∨ dstEmpty y.dsts q.x q.k.win = true →
        fibreExec h y s = .next (q.wait s (.emptyReg (emptyRegs q y)))) ∧
      ((∀ r ∈ y.srcs, full r) → dstEmpty y.dsts q.x q.k.win = false →
        (∀ r l m n, y.srcs = l ++ r :: m → r.poisoned q.x q.k.win = some n → (∀ z ∈ l, z.poisoned q.x q.k.win = none) →
          fibreExec h y s = .next (takeTrap s q.c q.b q.f (ownTrap s q 0x03 0 (BitVec.ofNat 64 n) 0))) ∧
        ((∀ r ∈ y.srcs, r.poisoned q.x q.k.win = none) → fibreExec h y s = .next (y.act q s)))) ∧
    (∀ v, q.x.setReg q.k.win 0 v = q.x) ∧
    (∀ a : Access, a.dst = 0 → s.block q.c q.b = some q.k → s.fibre q.c q.b q.f = some q.x →
      ∃ x b, (q.issueAccess s a).fibre q.c q.b q.f = some x ∧ (∀ n, x.reg q.k.win n = q.x.reg q.k.win n) ∧
        b ∈ ((q.issueAccess s a).core q.c).pend ∧ b.op = a.op ∧ b.va = a.va ∧ b.size = a.size)

-- Control transfer, system instructions, traps

/-- R137, R173, R174: a taken transfer goes to its target, folds it into the path signature and writes the link pair; a target
held in a pair must be canonical and a multiple of 8. Without a branch trace memory stays. -/
def Obligations.ControlTransfers : Prop :=
  ∀ (s : State) (h : FHdr) (q : FCtx) (d sa : BitVec 8) (off : BitVec 32),
    let goes (srcs : List Src) (dsts : List (Nat × Nat)) (i : Instr) (link : Nat) (target : VAddr) : Prop :=
      Issues s h q srcs [] dsts → ∃ t y, exec i s = .next t ∧ t.fibre q.c q.b q.f = some y ∧ y.pc = target ∧
        y.sig = q.x.sig.rotateLeft 7 ^^^ target.setWidth 64 ∧
        (∀ n, y.reg q.k.win n = (q.x.setPair q.k.win link ((q.x.pc + 8).setWidth 64)).reg q.k.win n) ∧
        y.preds = q.x.preds ∧ y.depth = q.x.depth ∧ y.join = q.x.join ∧ (q.k.trace = none → t.mem = s.mem ∧ t.dev = s.dev)
    let there := q.x.pc + 8 * off.signExtend 56
    let held := q.gg sa
    let fails (i : Instr) (dsts : List (Nat × Nat)) : Prop :=
      (2 ^ 56 ≤ held.toNat → Takes s h q [srcA sa 2] dsts i (ownTrap s q 0x04 held 0x300 0)) ∧
      (held.toNat < 2 ^ 56 → held.toNat % 8 ≠ 0 → Takes s h q [srcA sa 2] dsts i (ownTrap s q 0x05 held 8 0))
    goes [] [] (.bra h off) 0 there ∧ goes [] [(d.toNat, 2)] (.call h d off) d.toNat there ∧
    (held.toNat < 2 ^ 56 → held.toNat % 8 = 0 →
      goes [srcA sa 2] [] (.brx h sa) 0 (held.setWidth 56) ∧ goes [srcA sa 2] [] (.ret h sa) 0 (held.setWidth 56) ∧
      goes [srcA sa 2] [(d.toNat, 2)] (.callx h d sa) d.toNat (held.setWidth 56)) ∧
    fails (.brx h sa) [] ∧ fails (.ret h sa) [] ∧ fails (.callx h d sa) [(d.toNat, 2)]

/-- R134, R186, R211 to R213, R363, R365: NOP and SLEEP, %cycle and the special registers that fibre code reads, inside a
handler the fields of the current frame among them, WRSR outside a handler; and what going on to the next word does to the
state. -/
def Obligations.SystemResults : Prop :=
  ∀ (s : State) (h : FHdr) (q : FCtx) (d sa : BitVec 8) (num : BitVec 16),
    let rd (n : BitVec 16) : Instr := .rdsr h d n
    let word (n : BitVec 16) (v : Nat) : Prop := Result32 s h q [] (rd n) d (BitVec.ofNat 32 v) 4
    let pair (n : BitVec 16) (v : DWord) : Prop := Result64 s h q [] (rd n) d v 4
    (Issues s h q [] [] [] → exec (.nop h) s = .next (q.retire s q.x)) ∧
    (Issues s h q [srcA sa 2] [] [] →
      ((q.gg sa).toNat ≤ s.cycle → exec (.sleep h sa) s = .next (q.retire s q.x)) ∧
      (s.cycle < (q.gg sa).toNat → exec (.sleep h sa) s = .next (q.wait s (.sleep (q.gg sa).toNat)))) ∧
    Result64 s h q [] (.rdcyc h d) d (BitVec.ofNat 64 s.cycle) 4 ∧ Result32 s h q [] (.rdcycl h d) d (BitVec.ofNat 32 s.cycle) 4 ∧
    word 0x00 q.f ∧ word 0x01 q.k.blk.toNat ∧ word 0x02 (q.c % 192) ∧ word 0x03 (q.c / 192) ∧ word 0x04 q.k.stage ∧
    word 0x05 q.k.ctx ∧ pair 0x06 (BitVec.ofNat 64 s.cycle) ∧ word 0x07 q.k.nfibre ∧ pair 0x08 q.x.sig ∧
    word 0x10 (s.core q.c).tsq.acctype ∧ word 0x11 (s.core q.c).tsq.planes ∧ word 0x27 q.x.depth ∧
    (q.x.depth = 0 → word 0x20 0 ∧ pair 0x21 0 ∧ pair 0x22 0 ∧ pair 0x23 0 ∧ pair 0x24 0 ∧ pair 0x25 0 ∧ pair 0x26 0) ∧
    (q.x.depth ≠ 0 → Drained s q → ∀ (off n : Nat) (tr : Tlb) (l : List Byte),
      translate s q.k.ctx 0 (q.x.frame.toNat + off) = .ok tr →
      physRead s tr.key (tr.pa (q.x.frame.toNat + off)) n = some l →
      (off = 16 → n = 4 → word 0x20 (ofBytes l)) ∧ (off = 0 → n = 8 → pair 0x21 (BitVec.ofNat 64 (ofBytes l))) ∧
      (off = 8 → n = 8 → pair 0x22 (BitVec.ofNat 64 (ofBytes l))) ∧ (off = 24 → n = 8 → pair 0x23 (BitVec.ofNat 64 (ofBytes l))) ∧
      (off = 32 → n = 8 → pair 0x24 (BitVec.ofNat 64 (ofBytes l))) ∧
      (off = 40 → n = 8 → pair 0x25 (BitVec.ofNat 64 (ofBytes l)))) ∧
    (q.x.depth ≠ 0 → pair 0x26 (q.x.frame.setWidth 64)) ∧
    (Issues s h q [srcA sa 2] [] [] → q.x.depth = 0 → exec (.wrsr h sa num) s = .next (q.retire s q.x)) ∧
    (s.block q.c q.b = some q.k → ∃ y, (q.retire s q.x).fibre q.c q.b q.f = some y ∧
      y = { q.x with pc := q.x.pc + 8, status := .ready, readyAt := s.cycle, urgentAt := none } ∧
      (q.retire s q.x).mem = s.mem ∧ (q.retire s q.x).dev = s.dev ∧
      (∀ c b f, (c, b, f) ≠ (q.c, q.b, q.f) → (q.retire s q.x).fibre c b f = s.fibre c b f))

/-- R354, R362, R214, R215, R361, R151: the software traps save their frame and enter the handler: the fibre goes on at HENTRY
one level deeper, its empty registers are full with 0, and the frame holds the interrupted state; BKPT stops the fibre for the
monitor where that is armed and is a NOP elsewhere; a word marked trap-on-execute takes ILLEGAL_INSTRUCTION. -/
def Obligations.TrapEntry : Prop :=
  ∀ (s : State) (h : FHdr) (q : FCtx) (imm : BitVec 24) (n : Nat),
    let fpc := devBits s (offCX q.k.ctx 0x18) 10 0
    let hentry := devBits s (offCX q.k.ctx 0x08) 55 3 * 8
    let at_ := devBits s (offCX q.k.ctx 0x10) 55 12 * 4096 + (q.c * fpc + n) * 2304
    let room := q.x.depth < 8 ∧ fpc ≠ 0 ∧ freeSlot (s.core q.c).slotsUsed q.k.ctx fpc = some n ∧
      rangeFault s q.k.ctx 1 3 at_ (256 + 8 * q.k.win) = none
    let saved (t : State) (tr : Trap) : Prop :=
      t.mem = (writeVirt s q.k.ctx at_ (frameBytes q.x q.k.win q.b q.f tr (q.x.depth + 1) 0 q.x.frame 0)).mem ∧
      (t.core q.c).slotsUsed = (q.k.ctx, n) :: (s.core q.c).slotsUsed
    let inHandler (y : Fibre) : Prop := y.depth = q.x.depth + 1 ∧ y.frame = BitVec.ofNat 56 at_ ∧ y.preds = q.x.preds ∧
      y.sig = q.x.sig ∧ y.join = q.x.join ∧
      ∀ r, y.reg q.k.win r = if (q.x.reg q.k.win r).full then q.x.reg q.k.win r else {}
    let user (code : BitVec 8) : Trap := { ownTrap s q code 0 (imm.setWidth 64) 0 with pc := (q.x.pc + 8).setWidth 64 }
    (Issues s h q [] [] [] → room → hentry ≠ 0 → ∃ t y, exec (.trap h imm) s = .next t ∧ t.fibre q.c q.b q.f = some y ∧
      inHandler y ∧ y.pc = BitVec.ofNat 56 hentry ∧ y.status = .ready ∧ saved t (user 0x0D)) ∧
    (Issues s h q [] [] [] → room → bkptOn s (clusterOf q.c) q.k.ctx = true → ∃ t y, exec (.bkpt h imm) s = .next t ∧
      t.fibre q.c q.b q.f = some y ∧ inHandler y ∧ y.status = .debug ∧ saved t (user 0x0E) ∧
      (t.cluster (clusterOf q.c)).notices = (s.cluster (clusterOf q.c)).notices ++ [⟨at_, q.c, q.b, q.f⟩]) ∧
    (Issues s h q [] [] [] → bkptOn s (clusterOf q.c) q.k.ctx = false → exec (.bkpt h imm) s = .next (q.retire s q.x)) ∧
    (∀ i : Instr, (∃ f d a b, i = .fmnx f d a b) ∨ (∃ f d a, i = .cvtf8 f d a) → s.cur = .fibre q.c q.b q.f →
      s.block q.c q.b = some q.k → s.fibre q.c q.b q.f = some q.x → q.x.canIssue = true → q.x.pending = [] →
      q.k.pending = [] → marked s q.k.ctx q.x.pc = true →
      exec i s = .next (takeTrap s q.c q.b q.f (ownTrap s q 0x01 0 0 0)))

/-- R355: where a trap may not be entered. At DEPTH 8, with no frame area, with a frame that may not be written or with no
handler, the fibre stops for good and a fault-log entry names the case; with no free frame slot it waits for one. -/
def Obligations.FailedTrapEntry : Prop :=
  ∀ (s : State) (c b f : Nat) (k : Block) (x : Fibre) (t : Trap), s.block c b = some k → s.fibre c b f = some x →
    let fpc := devBits s (offCX k.ctx 0x18) 10 0
    let dead (kind : BitVec 8) : Prop := ∃ y, (takeTrap s c b f t).fibre c b f = some y ∧ y.status = .dead kind ∧ y.pc = x.pc ∧
      (takeTrap s c b f t).logIdx.get k.ctx 0 = s.logIdx.get k.ctx 0 + 1
    (8 ≤ x.depth → dead 1) ∧
    (x.depth < 8 → fpc = 0 → dead 2) ∧
    (x.depth < 8 → fpc ≠ 0 → freeSlot (s.core c).slotsUsed k.ctx fpc = none →
      ∃ y, (takeTrap s c b f t).fibre c b f = some y ∧ y = { x with status := .trapping t }) ∧
    (∀ n, x.depth < 8 → freeSlot (s.core c).slotsUsed k.ctx fpc = some n →
      let a := devBits s (offCX k.ctx 0x10) 55 12 * 4096 + (c * fpc + n) * 2304
      ((rangeFault s k.ctx 1 3 a (256 + 8 * k.win)).isSome → dead 2) ∧
      (rangeFault s k.ctx 1 3 a (256 + 8 * k.win) = none → devBits s (offCX k.ctx 0x08) 55 3 = 0 → t.code ≠ 0x0E → dead 3))

/-- R216, R289, R360, R365: ERET outside a handler is illegal. Inside one it restores PC, predicates, registers and the enclosing
frame from the fibre's frame and gives its slot back; a tile trap's frame puts the holder back into the gate and its tile
program at the frame's PC, and a frame of the copy engine's runs the stopped command again; a misaligned PC is an ALIGN and a
frame that may not be read stops the fibre. WRSR %tpc leaves a strong store of 8 bytes to the frame's PC, and refuses a value
that is no multiple of 8. That PC and enclosing frame are the low 56 bits of their frame fields, and that ERET waits until the
handler's own accesses have been performed, are the model's choices (logs 33, 96). -/
def Obligations.HandlerReturn : Prop :=
  ∀ (s : State) (h : FHdr) (q : FCtx) (sa : BitVec 8) (bytes : List Byte) (tr : Tlb),
    let frame := q.x.frame.toNat
    let u := s.stampNext
    let read := readVirt u q.k.ctx frame (256 + 8 * q.k.win)
    let pc := framePc bytes
    let tile := frameTile bytes
    let al := if tile then 32 else 8
    let back := tile && decide ((s.core q.c).lamp = some q.b)
    (q.x.depth = 0 → Takes s h q [] [] (.eret h) (ownTrap s q 0x01 0 2 0)) ∧
    (Issues s h q [] [] [] → q.x.depth ≠ 0 → ¬ Drained s q → exec (.eret h) s = .next (q.wait s .order)) ∧
    (Issues s h q [] [] [] → q.x.depth ≠ 0 → Drained s q →
      (read = .ok bytes → pc % al ≠ 0 → exec (.eret h) s =
        .next (takeTrap u q.c q.b q.f (ownTrap u q 0x05 (BitVec.ofNat 64 pc) (BitVec.ofNat 64 al) 0))) ∧
      ((∀ l, read ≠ .ok l) → ∃ t y, exec (.eret h) s = .next t ∧ t.fibre q.c q.b q.f = some y ∧
        y = { q.x with status := .dead 2 } ∧ t.logIdx.get q.k.ctx 0 = s.logIdx.get q.k.ctx 0 + 1) ∧
      (read = .ok bytes → pc % al = 0 → ∃ t y, exec (.eret h) s = .next t ∧ t.fibre q.c q.b q.f = some y ∧
        y.pc = BitVec.ofNat 56 (if tile then ofBytes (slice bytes 104 8) else pc) ∧
        y.preds = BitVec.ofNat 16 (ofBytes (slice bytes 20 2)) ||| 1 ∧ y.depth = q.x.depth - 1 ∧
        y.frame = BitVec.ofNat 56 (ofBytes (slice bytes 48 8)) ∧ y.status = (if back then .waiting .lamp else .ready) ∧
        (∀ n, 0 < n → n < q.k.win → y.reg q.k.win n = Reg.ofBytes (slice bytes (256 + 8 * n) 8)) ∧ t.mem = s.mem ∧
        (∀ m, q.x.frames.head? = some m → (q.k.ctx, m) ∉ (t.core q.c).slotsUsed) ∧
        (t.core q.c).tsq = (if back then { (s.core q.c).tsq with stopped := none, pc := BitVec.ofNat 56 pc }
          else (s.core q.c).tsq) ∧
        (∀ x l, (s.core q.c).cpe = x :: l → (t.core q.c).cpe =
          (if frameCpe bytes = true ∧ resumes q.b q.f tile x.owner = true ∧ (∃ r, x.stop = some r ∧
            r.cmdidx.toNat = frameIdx bytes ∧ r.addr.toNat = frameStopAddr bytes) then { x with stop := none } else x) :: l))) ∧
    (q.x.depth ≠ 0 → (q.gg sa).toNat % 8 ≠ 0 → Takes s h q [srcA sa 2] [] (.wrsr h sa 0x21) (ownTrap s q 0x06 (q.gg sa) 0 0)) ∧
    (q.x.depth ≠ 0 → (q.gg sa).toNat % 8 = 0 → translate s q.k.ctx 1 frame = .ok tr →
      Accesses s h q [srcA sa 2] [] (.wrsr h sa 0x21)
        { id := 0, slot := 0, fib := 0, op := .store, va := frame, pa := tr.pa frame, key := tr.key, size := 8, kind := 1,
          data := toBytes 8 (q.gg sa).toNat })

-- Rejoin masks and cross-fibre operations

/-- R36: ENROL adds the fibre to a mask and STRIKE takes it out, in a mask whose round has no arrivals; and a STRIKE that leaves
every other enrolled fibre arrived, all at one address, ends the round: they go on with its results. -/
def Obligations.MaskMembership : Prop :=
  ∀ (s : State) (h : FHdr) (q : FCtx) (j : BitVec 8), Issues s h q [] [] [] →
    let m := q.k.masks.get j.toNat {}
    let A := m.arrived
    let ends (i : Instr) (l : List Nat) : Prop := ∃ t k, exec i s = .next t ∧ t.mem = s.mem ∧ t.block q.c q.b = some k ∧
      (k.masks.get j.toNat {}).enrolled = l ∧ (k.masks.get j.toNat {}).arrived = [] ∧
      t.fibre q.c q.b q.f = some (q.x.issued s.cycle) ∧ ∀ n, n ≠ j.toNat → k.masks.get n {} = q.k.masks.get n {}
    (A = [] → ends (.enrol h j) (insN m.enrolled q.f) ∧ ends (.strike h j) (m.enrolled.filter (· ≠ q.f))) ∧
    (A ≠ [] → (∀ a ∈ A, a.fib ≠ q.f ∧ hasN m.enrolled a.fib = true) →
      (∀ n ∈ m.enrolled, n ≠ q.f → ∃ a ∈ A, a.fib = n) → (∀ a ∈ A, ∀ b ∈ A, a.pc = b.pc) → (A.map (·.fib)).Nodup →
      ends (.strike h j) (m.enrolled.filter (· ≠ q.f)) ∧
      ∀ a ∈ A, ∀ x, q.k.fibres.find? a.fib = some x → ∃ t, exec (.strike h j) s = .next t ∧ t.fibre q.c q.b a.fib =
        some ((if a.active then withResult (A.filter (·.active)) a q.k.win x else x).issued s.cycle)) ∧
    ∀ n, hasN (insN m.enrolled q.f) n = (hasN m.enrolled n || n == q.f)

/-- R36 to R38, R176 to R181: every rendezvous instruction arrives with the values that its sources hold, and the round that it
completes lets every fibre of it go on with its result. -/
def Obligations.Rendezvous : Prop :=
  ∀ (s : State) (h : FHdr) (q : FCtx) (d sa sb pa j : BitVec 8) (op : BitVec 2) (ty : BitVec 3),
    let n := j.toNat
    let v := (q.g sa).setWidth 64
    Meets s h q [] [] [] (.park h j) n (q.arrival .park) ∧
    Meets s h q [srcA sa, srcB sb] [] [(d.toNat, 1)] (.xread h d sa sb j 0) n (q.arrival (.xread d.toNat false) v (q.g sb).toNat) ∧
    Meets s h q [srcA sa 2, srcB sb] [] [(d.toNat, 2)] (.xread h d sa sb j 1) n
      (q.arrival (.xread d.toNat true) (q.gg sa) (q.g sb).toNat) ∧
    Meets s h q [] [pa.toNat] [(d.toNat, 1)] (.xvote h d pa j op) n (q.arrival (.xvote d.toNat op.toNat) 0 0 (q.x.pred pa.toNat)) ∧
    (ty ≠ 1 → ¬(op = 0 ∧ ty = 3) →
      Meets s h q [srcA sa] [] [(d.toNat, 1)] (.xred h d sa j op ty) n (q.arrival (.xred d.toNat op.toNat ty.toNat) v)) ∧
    (ty = 1 ∨ (op = 0 ∧ ty = 3) →
      Meets s h q [srcA sa 2] [] [(d.toNat, 2)] (.xred h d sa j op ty) n (q.arrival (.xred d.toNat op.toNat ty.toNat) (q.gg sa))) ∧
    Meets s h q [srcA sa] [] [(d.toNat, 2)] (.matchw h d sa j 0) n (q.arrival (.matchKey d.toNat false) v) ∧
    Meets s h q [srcA sa 2] [] [(d.toNat, 2)] (.matchw h d sa j 1) n (q.arrival (.matchKey d.toNat true) (q.gg sa)) ∧
    Meets s h q [srcA sa] [] [(d.toNat, 2)] (.matchf h d sa j) n (q.arrival (.matchF d.toNat) v) ∧
    Meets s h q [] [] [] (.elect h pa j) n (q.arrival (.elect pa.toNat))

/-- R126, R177 to R181: what the cross-fibre operations compute from the active arrivals `A` of a round, each fibre once. A
reduction of floats is the balanced tree over 1,024 places in %fibre order, an absent fibre's place holding code 0, each node one
sum rounded to nearest even. -/
def Obligations.CrossFibreValues : Prop :=
  ∀ (A : List Arrival) (win : Nat) (x : Fibre) (a : Arrival), (A.map (·.fib)).Nodup → (∀ b ∈ A, b.fib < 1024) → a ∈ A →
    let count (p : Arrival → Bool) : Nat := A.countP p
    let bit (p : Bool) : BitVec 64 := if p then 1 else 0
    let nan (b : Arrival) : Bool := (valueOf (b.val.toNat % 2 ^ 32) 0x11).isNan
    let zero (b : Arrival) : Bool := b.val.toNat % 2 ^ 31 = 0
    let sameF (b c : Arrival) : Bool := b.val = c.val || (nan b && nan c) || (zero b && zero c)
    let least (l : List Arrival) (f : Nat) : Prop := (∃ b ∈ l, b.fib = f) ∧ ∀ b ∈ l, f ≤ b.fib
    (∀ d, a.op = .xread d false → (∀ b ∈ A, b.fib = a.idx → withResult A a win x = x.setReg win d (b.val.setWidth 32)) ∧
      ((∀ b ∈ A, b.fib ≠ a.idx) → withResult A a win x = x.setReg win d 0)) ∧
    (∀ d, a.op = .xread d true → (∀ b ∈ A, b.fib = a.idx → withResult A a win x = x.setPair win d b.val) ∧
      ((∀ b ∈ A, b.fib ≠ a.idx) → withResult A a win x = x.setPair win d 0)) ∧
    (∀ d op, a.op = .xvote d op → withResult A a win x = x.setReg win d ((voteVal op A).setWidth 32)) ∧
    voteVal 0 [] = 1 ∧ voteVal 2 [] = 1 ∧
    (∀ d op ty, a.op = .xred d op ty → (ty ≠ 1 → ¬(op = 0 ∧ ty = 3) →
      withResult A a win x = x.setReg win d ((redVal op ty A).setWidth 32)) ∧
      (ty = 1 ∨ (op = 0 ∧ ty = 3) → withResult A a win x = x.setPair win d (redVal op ty A))) ∧
    voteVal 0 A = bit (count (·.pred) = A.length) ∧ voteVal 1 A = bit (0 < count (·.pred)) ∧
    voteVal 2 A = bit (count (·.pred) = A.length ∨ count (·.pred) = 0) ∧ voteVal 3 A = BitVec.ofNat 64 (count (·.pred)) ∧
    redVal 0 0 A = BitVec.ofNat 64 ((A.map (·.val.toNat)).sum % 2 ^ 32) ∧
    redVal 0 1 A = BitVec.ofNat 64 ((A.map (·.val.toNat)).sum % 2 ^ 64) ∧
    (∀ i, (redVal 1 0 A).getLsbD i = A.any (·.val.getLsbD i)) ∧
    (∀ i, (redVal 2 0 A).getLsbD i = decide (count (·.val.getLsbD i) % 2 = 1)) ∧
    (∀ i, (redVal 1 1 A).getLsbD i = A.any (·.val.getLsbD i)) ∧
    (∀ i, (redVal 2 1 A).getLsbD i = decide (count (·.val.getLsbD i) % 2 = 1)) ∧
    (∀ ty fmt, (ty = 2 ∧ fmt = 0x11) ∨ (ty = 3 ∧ fmt = 0x10) → ∃ node : Nat → Nat → Nat,
      (∀ b ∈ A, node 0 b.fib = b.val.toNat) ∧ (∀ i, (∀ b ∈ A, b.fib ≠ i) → node 0 i = 0) ∧
      (∀ l j, node (l + 1) j =
        roundTo fmt 0 false (addVal false (valueOf (node l (2 * j)) fmt) (valueOf (node l (2 * j + 1)) fmt))) ∧
      redVal 0 ty A = BitVec.ofNat 64 (node 10 0)) ∧
    (∀ d w, a.op = .matchKey d w → ∃ f, least (A.filter fun b => b.val = a.val) f ∧
      withResult A a win x = x.setPair win d (pair64 (BitVec.ofNat 32 f) (BitVec.ofNat 32 (A.countP fun b => b.val = a.val)))) ∧
    (∀ d, a.op = .matchF d → ∃ f, least (A.filter fun b => sameF b a) f ∧
      withResult A a win x = x.setPair win d (pair64 (BitVec.ofNat 32 f) (BitVec.ofNat 32 (A.countP fun b => sameF b a)))) ∧
    (∀ p, a.op = .elect p → (least A a.fib → withResult A a win x = x.setPred p true) ∧
      (¬least A a.fib → withResult A a win x = x.setPred p false)) ∧
    (a.op = .park → withResult A a win x = x)

-- Tasks

/-- R21, R185: a fibre that ends outside a handler, enrolled nowhere and with nothing stopped of its own, is over; its signature
joins its block's and its join word, if it has one, will be decremented after its earlier accesses. -/
def Obligations.FibreEnds : Prop :=
  ∀ (s : State) (h : FHdr) (q : FCtx) (t : Tlb), Issues s h q [] [] [] → q.x.depth = 0 → q.x.frames = [] → q.k.owed = none →
    (∀ m ∈ q.k.masks, hasN m.2.enrolled q.f = false) → (∀ p ∈ q.k.fibres, p.2.atGate = false) → (s.core q.c).cpe = [] →
    (q.x.join = 0 ∨ (tlbFind s q.k.ctx (q.x.join.toNat / 4096) = some t ∧ permit s q.k.ctx 2 t = .ok t)) →
    ∃ u k y, exec (.fend h) s = .next u ∧ u.mem = s.mem ∧ u.block q.c q.b = some k ∧ k.sigSum = q.k.sigSum + q.x.sig ∧
      u.fibre q.c q.b q.f = some y ∧ y.status = .ended ∧
      (q.x.join = 0 → (u.core q.c).pend = (s.core q.c).pend) ∧
      (q.x.join ≠ 0 → ∃ a, (u.core q.c).pend = (s.core q.c).pend ++ [a] ∧ a.op = .joinDec ∧ a.va = q.x.join.toNat ∧
        a.slot = q.b ∧ a.fib = q.f ∧ a.size = 4 ∧ a.releases = true)

/-- R24, R27, R30, R182: SPAWN puts its record at the end of its node's mooring, and the entry that reaches the node's count
releases the whole mooring as one waiting block; a join word that it names goes up by one; an entry that is no sealed node is
a SEAL_FAULT. That it waits, as for mooring space, until the fibre's own accesses have been performed and its slice has the join
word's line is the model's choice (log 96). -/
def Obligations.Spawning : Prop :=
  ∀ (s : State) (h : FHdr) (q : FCtx) (sa sb sc : BitVec 8) (count : BitVec 3) (node : Node) (t : Tlb) (v : Nat),
    let srcs := [srcA sa 2] ++ (if count = 0 then [] else [runB sb count.toNat]) ++ [srcC sc 2]
    let entry := q.gg sa
    let join := q.gg sc
    let key := moorKey q.k.ctx node.entry
    let old := ((s.core q.c).moorings.get key { ctx := q.k.ctx, node := node }).recs
    let task : Task := { entry := node.entry, args := (List.range count.toNat).map (fun i => q.x.g q.k.win (sb.toNat + i)),
                         join := join.setWidth 56, cls := q.k.cls, prio := q.k.prio }
    let known := entry.toNat < 2 ^ 56 ∧ sealedAt s q.k.ctx entry.toNat = true ∧ nodeAt s q.k.ctx (entry.setWidth 56) = some node ∧
      moorRoom s q.c key = some false ∧ (∀ m, (s.core q.c).moorings.find? key = some m → m.node = node) ∧
      ∀ r ∈ old, r.slot = none
    let placed (u : State) : Prop :=
      (old.length + 1 < node.count → ∃ m, (u.core q.c).moorings.find? key = some m ∧ m.recs = old ++ [task] ∧ u.order = s.order) ∧
      (node.count ≤ old.length + 1 → ∃ w, u.order = s.order ++ [w] ∧ w.tasks = old ++ [task] ∧ w.nfibre = old.length + 1 ∧
        w.home = some q.c ∧ w.launch = none)
    (Issues s h q srcs [] [] → known → Drained s q → join = 0 → ∃ u y, exec (.spawn h sa sb sc count) s = .next u ∧
      u.fibre q.c q.b q.f = some y ∧ y = q.x.issued s.cycle ∧ u.mem = s.mem ∧ placed u) ∧
    (Issues s h q srcs [] [] → known → Drained s q → join ≠ 0 → Mapped s q 2 join.toNat 4 t → MemOk s →
      backed (t.pa join.toNat) = true → backed (t.pa join.toNat + 3) = true → LineHere s q.c (t.pa join.toNat) →
      joinWord s t join.toNat = some v → v ≠ 0xFFFFFFFF → ∃ u y, exec (.spawn h sa sb sc count) s = .next u ∧
        u.fibre q.c q.b q.f = some y ∧ y = q.x.issued s.cycle ∧ placed u ∧ ∀ a, memGet u.mem a = if t.pa join.toNat ≤ a ∧ a < t.pa join.toNat + 4
          then BitVec.ofNat 8 ((v + 1) / 256 ^ (a - t.pa join.toNat)) else memGet s.mem a) ∧
    (Issues s h q srcs [] [] → known → join = 0 → ¬ Drained s q →
      exec (.spawn h sa sb sc count) s = .next (q.wait s .moored)) ∧
    (Issues s h q srcs [] [] → known → join ≠ 0 → Mapped s q 2 join.toNat 4 t → backed (t.pa join.toNat) = true →
      ¬ Drained s q ∨ LineAway s q.c (t.pa join.toNat) → ∃ u y, exec (.spawn h sa sb sc count) s = .next u ∧
        u.fibre q.c q.b q.f = some y ∧ y.pc = q.x.pc ∧ y.status = .waiting .moored ∧ y.regs = q.x.regs ∧ u.mem = s.mem) ∧
    (2 ^ 56 ≤ entry.toNat ∨ sealedAt s q.k.ctx entry.toNat = false ∨ nodeAt s q.k.ctx (entry.setWidth 56) = none →
      Takes s h q srcs [] (.spawn h sa sb sc count) (ownTrap s q 0x08 entry 2 0))

/-- R26, R72, R183: WAITJ goes on when the join word is 0 and waits while it is not, or while its slice does not hold the word's
line; POISON there is a POISON_READ. -/
def Obligations.JoinWaits : Prop :=
  ∀ (s : State) (h : FHdr) (q : FCtx) (sa : BitVec 8) (t : Tlb) (v : Nat), Issues s h q [srcA sa 2] [] [] → Drained s q →
    Mapped s q 0 (q.gg sa).toNat 4 t → backed (t.pa (q.gg sa).toNat) = true →
    let here := LineHere s q.c (t.pa (q.gg sa).toNat)
    (here → joinWord s t (q.gg sa).toNat = some 0 → ∃ u y, exec (.waitj h sa) s = .next u ∧ u.fibre q.c q.b q.f = some y ∧
      y.pc = q.x.pc + 8 ∧ y.status = .ready ∧ y.regs = q.x.regs ∧ u.mem = s.mem) ∧
    (here → joinWord s t (q.gg sa).toNat = some (v + 1) → ∃ u y, exec (.waitj h sa) s = .next u ∧ u.fibre q.c q.b q.f = some y ∧
      y.pc = q.x.pc ∧ y.status = .waiting .join ∧ y.regs = q.x.regs ∧ u.mem = s.mem) ∧
    (LineAway s q.c (t.pa (q.gg sa).toNat) → ∃ u y, exec (.waitj h sa) s = .next u ∧ u.fibre q.c q.b q.f = some y ∧
      y.pc = q.x.pc ∧ y.status = .waiting .join ∧ y.regs = q.x.regs ∧ u.mem = s.mem) ∧
    (here → joinWord s t (q.gg sa).toNat = none → let w := badRead s q.k.ctx (t.pa (q.gg sa).toNat) 4
      exec (.waitj h sa) s = .next (takeTrap w q.c q.b q.f (ownTrap w q 0x03 (q.gg sa) 0xFFFF 0)))

-- Accesses to memory and to the scratchpad

/-- R187 to R189, R191, R192: every global load, store and atomic leaves an access outstanding with its address, size, kind, scope,
data and destination, or stops at one of its three checks. A load's and a store's address is the pair plus the signed offset;
a sum below 0 is not canonical. -/
def Obligations.GlobalAccesses : Prop :=
  ∀ (s : State) (h : FHdr) (q : FCtx) (d sa sb sc : BitVec 8) (kind scope : BitVec 3) (off : BitVec 16),
    let base : Access := { id := 0, slot := 0, fib := 0, op := .store, kind := kind.toNat, scope := scope.toNat }
    let load (i : Instr) (n : Nat) (sgn : Bool) (r : Nat) : MemForm :=
      ⟨i, [srcA sa 2], [(d.toNat, r)], 0, { base with op := .load sgn n, size := n, dst := d.toNat, nregs := r }⟩
    let store (i : Instr) (n r : Nat) : MemForm :=
      ⟨i, [srcA sa 2, srcD d r], [], 1, { base with size := n, data := (q.regBytes d r).take n }⟩
    let rmw (i : Instr) (op n : Nat) (c : Option (BitVec 8)) : MemForm :=
      ⟨i, [srcA sa 2, srcB sb (n / 4)] ++ (c.map fun r => srcC r (n / 4)).toList, [(d.toNat, n / 4)], 2,
        { base with op := .rmw op, size := n, dst := d.toNat, nregs := n / 4, data := q.regBytes sb (n / 4),
                    cmp := (c.map fun r => q.regBytes r (n / 4)).getD [] }⟩
    let moves : List MemForm := [
      load (.ldGI8 h d sa kind scope off) 1 true 1, load (.ldGUi8 h d sa kind scope off) 1 false 1,
      load (.ldGI16 h d sa kind scope off) 2 true 1, load (.ldGUi16 h d sa kind scope off) 2 false 1,
      load (.ldGB32 h d sa kind scope off) 4 false 1, load (.ldGB64 h d sa kind scope off) 8 false 2,
      load (.ldGB128 h d sa kind scope off) 16 false 4, store (.stGB8 h d sa kind scope off) 1 1,
      store (.stGB16 h d sa kind scope off) 2 1, store (.stGB32 h d sa kind scope off) 4 1,
      store (.stGB64 h d sa kind scope off) 8 2, store (.stGB128 h d sa kind scope off) 16 4]
    let atomics : List MemForm := [
      rmw (.atomAddI32 h d sa sb kind scope) 0 4 none, rmw (.atomAddI64 h d sa sb kind scope) 1 8 none,
      rmw (.atomAndB32 h d sa sb kind scope) 2 4 none, rmw (.atomOrB32 h d sa sb kind scope) 3 4 none,
      rmw (.atomXorB32 h d sa sb kind scope) 4 4 none, rmw (.atomMinI32 h d sa sb kind scope) 5 4 none,
      rmw (.atomMaxI32 h d sa sb kind scope) 6 4 none, rmw (.atomMinUi32 h d sa sb kind scope) 7 4 none,
      rmw (.atomMaxUi32 h d sa sb kind scope) 8 4 none, rmw (.atomExchB32 h d sa sb kind scope) 9 4 none,
      rmw (.atomExchB64 h d sa sb kind scope) 10 8 none, rmw (.atomCasB32 h d sa sb sc kind scope) 11 4 (some sc),
      rmw (.atomCasB64 h d sa sb sc kind scope) 12 8 (some sc), rmw (.atomAddF32 h d sa sb kind scope) 13 4 none,
      rmw (.atomMinF32 h d sa sb kind scope) 14 4 none, rmw (.atomMaxF32 h d sa sb kind scope) 15 4 none]
    let at_ (va : Nat) : Prop := (va : Int) = (q.gg sa).toNat + off.toInt
    (∀ va m, at_ va → m ∈ moves → GlobalForm s h q va m) ∧
    ((q.gg sa).toNat + off.toInt < 0 → ∀ m ∈ moves, Takes s h q m.srcs m.dsts m.instr
      (ownTrap s q 0x04 (q.gg sa + off.signExtend 64) (BitVec.ofNat 64 (256 * m.acc)) 0)) ∧
    (∀ m ∈ atomics, GlobalForm s h q (q.gg sa).toNat m)

/-- R61, R190, R193: the same for the scratchpad, through a handle, at the offset in a register plus the unsigned offset of the
word. An atomic's kind field counts from strong. -/
def Obligations.ScratchpadAccesses : Prop :=
  ∀ (s : State) (h : FHdr) (q : FCtx) (d sa sb sc : BitVec 8) (hd : BitVec 4) (kind scope : BitVec 3) (off : BitVec 14)
    (k2 s2 : BitVec 2),
    let base : Access := { id := 0, slot := 0, fib := 0, op := .store, kind := kind.toNat, scope := scope.toNat }
    let load (i : Instr) (n : Nat) (sgn : Bool) (r : Nat) : MemForm :=
      ⟨i, [srcA sa], [(d.toNat, r)], 0, { base with op := .load sgn n, size := n, dst := d.toNat, nregs := r }⟩
    let store (i : Instr) (n r : Nat) : MemForm :=
      ⟨i, [srcA sa, srcD d r], [], 1, { base with size := n, data := (q.regBytes d r).take n }⟩
    let rmw (i : Instr) (op n : Nat) (c : Option (BitVec 8)) : MemForm :=
      ⟨i, [srcA sa, srcB sb (n / 4)] ++ (c.map fun r => srcC r (n / 4)).toList, [(d.toNat, n / 4)], 2,
        { base with op := .rmw op, size := n, kind := k2.toNat + 1, scope := s2.toNat, dst := d.toNat, nregs := n / 4,
                    data := q.regBytes sb (n / 4), cmp := (c.map fun r => q.regBytes r (n / 4)).getD [] }⟩
    let moves : List MemForm := [
      load (.ldSI8 h d sa hd kind scope off) 1 true 1, load (.ldSUi8 h d sa hd kind scope off) 1 false 1,
      load (.ldSI16 h d sa hd kind scope off) 2 true 1, load (.ldSUi16 h d sa hd kind scope off) 2 false 1,
      load (.ldSB32 h d sa hd kind scope off) 4 false 1, load (.ldSB64 h d sa hd kind scope off) 8 false 2,
      load (.ldSB128 h d sa hd kind scope off) 16 false 4, store (.stSB8 h d sa hd kind scope off) 1 1,
      store (.stSB16 h d sa hd kind scope off) 2 1, store (.stSB32 h d sa hd kind scope off) 4 1,
      store (.stSB64 h d sa hd kind scope off) 8 2, store (.stSB128 h d sa hd kind scope off) 16 4]
    let atomics : List MemForm := [
      rmw (.atomsAddI32 h d sa sb hd k2 s2) 0 4 none, rmw (.atomsAddI64 h d sa sb hd k2 s2) 1 8 none,
      rmw (.atomsAndB32 h d sa sb hd k2 s2) 2 4 none, rmw (.atomsOrB32 h d sa sb hd k2 s2) 3 4 none,
      rmw (.atomsXorB32 h d sa sb hd k2 s2) 4 4 none, rmw (.atomsMinI32 h d sa sb hd k2 s2) 5 4 none,
      rmw (.atomsMaxI32 h d sa sb hd k2 s2) 6 4 none, rmw (.atomsMinUi32 h d sa sb hd k2 s2) 7 4 none,
      rmw (.atomsMaxUi32 h d sa sb hd k2 s2) 8 4 none, rmw (.atomsExchB32 h d sa sb hd k2 s2) 9 4 none,
      rmw (.atomsExchB64 h d sa sb hd k2 s2) 10 8 none, rmw (.atomsCasB32 h d sa sb sc hd k2 s2) 11 4 (some sc),
      rmw (.atomsCasB64 h d sa sb sc hd k2 s2) 12 8 (some sc), rmw (.atomsAddF32 h d sa sb hd k2 s2) 13 4 none,
      rmw (.atomsMinF32 h d sa sb hd k2 s2) 14 4 none, rmw (.atomsMaxF32 h d sa sb hd k2 s2) 15 4 none]
    (∀ m ∈ moves, SpmForm s h q hd.toNat ((q.g sa).toNat + off.toNat) m) ∧
    (∀ m ∈ atomics, SpmForm s h q hd.toNat (q.g sa).toNat m)

/-- R188, R189, R364: what an issued access does to the state at once: its destination registers become empty under a new tag,
the fibre goes on, the access joins the core's outstanding ones, and nothing else changes, no byte of memory among it. -/
def Obligations.AccessFrame : Prop :=
  ∀ (s : State) (q : FCtx) (a : Access), s.block q.c q.b = some q.k → s.fibre q.c q.b q.f = some q.x →
    let t := q.issueAccess s a
    (∃ y, t.fibre q.c q.b q.f = some y ∧ y.pc = q.x.pc + 8 ∧ y.status = .ready ∧ y.preds = q.x.preds ∧ y.sig = q.x.sig ∧
      ∀ n, y.reg q.k.win n =
        if a.dst ≠ 0 ∧ a.dst ≤ n ∧ n < a.dst + a.nregs ∧ n < q.k.win
        then { val := q.x.g q.k.win n, full := false, poison := false, tag := q.x.tagCtr + 1 } else q.x.reg q.k.win n) ∧
    (t.core q.c).pend = (s.core q.c).pend ++ [{ a with
      id := (s.core q.c).pendId, slot := q.b, fib := q.f, ctx := q.k.ctx, blk := q.k.blk, tag := q.x.tagCtr + 1
      depth := q.x.depth, hint := q.h.h
      cycle := s.cycle }] ∧
    t.mem = s.mem ∧ t.dev = s.dev ∧ t.slices = s.slices ∧ (t.core q.c).spm = (s.core q.c).spm ∧
    (∀ c b f, (c, b, f) ≠ (q.c, q.b, q.f) → t.fibre c b f = s.fibre c b f) ∧ (∀ c, c ≠ q.c → t.core c = s.core c)

/-- R87, R92, R97, R192: a store or read-modify-write that is performed changes exactly the bytes of its place, in memory or in
the scratchpad, and a read-modify-write keeps the old value for its destination; a decrement of a join word takes 1 from it, at a
slice that has its line. -/
def Obligations.MemoryWrites : Prop :=
  ∀ (s : State) (c id : Nat) (a : Access), findAccess s c id = some a → a.phase = .issued → mayPerform (s.core c) a = true →
    MemOk s →
    let old := plainBytes s a.key a.pa a.size
    let inPlace (x : Nat) : Prop := a.pa ≤ x ∧ x < a.pa + a.size
    let global := a.spm = none ∧ 0 < a.size ∧ backed a.pa = true ∧ backed (a.pa + a.size - 1) = true ∧ keyGone s a.key = false ∧
      lineReady (s.slice' (sliceOf (dieOf c) a.pa)) (a.pa / 128) = true
    (a.op = .store → a.data.length = a.size → global → ∃ t, exec (.writePerformed c id) s = .next t ∧
      (∀ x, inPlace x → memGet t.mem x = a.data.getD (x - a.pa) 0) ∧ (∀ x, ¬inPlace x → memGet t.mem x = memGet s.mem x) ∧
      findAccess t c id = none) ∧
    (∀ op v, a.op = .rmw op → global → anyBad s a.pa a.size = false →
      rmwNew op (ofBytes old) (ofBytes a.data) (ofBytes a.cmp) a.size = some v → a.dst ≠ 0 →
      ∃ t b, exec (.writePerformed c id) s = .next t ∧
        (∀ x, inPlace x → memGet t.mem x = BitVec.ofNat 8 (v / 256 ^ (x - a.pa))) ∧
        (∀ x, ¬inPlace x → memGet t.mem x = memGet s.mem x) ∧
        findAccess t c id = some b ∧ b.phase = .performed ∧ b.val = old ∧ b.poison = false) ∧
    (∀ b, a.op = .store → a.spm = some b → b.home = c → spmAway s a.ctx a.spm = false → ∃ t, exec (.writePerformed c id) s = .next t ∧
      (∀ x, (t.core c).spm.find? x = if a.pa ≤ x ∧ x < a.pa + a.data.length then some (a.data.getD (x - a.pa) 0)
        else (s.core c).spm.find? x) ∧ t.mem = s.mem) ∧
    (∀ op v b, a.op = .rmw op → a.spm = some b → b.home = c → spmAway s a.ctx a.spm = false → a.dst ≠ 0 → unitBad (s.core c).spmBad a.pa a.size = false →
      (s.core c).spmRaced s.cycle (fibreAgent c a.slot a.fib) a.pa a.size = false →
      rmwNew op (ofBytes ((s.core c).spmBytes a.pa a.size)) (ofBytes a.data) (ofBytes a.cmp) a.size = some v →
      ∃ t y, exec (.writePerformed c id) s = .next t ∧ t.mem = s.mem ∧
        (∀ x, (t.core c).spm.find? x = if inPlace x then some (BitVec.ofNat 8 (v / 256 ^ (x - a.pa)))
          else (s.core c).spm.find? x) ∧
        findAccess t c id = some y ∧ y.phase = .performed ∧ y.val = (s.core c).spmBytes a.pa a.size ∧ y.poison = false) ∧
    (∀ t w, a.op = .joinDec → a.spm = none → translate s a.ctx 2 a.va = .ok t → backed (t.pa a.va) = true →
      backed (t.pa a.va + 3) = true → keyGone s t.key = false → anyBad s (t.pa a.va) 4 = false →
      lineReady (s.slice' (sliceOf (dieOf c) (t.pa a.va))) (t.pa a.va / 128) = true →
      ofBytes (plainBytes s t.key (t.pa a.va) 4) = w → ∃ u, exec (.joinDecrement c id) s = .next u ∧
        (∀ x, memGet u.mem x = if t.pa a.va ≤ x ∧ x < t.pa a.va + 4
          then BitVec.ofNat 8 ((w + 2 ^ 32 - 1) % 2 ^ 32 / 256 ^ (x - t.pa a.va)) else memGet s.mem x)) ∧
    (∀ o v m : BitVec 32, rmwNew 0 o.toNat v.toNat m.toNat 4 = some (o + v).toNat ∧
      rmwNew 2 o.toNat v.toNat m.toNat 4 = some (o &&& v).toNat ∧ rmwNew 3 o.toNat v.toNat m.toNat 4 = some (o ||| v).toNat ∧
      rmwNew 4 o.toNat v.toNat m.toNat 4 = some (o ^^^ v).toNat ∧
      rmwNew 5 o.toNat v.toNat m.toNat 4 = some (if o.toInt ≤ v.toInt then o else v).toNat ∧
      rmwNew 6 o.toNat v.toNat m.toNat 4 = some (if o.toInt ≤ v.toInt then v else o).toNat ∧
      rmwNew 7 o.toNat v.toNat m.toNat 4 = some (min o.toNat v.toNat) ∧
      rmwNew 8 o.toNat v.toNat m.toNat 4 = some (max o.toNat v.toNat) ∧ rmwNew 9 o.toNat v.toNat m.toNat 4 = some v.toNat ∧
      rmwNew 11 o.toNat v.toNat m.toNat 4 = (if o = m then some v.toNat else none) ∧
      rmwNew 13 o.toNat v.toNat m.toNat 4 = some (fAdd 0x11 0 o.toNat v.toNat) ∧
      rmwNew 14 o.toNat v.toNat m.toNat 4 = some (fminmax false 0x11 o.toNat v.toNat) ∧
      rmwNew 15 o.toNat v.toNat m.toNat 4 = some (fminmax true 0x11 o.toNat v.toNat)) ∧
    (∀ o v m : BitVec 64, rmwNew 1 o.toNat v.toNat m.toNat 8 = some (o + v).toNat ∧ rmwNew 10 o.toNat v.toNat m.toNat 8 = some v.toNat ∧
      rmwNew 12 o.toNat v.toNat m.toNat 8 = (if o = m then some v.toNat else none))

/-- R70, R73, R87, R188, R364: a read takes the bytes of its place, or POISON where memory gives it, and its data land in the
registers that wait for them; a fill brings its line into the slice; a merge entry ends; and a lease ends: no later load is
served by that copy. -/
def Obligations.MemoryReads : Prop :=
  ∀ (s : State) (c id : Nat) (a : Access),
    (findAccess s c id = some a → a.phase = .issued → (∃ sgn n, a.op = .load sgn n) → a.spm = none → a.dst ≠ 0 → a.kind ≠ 0 →
      mayPerform (s.core c) a = true →
      (unbacked a.pa = true ∨ lineReady (s.slice' (sliceOf (dieOf c) a.pa)) (a.pa / 128) = true) →
      ∃ t b, exec (.l2Request c id) s = .next t ∧ t.mem = s.mem ∧ findAccess t c id = some b ∧ b.phase = .performed ∧
        b.val = (physRead s a.key a.pa a.size).getD [] ∧ b.poison = (physRead s a.key a.pa a.size).isNone) ∧
    (∀ (k : Block) (x : Fibre) (sgn : Bool), findAccess s c id = some a → a.phase = .performed → a.beat = none →
      a.op = .load sgn a.size → a.size ≤ 4 → 0 < a.size → a.nregs = 1 → a.val.length = a.size → a.poison = false → s.block c a.slot = some k →
      s.fibre c a.slot a.fib = some x → x.depth = a.depth → (x.reg k.win a.dst).full = false → (x.reg k.win a.dst).tag = a.tag →
      ∃ t y, exec (.loadDataReturn c id) s = .next t ∧ t.mem = s.mem ∧ t.fibre c a.slot a.fib = some y ∧ findAccess t c id = none ∧
        y.reg k.win a.dst = { val := BitVec.ofInt 32 (if sgn && decide (a.size < 4) then Int.bmod (ofBytes a.val) (2 ^ (8 * a.size))
          else ofBytes a.val) } ∧
        ∀ n, n ≠ a.dst → y.reg k.win n = x.reg k.win n) ∧
    (∀ line, ∃ t, exec (.l1LeaseExpiry c line) s = .next t ∧ t.mem = s.mem ∧
      (t.core c).l1.find? line = none ∧ (∀ d b acq, l1Core s d b.pa = c → b.pa / 128 = line → l1Hit t d b acq = none) ∧
      ∀ l, l ≠ line → (t.core c).l1.find? l = (s.core c).l1.find? l) ∧
    (∀ sl line m, line < 2 ^ 60 → (s.slice' sl).merges.find? line = some m → m.arrived = false → m.held = false → m.regs = [] →
      backed (128 * line) = true →
      ∃ t, exec (.l2FillArrival sl line) s = .next t ∧ t.mem = s.mem ∧ ((t.slice' sl).lines.find? line).isSome ∧
        (t.slice' sl).merges.find? line = some { m with
          arrived := true, data := physRead s m.key (128 * line) 128, taken := s.cycle, writers := [] }) ∧
    (∀ sl line m, (s.slice' sl).merges.find? line = some m →
      (m.arrived = true → m.opened / 2 + m.window ≤ s.cycle / 2 → ∃ t, exec (.mergeWindowClose sl line) s = .next t ∧
        t.mem = s.mem ∧ (t.slice' sl).merges = (s.slice' sl).merges.del line) ∧
      (m.arrived = false → exec (.mergeWindowClose sl line) s = .next s))

/-- R300, R301, R384, R385, R80, R76: an access to another core's scratchpad is performed there through its network slot and its
answer comes back; a walk's translation is cached or its page fault taken; an invalidation drops the translations that it
names; a format window is enabled only where it fits, and while enabled only EN may be written. That every beat moves in the
second core cycle of a fabric cycle is the model's choice (log 85). -/
def Obligations.NetworkAndTranslation : Prop :=
  ∀ (s : State) (c id : Nat) (a : Access) (b : Buf),
    (findAccess s c id = some a → a.spm = some b → b.home ≠ c → a.phase = .issued → mayPerform (s.core c) a = true →
      (s.core c).usable c b.home (s.cycle / 2) = true → (s.core b.home).idleBeat ≠ some (s.cycle / 2) →
      (s.core c).sentBeat ≠ some (s.cycle / 2) → s.cycle % 2 = 1 → id < 2 ^ 60 → spmAway s a.ctx a.spm = false →
      (a.op = .store → ∃ t, exec (.netslotBeat c id) s = .next t ∧ t.mem = s.mem ∧ findAccess t c id = none ∧
        ∀ x, (t.core b.home).spm.find? x = if a.pa ≤ x ∧ x < a.pa + a.data.length then some (a.data.getD (x - a.pa) 0)
          else (s.core b.home).spm.find? x) ∧
      (∀ sgn n, a.op = .load sgn n → a.dst ≠ 0 → ∃ t y, exec (.netslotBeat c id) s = .next t ∧ t.mem = s.mem ∧
        findAccess t c id = some y ∧ y.phase = .performed ∧ y.beat = some s.cycle ∧
        y.poison = unitBad (s.core b.home).spmBad a.pa a.size ∧
        (unitBad (s.core b.home).spmBad a.pa a.size = false →
          (s.core b.home).spmRaced s.cycle (fibreAgent c a.slot a.fib) a.pa a.size = false →
          y.val = (s.core b.home).spmBytes a.pa a.size))) ∧
    (s.cycle % 2 = 0 → exec (.netslotBeat c id) s = .next s) ∧
    (∀ (k : Block) (x : Fibre) (beat : Nat) (w : Word), findAccess s c id = some a → a.phase = .performed → a.beat = some beat →
      beat / 2 + 8 ≤ s.cycle / 2 → a.op = .load false 4 → a.size = 4 → a.nregs = 1 → a.val = toBytes 4 w.toNat → a.poison = false →
      s.block c a.slot = some k → s.fibre c a.slot a.fib = some x → x.depth = a.depth →
      (x.reg k.win a.dst).full = false → (x.reg k.win a.dst).tag = a.tag →
      ∃ t y, exec (.netslotReply c id) s = .next t ∧ t.mem = s.mem ∧ t.fibre c a.slot a.fib = some y ∧
        y.reg k.win a.dst = { val := w } ∧ findAccess t c id = none) ∧
    (∀ (ctx page : Nat) (t : Tlb), walkPage s ctx (4096 * page) = .ok t → t.ctx = ctx → t.page = page →
      tlbFind s ctx page = none → (∃ d, (d, ctx, page) ∈ runningWalks s) →
      ∃ u, exec (.pageWalk ctx page) s = .next u ∧ tlbFind u ctx page = some t ∧ (∀ d, (d, ctx, page) ∉ u.walks) ∧ u.mem = s.mem) ∧
    (∀ ctx page, (∀ d, (d, ctx, page) ∉ runningWalks s) → exec (.pageWalk ctx page) s = .next s) ∧
    (∀ (v : BitVec 64), s.tivaBusy = none → v.getLsbD 8 = true → ∃ u, exec (.tictlInvalidate v) s = .next u ∧ u.mem = s.mem ∧
      devBits u 0x50008 9 9 = 1 ∧ u.tivaBusy.isSome ∧
      ∀ t, t ∈ u.tlb ↔ t ∈ s.tlb ∧ ¬(t.ctx = (v.extractLsb' 0 6).toNat ∧
        (v.getLsbD 6 = true ∨ t.page = devBits s 0x50000 55 12 ∨
          ∃ l, l ∈ s.tlb ∧ l.ctx = t.ctx ∧ l.page / l.pages = devBits s 0x50000 55 12 / l.pages ∧
            l.page / l.pages = t.page / l.pages))) ∧
    (∀ (x y : Nat) (all : Bool) (l : List (Nat × Nat)), s.tivaBusy = some (x, y, all, l) →
      (∀ p ∈ l, findAccess s p.1 p.2 = none) → ∃ u, exec .tlbInvalidateComplete s = .next u ∧ u.tivaBusy = none ∧
        devBits u 0x50008 9 9 = 0 ∧ u.tlb = s.tlb ∧ u.mem = s.mem) ∧
    (∀ (st w : Nat) (v : BitVec 64), devBits s (offFW st w 8) 0 0 = 0 →
      (windowFits s st w (v &&& 0x00FFFFFF00000FF3) = true ∨ v.getLsbD 0 = false →
        ∃ u, exec (.fwctlWrite st w v) s = .next u ∧ devGet u (offFW st w 8) = v &&& 0x00FFFFFF00000FF3 ∧ u.mem = s.mem) ∧
      (windowFits s st w (v &&& 0x00FFFFFF00000FF3) = false → ∃ u, exec (.fwctlWrite st w v) s = .next u ∧
        devBits u (offFW st w 8) 0 0 = 0 ∧ u.mem = s.mem)) ∧
    (∀ (st w : Nat) (v : BitVec 64), devBits s (offFW st w 8) 0 0 = 1 → v.getLsbD 0 = false →
      ∃ u, exec (.fwctlWrite st w v) s = .next u ∧ devBits u (offFW st w 8) 0 0 = 0 ∧
        devBits u (offFW st w 8) 55 1 = devBits s (offFW st w 8) 55 1 ∧ u.mem = s.mem)

/-- R88, R184, R194 to R198, R53: a fence holds back no issue, and while it is open none of the fibre's later accesses is
performed; a prefetch, a launch and a message are left outstanding; LDROP takes copies out of the L1, of every core of a fused
cluster where it names no line; QPOP takes the oldest entry of its queue, or 64 zeros and a
true predicate at the stream's end; at a POISON end it is a STREAM_FAULT, of another context's queue BOUNDS, and without an owner
it waits; a message that arrives is queued at its slice or disposed of with its status. -/
def Obligations.FencesQueuesMessages : Prop :=
  ∀ (s : State) (h : FHdr) (q : FCtx) (d sa sb qn pe : BitVec 8) (order : BitVec 2) (scope len : BitVec 3) (sel : BitVec 4)
    (queue : BitVec 7) (t : Tlb),
    let va := (q.gg sa).toNat
    let goesOn (i : Instr) (u : State) : Prop := ∃ y, exec i s = .next u ∧ u.fibre q.c q.b q.f = some y ∧ y.pc = q.x.pc + 8 ∧
      y.status = .ready ∧ y.preds = q.x.preds ∧ (∀ n, y.reg q.k.win n = q.x.reg q.k.win n) ∧ u.mem = s.mem
    let line := (t.frame * 4096 + va % 4096) / 128
    let queueOf := (s.core q.c).queue qn.toNat
    let popAll (u : State) (words : List Word) (eos : Bool) : Prop :=
      ∃ y, exec (.qpop h d qn pe) s = .next u ∧ u.fibre q.c q.b q.f = some y ∧ y.pc = q.x.pc + 8 ∧ u.mem = s.mem ∧
        (∀ n, y.reg q.k.win n = if d ≠ 0 ∧ d.toNat ≤ n ∧ n < d.toNat + 64 ∧ n < q.k.win
          then { val := words.getD (n - d.toNat) 0 } else q.x.reg q.k.win n) ∧
        (∀ n, y.pred n = if n = pe.toNat ∧ 0 < n ∧ n < 16 then eos else q.x.pred n)
    (Issues s h q [] [] [] → ∃ u, goesOn (.fence h order scope) u) ∧
    (∀ (c id o : Nat) (a b : Access), findAccess s c id = some a → b ∈ (s.core c).pend → b.op = .fence o → b.open_ = true →
      b.id < a.id → b.slot = a.slot → b.fib = a.fib → id < 2 ^ 60 →
      exec (.l2Request c id) s = .next s ∧ exec (.writePerformed c id) s = .next s ∧ exec (.joinDecrement c id) s = .next s ∧
      exec (.netslotBeat c id) s = .next s) ∧
    (tlbFind s q.k.ctx (va / 4096) = some t → va < 2 ^ 56 → permit s q.k.ctx 0 t = .ok t →
      Accesses s h q [srcA sa 2] [] (.pref h sa)
        { id := 0, slot := 0, fib := 0, op := .pref (h.h ≠ 1), va := va, pa := (t.frame * 4096 + va % 4096) / 128 * 128, key := t.key, size := 0 } ∧
      (Issues s h q [srcA sa 2] [] [] → sa ≠ 0 → ∃ u, goesOn (.ldrop h sa) u ∧ u.core (l1Core s q.c (128 * line)) =
        { (q.retire s q.x).core (l1Core s q.c (128 * line)) with l1 := (s.core (l1Core s q.c (128 * line))).l1.del line })) ∧
    (Issues s h q [srcA 0 2] [] [] → ∃ u, goesOn (.ldrop h 0) u ∧ (u.core q.c).l1 = [] ∧
      ((s.cluster (clusterOf q.c)).fused = true → ∀ c, clusterOf c = clusterOf q.c → (u.core c).l1 = [])) ∧
    (Mapped s q 0 va 128 t → Accesses s h q [srcA sa 2] [(d.toNat, 1)] (.launch h d sa queue)
      { id := 0, slot := 0, fib := 0, op := .launch queue.toNat, va := va, pa := t.frame * 4096 + va % 4096, key := t.key, size := 128,
        kind := 3, scope := 3, dst := d.toNat, nregs := 1 }) ∧
    (Mapped s q 0 va 1 t → Accesses s h q [srcA sa 2, runB sb (len.toNat + 1)] [(d.toNat, 1)] (.lmsg h d sa sb len sel)
      { id := 0, slot := 0, fib := 0, op := .lmsg sel.toNat, va := va, pa := t.frame * 4096 + va % 4096, key := t.key, size := 0,
        kind := 3, data := q.runBytes sb (len.toNat + 1), dst := d.toNat, nregs := 1 }) ∧
    (∀ e rest, Issues s h q [] [] [(d.toNat, 64)] → (s.core q.c).qOwner = some q.k.ctx → queueOf.data = e :: rest →
      ∃ u, popAll u ((List.range 64).map fun i => BitVec.ofNat 32 (ofBytes (slice e (4 * i) 4))) false ∧
        ((u.core q.c).queue qn.toNat).data = rest) ∧
    (∀ pay, Issues s h q [] [] [(d.toNat, 64)] → (s.core q.c).qOwner = some q.k.ctx → queueOf.data = [] →
      queueOf.term = some (.eos, pay) → ∃ u, popAll u (List.replicate 64 0) true) ∧
    (Issues s h q [] [] [(d.toNat, 64)] → (s.core q.c).qOwner = some q.k.ctx → queueOf.data = [] → queueOf.term = none →
      ∃ u y, exec (.qpop h d qn pe) s = .next u ∧ u.fibre q.c q.b q.f = some y ∧ y.status = .waiting (.qempty qn.toNat) ∧
        y.pc = q.x.pc ∧ y.regs = q.x.regs ∧ u.mem = s.mem) ∧
    (∀ pay, (s.core q.c).qOwner = some q.k.ctx → queueOf.data = [] → queueOf.term = some (.poison, pay) →
      Takes s h q [] [(d.toNat, 64)] (.qpop h d qn pe)
        (ownTrap s q 0x0B 0 (streamTrap qn.toNat pay).info0 (streamTrap qn.toNat pay).info1)) ∧
    (∀ o, (s.core q.c).qOwner = some o → o ≠ q.k.ctx →
      Takes s h q [] [(d.toNat, 64)] (.qpop h d qn pe) (ownTrap s q 0x06 (qn.setWidth 64) 0 0)) ∧
    (Issues s h q [] [] [(d.toNat, 64)] → (s.core q.c).qOwner = none →
      exec (.qpop h d qn pe) s = .next (q.wait s (.qempty qn.toNat))) ∧
    (∀ (c id n : Nat) (a : Access), findAccess s c id = some a → a.op = .lmsg n → a.phase = .issued →
      mayPerform (s.core c) a = true → a.dst ≠ 0 →
      (∀ st, msgRefused s (sliceOf (dieOf c) a.pa) a.ctx = some st → ∃ u b, exec (.lmsgArrival c id) s = .next u ∧
        findAccess u c id = some b ∧ b.phase = .performed ∧ b.val = toBytes 4 st ∧ u.slices = s.slices) ∧
      (msgRefused s (sliceOf (dieOf c) a.pa) a.ctx = none → eventsFull s (sliceOf (dieOf c) a.pa) = false →
        ∃ u b e, exec (.lmsgArrival c id) s = .next u ∧ findAccess u c id = some b ∧ b.phase = .performed ∧ b.val = toBytes 4 0 ∧
          (u.slice' (sliceOf (dieOf c) a.pa)).events = (s.slice' (sliceOf (dieOf c) a.pa)).events ++ [e] ∧ e.kind = 3 ∧
          e.ctx = a.ctx ∧ e.addr = a.pa))

/-- R62, R64, R199: HGIVE takes the handle from its block and puts the buffer with its tag into the target core's inbox, waiting
while the inbox is full or the buffer in use, and, by the model's choice of log 96, until the fibre's own accesses have been
performed; HTAKE binds the oldest matching entry to a null handle. -/
def Obligations.HandlePassing : Prop :=
  ∀ (s : State) (h : FHdr) (q : FCtx) (hd sb : BitVec 8) (tag : BitVec 16) (b : Buf) (e : InboxEntry) (l r : List InboxEntry),
    let target := q.c / 192 * 192 + (q.g sb).toNat
    (Issues s h q [srcB sb] [] [] → Drained s q → q.k.handles.find? hd.toNat = some b → b.valid = true → (q.g sb).toNat < 192 →
      (bufBusy (s.core q.c) q.c q.b b = false → (s.core target).inbox.length < 16 →
        ∃ t k, exec (.hgive h hd sb tag) s = .next t ∧ t.block q.c q.b = some k ∧ k.handles = q.k.handles.del hd.toNat ∧
          (t.core target).inbox = (s.core target).inbox ++ [⟨b, tag, q.k.ctx⟩] ∧
          t.fibre q.c q.b q.f = some (q.x.issued s.cycle) ∧ t.mem = s.mem) ∧
      (bufBusy (s.core q.c) q.c q.b b = true ∨ 16 ≤ (s.core target).inbox.length →
        ∃ t y, exec (.hgive h hd sb tag) s = .next t ∧ t.fibre q.c q.b q.f = some y ∧ y.status = .waiting .handle ∧
          y.pc = q.x.pc ∧ (t.core target).inbox = (s.core target).inbox)) ∧
    (Issues s h q [srcB sb] [] [] → ¬ Drained s q → q.k.handles.find? hd.toNat = some b → b.valid = true →
      (q.g sb).toNat < 192 → exec (.hgive h hd sb tag) s = .next (q.wait s .handle)) ∧
    (q.k.handles.find? hd.toNat = none → Takes s h q [srcB sb] [] (.hgive h hd sb tag)
      (ownTrap s q 0x07 0 (hd.setWidth 64) 0)) ∧
    (q.k.handles.find? hd.toNat = some b → b.valid = true → 192 ≤ (q.g sb).toNat →
      Takes s h q [srcB sb] [] (.hgive h hd sb tag) (ownTrap s q 0x06 ((q.g sb).setWidth 64) 1 0)) ∧
    (Issues s h q [] [] [] → q.k.handles.find? hd.toNat = none → (s.core q.c).inbox = l ++ e :: r → e.ctx = q.k.ctx → e.tag = tag →
      (∀ x ∈ l, ¬(x.ctx = q.k.ctx ∧ x.tag = tag)) → ∃ t k, exec (.htake h hd tag) s = .next t ∧ t.block q.c q.b = some k ∧
        k.handles = q.k.handles.set hd.toNat e.buf ∧ (t.core q.c).inbox = l ++ r ∧ t.mem = s.mem) ∧
    (Issues s h q [] [] [] → q.k.handles.find? hd.toNat = none → (∀ x ∈ (s.core q.c).inbox, ¬(x.ctx = q.k.ctx ∧ x.tag = tag)) →
      ∃ t y, exec (.htake h hd tag) s = .next t ∧ t.fibre q.c q.b q.f = some y ∧ y.status = .waiting .handle ∧ y.pc = q.x.pc) ∧
    (q.k.handles.find? hd.toNat = some b → Takes s h q [] [] (.htake h hd tag) (ownTrap s q 0x06 (hd.setWidth 64) 0 0))

/-- R40, R41, R43, R200, R201, R203: arrivals count toward a phase; the arrival that reaches the expected count flips the phase,
starts the count anew and releases the phase's waiters; BWAIT waits for the next completion where it names the phase that is
current, and goes on where that phase has passed, by the model's choice of log 78 not before the accesses that precede that
phase's arrivals have been performed; BEXP sets the count; BATT attaches a matrix operation and
its signers to the phase; a barrier name outside the block's is BOUNDS. -/
def Obligations.Barriers : Prop :=
  ∀ (s : State) (h : FHdr) (q : FCtx) (d b sa : BitVec 8) (j : BitVec 4) (n : Nat),
    let x := s.bar q.c n
    let phase : Word := if x.phase then 1 else 0
    let named := q.k.bars[b.toNat]? = some n
    let owed := arrivalOwed (s.core q.c) n x.done
    let arrives (i : Instr) (dsts : List (Nat × Nat)) (who : Option Nat) : Prop :=
      Issues s h q [] [] dsts → named →
        (x.arrived + 1 < x.expected → ∃ t, exec i s = .next t ∧ t.mem = s.mem ∧ (t.bar q.c n).arrived = x.arrived + 1 ∧
          (t.bar q.c n).phase = x.phase ∧ (t.bar q.c n).expected = x.expected ∧ (t.bar q.c n).signBy = who) ∧
        (x.expected ≤ x.arrived + 1 → x.att = none → ∃ t, exec i s = .next t ∧ t.mem = s.mem ∧ (t.bar q.c n).arrived = 0 ∧
          (t.bar q.c n).phase = !x.phase ∧ (t.bar q.c n).expected = x.expected ∧ (t.bar q.c n).done = x.done + 1)
    arrives (.barv h d b) [(d.toNat, 1)] x.signBy ∧ (q.x.arrivedAt = none → arrives (.bsync h b) [] x.signBy) ∧
    (hasN x.signers q.f = true → arrives (.bsign h d b) [(d.toNat, 1)] (some q.f)) ∧
    (Issues s h q [] [] [(d.toNat, 1)] → named → ∃ t y, exec (.barv h d b) s = .next t ∧
      t.fibre q.c q.b q.f = some y ∧ y.pc = q.x.pc + 8 ∧ y.reg q.k.win d.toNat = ((q.x.setReg q.k.win d.toNat phase).reg q.k.win d.toNat)) ∧
    (Issues s h q [srcA sa] [] [] → named →
      (x.phase ≠ (q.g sa).getLsbD 0 → owed = false → ∃ t y, exec (.bwait h b sa) s = .next t ∧ t.fibre q.c q.b q.f = some y ∧ y.pc = q.x.pc + 8 ∧
        y.status = .ready ∧ y.regs = q.x.regs ∧ t.bar q.c n = x) ∧
      (x.phase = (q.g sa).getLsbD 0 → exec (.bwait h b sa) s = .next (q.wait s (.barrier n (x.done + 1)))) ∧
      (x.phase ≠ (q.g sa).getLsbD 0 → owed = true → exec (.bwait h b sa) s = .next (q.wait s (.barrier n x.done)))) ∧
    (∀ c f y, Issues s h q [] [] [(d.toNat, 1)] → named → Drained s q → x.expected ≤ x.arrived + 1 → x.att = none →
      arrivalOwed (s.core q.c) n (x.done + 1) = false → (c, f) ≠ (q.b, q.f) → s.fibre q.c c f = some y →
      y.status = .waiting (.barrier n (x.done + 1)) → ∃ t z, exec (.barv h d b) s = .next t ∧ t.fibre q.c c f = some z ∧
        z.pc = y.pc + 8 ∧ z.status = .ready ∧ z.regs = y.regs ∧ s.cycle < z.acqTime) ∧
    (Issues s h q [srcA sa] [] [] → named → 0 < (q.g sa).toNat → (q.g sa).toNat ≤ 4096 → x.arrived < (q.g sa).toNat →
      ∃ t, exec (.bexp h b sa) s = .next t ∧ t.bar q.c n = { x with expected := (q.g sa).toNat } ∧
        t.fibre q.c q.b q.f = some (q.x.issued s.cycle) ∧ t.mem = s.mem) ∧
    (∀ o, Issues s h q [srcA sa 2] [] [] → named → x.arrived = 0 → attachable (q.gg sa) = some o → (mReq o).op ≠ 0 →
      (q.k.masks.get j.toNat {}).enrolled ≠ [] → ∃ t, exec (.batt h b sa j) s = .next t ∧ t.mem = s.mem ∧
        (t.bar q.c n).att = some ((q.gg sa).setWidth 48) ∧ (t.bar q.c n).signers = (q.k.masks.get j.toNat {}).enrolled ∧
        (t.bar q.c n).attBy = q.f) ∧
    (q.k.bars[b.toNat]? = none → Takes s h q [] [(d.toNat, 1)] (.barv h d b) (ownTrap s q 0x06 (b.setWidth 64) 2 0) ∧
      Takes s h q [srcA sa] [] (.bwait h b sa) (ownTrap s q 0x06 (b.setWidth 64) 2 0) ∧
      Takes s h q [srcA sa] [] (.bexp h b sa) (ownTrap s q 0x06 (b.setWidth 64) 2 0) ∧
      Takes s h q [] [] (.bsync h b) (ownTrap s q 0x06 (b.setWidth 64) 2 0))

/-- R44 to R46, R204 to R206: a fibre whose mapped registers are full arrives at the gate; the last one requests the lamp for its
block; a lamp that is free is granted to the first request, and tile code begins at its gate record's entry with the mapped
registers gathered, in map order, fibre by fibre, once the accesses that its fibres made before the gate have been performed. -/
def Obligations.GateAndLamp : Prop :=
  ∀ (s : State) (h : FHdr) (q : FCtx) (idx : BitVec 24) (c b : Nat) (k : Block) (rest : List (Nat × Nat)) (st : Nat),
    let m := (gateOf s q.k.ctx q.x.pc idx.toNat).2.2
    (Issues s h q [] [] [] → (∀ n ∈ mapRegs m, (q.x.reg q.k.win n).full = true ∧ (q.x.reg q.k.win n).poison = false) →
      (∃ p ∈ q.k.fibres, p.1 ≠ q.f ∧ p.2.status ≠ .ended ∧ p.2.atGate = false) → ∃ t y, exec (.gate h idx) s = .next t ∧
        t.fibre q.c q.b q.f = some y ∧ y.status = .waiting .gate ∧ y.pc = q.x.pc ∧ y.regs = q.x.regs ∧ t.mem = s.mem ∧
        (t.core q.c).lampQ = (s.core q.c).lampQ) ∧
    (∀ buf, Issues s h q [] [] [] → (∀ n ∈ mapRegs m, (q.x.reg q.k.win n).full = true ∧ (q.x.reg q.k.win n).poison = false) →
      q.k.fibres = [(q.f, q.x)] → q.k.requested = false → gateIndex s q.k.ctx q.x.pc = idx.toNat →
      q.k.handles.find? 0 = some buf → buf.valid = true → gatherEnd q.k.nfibre m ≤ buf.len → (s.core q.c).lampQ = [] →
      ∃ t y k, exec (.gate h idx) s = .next t ∧ t.fibre q.c q.b q.f = some y ∧ y.status = .waiting .lamp ∧ y.pc = q.x.pc ∧
        t.block q.c q.b = some k ∧ k.requested = true ∧ (t.core q.c).lampQ = [(q.k.stage, q.b)] ∧ t.mem = s.mem) ∧
    (s.block c b = some k → (s.core c).lamp = none → (s.core c).lampQ = (st, b) :: rest →
      let g := (k.gate.getD {})
      let map := (frameGate s k.ctx g).2
      let buf := k.gbuf.getD {}
      ∃ t, exec (.lampGrant c) s = .next t ∧ (t.core c).lamp = some b ∧ (t.core c).lampQ = rest ∧ (t.core c).tsq.active = true ∧
        (t.core c).tsq.pc = (frameGate s k.ctx g).1 ∧ t.mem = s.mem ∧
        (¬ (openOfBlock (s.core c) b).isEmpty → (t.core c).spm = (s.core c).spm ∧ (t.core c).tsq.gather = true) ∧
        (∀ first cnt desc, (openOfBlock (s.core c) b).isEmpty → map = [(first, cnt, desc)] → buf.home = c → ∀ f i j, f < k.nfibre → i < cnt → j < 4 →
          (t.core c).spm.find? (buf.base + 4 * (f * cnt + i) + j) =
            some ((gatherWord k f (first + i)).extractLsb' (8 * j) 8))) ∧
    ((s.core c).lamp ≠ none ∨ (s.core c).lampQ = [] → exec (.lampGrant c) s = .next s)

/-- R96, R101, R207 to R210, R257, R288 to R290: XCOPY reads and checks its record and queues its command with a promise that
lies in the future; a queued command whose bytes can be moved asks for its lines, is carried out once they have come and leaves; one
that meets a fault stops with its
record; PUBLISH exchanges the frames of its set; a missed promise is reported. A command begins by the walks of its pages. The
bytes of a plain copy, of a 2-D copy, of a pack and of an unpack from the accumulator memory to the scratchpad are stated element
by element. Which cycle a promise names is the free value of log 8; that an engine's commands wait for walks as other requests
do, and XCOPY and PUBLISH for the fibre's own accesses, are the model's choices (logs 1, 96). -/
def Obligations.CopiesAndPublishes : Prop :=
  ∀ (s : State) (h : FHdr) (q : FCtx) (d sa sb bar : BitVec 8) (pm pt : BitVec 1) (t : Tlb) (bytes : List Byte) (op fac : Nat)
    (c : Nat) (x : CpeCmd) (rest : List CpeCmd),
    let va := (q.gg sa).toNat
    let src := BitVec.ofNat 512 (ofBytes (bytes.take 64))
    let dst := BitVec.ofNat 512 (ofBytes (slice bytes 64 64))
    (∀ arr n, (arr = 1 → q.k.bars[bar.toNat]? = some n) →
      Issues s h q [srcA sa 2] [] [(d.toNat, 2)] → Drained s q → Mapped s q 0 va 256 t → (s.core q.c).cpe.length < 16 →
      physRead s t.key (t.frame * 4096 + va % 4096) 256 = some bytes → recordControl bytes = .ok (op, fac) →
      copyCheck q.k op (pm = 1) src dst 0 0 fac = none → ∃ u y x, exec (.xcopy h d sa bar pm pt arr) s = .next u ∧
        u.fibre q.c q.b q.f = some y ∧ y.pc = q.x.pc + 8 ∧ y.xcopies = q.x.xcopies + 1 ∧ s.cycle + 16 ≤ x.promise ∧
        y.gg q.k.win d.toNat = (q.x.setPair q.k.win d.toNat (BitVec.ofNat 64 x.promise)).gg q.k.win d.toNat ∧
        (u.core q.c).cpe = (s.core q.c).cpe ++ [x] ∧ x.op = op ∧ x.src = src ∧ x.dst = dst ∧ x.factor = fac ∧ x.bar = (if arr = 1 then some n else none) ∧
        x.owner = .fibre q.b q.f q.x.xcopies ∧ x.stop = none ∧ u.mem = s.mem) ∧
    (∀ e, recordControl bytes = .error e → Issues s h q [srcA sa 2] [] [(d.toNat, 2)] → Drained s q → Mapped s q 0 va 256 t →
      (s.core q.c).cpe.length < 16 → physRead s t.key (t.frame * 4096 + va % 4096) 256 = some bytes →
      exec (.xcopy h d sa bar pm pt 0) s = .next (takeTrap s q.c q.b q.f (ownTrap s q e.code e.addr e.info0 e.info1))) ∧
    (Issues s h q [srcA sa 2] [] [(d.toNat, 2)] → ¬ Drained s q → Mapped s q 0 va 256 t → (s.core q.c).cpe.length < 16 →
      exec (.xcopy h d sa bar pm pt 0) s = .next (q.wait s .engbusy)) ∧
    (Issues s h q [srcA sa 2, srcB sb] [] [] → Drained s q → (q.g sb).toNat ≠ 0 → va < 2 ^ 56 → va % 4096 = 0 →
      publishLook s q.k.ctx (pagesOf va (q.g sb).toNat) = none → publishBlocked s q.k.ctx va (q.g sb).toNat s.cycle = false →
      ∃ y, exec (.publish h sa sb) s = .next (publishAll (q.retire s y) q.k.ctx (pagesOf va (q.g sb).toNat)) ∧ y.regs = q.x.regs ∧
        y.pc = q.x.pc) ∧
    ((q.g sb).toNat = 0 → Takes s h q [srcA sa 2, srcB sb] [] (.publish h sa sb) (ownTrap s q 0x06 0 1 0)) ∧
    ((s.core c).cpe = x :: rest → cmdReady s c x = true → x.pub = none → pagesDue s c x ≠ [] →
      exec (.cpeCommandComplete c) s = .next (askPages s c x (pagesDue s c x)) ∧ exec (.cpeCommandFault c) s = .next s) ∧
    ((s.core c).cpe = x :: rest → cmdReady s c x = true → x.pub = none → copyFaultFrom s c x x.total 0 = none → x.asked = false →
      pagesDue s c x = [] → x.shut s c = false → ∃ u y, exec (.cpeCommandComplete c) s = .next u ∧
        (u.core c).cpe = y :: rest ∧ y.asked = true ∧ y.id = x.id ∧ u.mem = s.mem) ∧
    ((s.core c).cpe = x :: rest → cmdReady s c x = true → x.bar = none → x.pub = none → x.asked = true →
      x.served (s.cycle / 2) = true → copyFaultFrom s c x x.total 0 = none → pagesDue s c x = [] → x.shut s c = false →
      exec (.cpeCommandComplete c) s = .next (popCmd (doMoves c x x.total 0 s) c)) ∧
    (∀ b : Buf, descSpace x.src = 2 → descSpace x.dst = 1 → x.dstBuf = some b → b.home = c → (s.core c).acmBad = [] →
      let n := descSize x.dst
      let end_ := (doMoves c x x.total 0 s).core c
      let place (e : BitVec 512) (off i j : Nat) : Nat := descBase e + off + n * (i + j * descStride e 1)
      let held (i j m : Nat) : Byte :=
        let a := place x.src x.srcOff i j + m
        (rowBytes ((s.core c).row (a / 256))).getD (a % 256) 0
      let gets (i j : Nat) (v : Nat → Byte) : Prop :=
        ∀ m, m < n → end_.spm.find? (b.base + place x.dst x.dstOff i j + m) = some (v m)
      let e0 := descExt x.dst 0
      let e1 := descExt x.dst 1
      descSize x.src = n → 0 < n → (descBase x.src + x.srcOff) % n = 0 →
      (x.op = 1 → descRank x.src = 1 → descRank x.dst = 1 → descExt x.src 0 = e0 → ∀ i, i < e0 → gets i 0 (held i 0)) ∧
      (x.op = 1 → descRank x.src = 2 → descRank x.dst = 2 → descExt x.src 0 = e0 → descExt x.src 1 = e1 →
        e0 ≤ descStride x.dst 1 → ∀ i j, i < e0 → j < e1 → gets i j (held i j)) ∧
      (x.op = 3 → descRank x.src = 1 → descRank x.dst = 2 → e0 = x.factor → e0 ≤ descStride x.dst 1 →
        ∀ i j, i < e0 → j < e1 → gets i j fun m =>
          if j * x.factor + i < descExt x.src 0 then held (j * x.factor + i) 0 m else 0) ∧
      (x.op = 4 → descRank x.src = 2 → descRank x.dst = 1 → descExt x.src 0 = x.factor →
        ∀ i j, i < x.factor → j < descExt x.src 1 → j * x.factor + i < e0 → gets (j * x.factor + i) 0 (held i j)) ∧
      (∀ a, (∀ e k m, e < x.total → (x.move e).to_ = some k → m < n → a ≠ b.base + sideAddr x.dst x.dstOff k + m) →
        end_.spm.find? a = (s.core c).spm.find? a)) ∧
    (∀ r, (s.core c).cpe = x :: rest → cmdReady s c x = true → x.pub = none → pagesDue s c x = [] →
      copyFaultFrom s c x x.total 0 = some r → (∃ b f i, x.owner = .fibre b f i ∧ alive s c b f = true) →
      ∃ u y, exec (.cpeCommandFault c) s = .next u ∧ (u.core c).cpe = y :: rest ∧ y.stop.isSome ∧ y.id = x.id) ∧
    (∀ base len p pair new e, (s.core c).cpe = x :: rest → cmdReady s c x = true → x.bar = none → x.pub = some (base, len) →
      pagesDue s c x = [] → (∀ p, (x.ctx, p) ∉ s.spoiled) → publishFault s x.ctx (pagesOf base len) = none → pagesOf base len = [p] → translate s x.ctx 1 (p * 4096) = .ok e →
      e.pair = some pair → e.alt = some new → MemOk s → backed pair = true → backed (pair + 7) = true → keyGone s x.ctx = false →
      anyBad s pair 8 = false → ∃ u, exec (.publishPoint c) s = .next u ∧ (u.core c).cpe = rest ∧ tlbFind u x.ctx p = none ∧
        ∀ a, memGet u.mem a = if pair ≤ a ∧ a < pair + 8 then plainByte s x.ctx a ^^^ (if a = pair then 1 else 0)
          else memGet s.mem a) ∧
    (∀ b f i y, List.find? (fun (z : CpeCmd) => z.id = x.id) (s.core c).cpe = some x → x.owner = .fibre b f i → x.pt = true →
      x.missed = false → x.promise < s.cycle → s.fibre c b f = some y → y.status ≠ .ended →
      ∃ u z, exec (.promiseExpiry c x.id) s = .next u ∧ u.mem = s.mem ∧ u.fibre c b f = some z ∧
        z.pending = y.pending ++ [{
          code := 0x0C, info0 := BitVec.ofNat 64 x.promise, info1 := BitVec.ofNat 64 i, async := true, since := s.pendNo }])

-- Stream words

/-- R282, R283: the scalar and control words: each writes its register, or branches, and takes one cycle; ms0 reads 0 and ignores
writes. -/
def Obligations.StreamScalars : Prop :=
  ∀ (s : State) (c : Nat) (p : Producer) (md ma mb : BitVec 4) (imm off22 : BitVec 22) (off : BitVec 14), StreamTurn s c p →
    let sets (i : Instr) (v : Word) : Prop := Streams s c i ({ p with pc := p.pc + 4 }.setM md v) (s.core c).queues 1
    let goes (i : Instr) (pc : VAddr) : Prop := Streams s c i { p with pc := pc } (s.core c).queues 1
    let a := p.m ma
    let b := p.m mb
    goes .pnop (p.pc + 4) ∧ sets (.pli md imm) (imm.setWidth 32) ∧ sets (.padd md ma mb) (a + b) ∧ sets (.psub md ma mb) (a - b) ∧
    sets (.pand md ma mb) (a &&& b) ∧ sets (.por md ma mb) (a ||| b) ∧
    sets (.pshl md ma mb) (if b.toNat < 32 then a <<< b.toNat else 0) ∧
    sets (.pshr md ma mb) (if b.toNat < 32 then a >>> b.toNat else 0) ∧ sets (.paddi md ma off) (a + off.signExtend 32) ∧
    goes (.pjmp off22) (p.pc + 4 * off22.signExtend 56) ∧
    (a ≠ 0 → goes (.pbnz ma off) (p.pc + 4 * off.signExtend 56)) ∧ (a = 0 → goes (.pbnz ma off) (p.pc + 4)) ∧
    (a = b → goes (.pbeq ma mb off) (p.pc + 4 * off.signExtend 56)) ∧ (a ≠ b → goes (.pbeq ma mb off) (p.pc + 4)) ∧
    ∀ (v : Word) (r : BitVec 4), (p.setM md v).m r = if r = md ∧ md ≠ 0 then v else p.m r

/-- R276 to R279, R284, R286: chunks, bit fields, code tables, symbols, literals, back references and alignment; and the freezes
of a field past the payload's end, a table that does not fit, a bad symbol, a bad distance and a full window. A word whose header
or payload is still to come asks for it and issues anew; one that reads an uncorrectable error freezes. -/
def Obligations.StreamReads : Prop :=
  ∀ (s : State) (c : Nat) (p : Producer) (md ma mb n4 : BitVec 4) (n : BitVec 6) (n14 : BitVec 14), StreamTurn s c p →
    let qs := (s.core c).queues
    let next : Producer := { p with pc := p.pc + 4 }
    (∀ v, payloadField s p p.cursor n.toNat = .ok v →
      Streams s c (.pbits md n) { next.setM md (BitVec.ofNat 32 v) with cursor := p.cursor + n.toNat } qs 1) ∧
    (0 < n.toNat → 8 * p.clen < p.cursor + n.toNat → Freezes s c p (.pbits md n) 6) ∧
    (∀ e, payloadField s p p.cursor n.toNat = .error e → Halts s c p (.pbits md n) e) ∧
    (∀ e, payloadField s p p.cursor 9 = .error e → Halts s c p (.ptab n4) e) ∧
    (∀ b m l v, 0 < m → b + m ≤ 8 * p.clen → readVirt s p.ctx (p.payload + b / 8) ((b + m - 1) / 8 + 1 - b / 8) = .ok l →
      payloadField s p b m = .ok v → ∀ i, Nat.testBit v i = (decide (i < m) && Nat.testBit (ofBytes l) (b % 8 + i))) ∧
    (∀ k lens, payloadField s p p.cursor 9 = .ok k → payloadFields s p 4 (k + 1) (p.cursor + 9) = .ok lens →
      (tableFits lens = true → Streams s c (.ptab n4)
        { next with ct := p.ct.set n4.toNat lens, cursor := p.cursor + 9 + 4 * (k + 1) } qs (2 + (k + 16) / 16)) ∧
      (tableFits lens = false → Freezes s c p (.ptab n4) 3)) ∧
    (∀ y l, readSymbol s p (p.ct.get n4.toNat []) 16 0 0 = .ok (y, l) →
      Streams s c (.psym md n4) { next.setM md (BitVec.ofNat 32 y) with cursor := p.cursor + l } qs 1) ∧
    (∀ e, readSymbol s p (p.ct.get n4.toNat []) 16 0 0 = .error e → Halts s c p (.psym md n4) e) ∧
    (∀ lens l v y, symbolOf lens l v = some y → lens[y]? = some l) ∧
    (p.w < 65536 + p.o → Streams s c (.plit ma 0) (next.append ((p.m ma).setWidth 8)) qs 1) ∧
    (p.w = 65536 + p.o → Freezes s c p (.plit ma 0) 4) ∧
    (∀ x, n14 ≠ 0 → appendPayload s n14.toNat p = .ok x →
      Streams s c (.plit ma n14) { x with pc := x.pc + 4 } qs ((n14.toNat + 15) / 16)) ∧
    (∀ e, n14 ≠ 0 → appendPayload s n14.toNat p = .error e → Halts s c p (.plit ma n14) e) ∧
    (let len := (p.m ma).toNat
     let dist := (p.m mb).toNat
     (dist = 0 ∨ min p.w 65536 < dist → Freezes s c p (.pbref ma mb) 1) ∧
     (0 < dist → dist ≤ min p.w 65536 → len + p.w ≤ 65536 + p.o → ∃ x, Streams s c (.pbref ma mb) x qs (max 1 ((len + 15) / 16)) ∧
       x.w = p.w + len ∧ x.pc = p.pc + 4 ∧ x.o = p.o ∧
       (len + dist ≤ 65536 → ∀ i, i < len → x.byte (p.w + i) = x.byte (p.w + i - dist)) ∧
       (∀ j, j < p.w → p.w + len ≤ j + 65536 → x.byte j = p.byte j))) ∧
    Streams s c .palign { next with cursor := (p.cursor + 7) / 8 * 8 } qs 1 ∧
    (p.open_ = true → p.last = true → Streams s c (.pchunk md) (next.setM md 0xFFFFFFFF) qs 2) ∧
    (¬(p.open_ = true ∧ p.last = true) → chunkWaits (s.core c) p = true → ∃ t, exec (.pchunk md) s = .next t ∧
      (t.core c).prs = some { p with opening := true } ∧ t.mem = s.mem) ∧
    (∀ clen ulen last, ¬(p.open_ = true ∧ p.last = true) → chunkWaits (s.core c) p = false →
      readHeader s p p.header = .ok (clen, ulen, last) → Streams s c (.pchunk md)
        { next.setM md (BitVec.ofNat 32 ulen) with
          chunk := BitVec.ofNat 32 p.nextChunk, open_ := true, last := last, header := p.header + 16 + (clen + 15) / 16 * 16
          payload := p.header + 16, clen := clen, cursor := 0, opening := false } qs 2) ∧
    (∀ e, ¬(p.open_ = true ∧ p.last = true) → chunkWaits (s.core c) p = false → readHeader s p p.header = .error e →
      Halts s c p (.pchunk md) e)

/-- R49, R275, R280, R281, R285, R286: planes and converted elements go to the open entry, a push moves it to its queue or waits
for room, PEOS and PEND end queues, and the modes set up the scout; STREAM_START puts a held start record into effect and the
scout reads headers ahead, once the walk of a header's page is over and its line has come. That it counts any 16 readable bytes as
a header, an ill-formed one among them, and goes on by their length is the model's choice (log 43). -/
def Obligations.StreamOutput : Prop :=
  ∀ (s : State) (c : Nat) (p : Producer) (ma mb k md : BitVec 4) (corr sat e8 sc : BitVec 1) (sf df : BitVec 5) (rm : BitVec 2)
    (qn : BitVec 3) (mask : BitVec 8) (v : BitVec 6), StreamTurn s c p →
    let qs := (s.core c).queues
    let next : Producer := { p with pc := p.pc + 4 }
    let used := 32 * (k.toNat + (if corr = 1 ∧ k.toNat < 8 then 1 else 0))
    let bs := fmtBytes sf.toNat
    let bd := fmtBytes df.toNat
    let count := if ma = 0 then min ((p.w - p.o) / bs) ((256 - p.f) / bd) else (p.m ma).toNat
    let element (i : Nat) : Nat := ofBytes (slice (p.ahead (count * bs)) (bs * i) bs) % 2 ^ fmtWidth sf.toNat
    let filled (f : Nat → Nat) : Producer :=
      { next with entry := patch p.entry p.f ((List.range count).flatMap fun i => toBytes bd (f (element i)))
                  f := p.f + count * bd, o := p.o + count * bs }
    let q := (s.core c).queue qn.toNat
    (used ≤ p.w - p.o → Streams s c (.pplane k corr)
      { next with entry := (List.range 256).map fun i => planeByte (p.ahead used) k.toNat (corr = 1) i, f := 256, o := p.o + used } qs 4) ∧
    (p.w - p.o < used → Freezes s c p (.pplane k corr) 5) ∧
    (p.f + count * bd ≤ 256 → count * bs ≤ p.w - p.o →
      Streams s c (.pcvt ma sf df rm sat)
        (filled fun x => if sf = df then x else convert df.toNat sf.toNat rm.toNat (sat = 1) x) qs (max 1 ((count + 31) / 32)) ∧
      Streams s c (.pscale ma mb sf df rm sat e8)
        (filled fun x => convert df.toNat sf.toNat rm.toNat (sat = 1) x
          (some (valueOf ((p.m mb).toNat % 256) (if e8 = 1 then 0x1F else 0x1E)))) qs (max 1 ((count + 31) / 32))) ∧
    (256 < p.f + count * bd → Freezes s c p (.pcvt ma sf df rm sat) 8 ∧ Freezes s c p (.pscale ma mb sf df rm sat e8) 8) ∧
    (qn.toNat ∈ p.openQueues → q.data.length < 32 → Streams s c (.ppush qn) { next with entry := List.replicate 256 0, f := 0 }
      (qs.set qn.toNat { q with data := q.data ++ [p.entry] }) 1) ∧
    (qn.toNat ∈ p.openQueues → 32 ≤ q.data.length → ∃ t, exec (.ppush qn) s = .next t ∧ (t.core c).prs = some p ∧
      (t.core c).queues = qs ∧ t.mem = s.mem) ∧
    (qn.toNat ∉ p.openQueues → Freezes s c p (.ppush qn) 8) ∧
    (mask &&& ~~~p.feed = 0 → ∃ x, Streams s c (.peos mask) { next with eos := p.eos ||| mask } x 1 ∧ ∀ n, n < 8 → x.get n {} =
      if n ∈ p.openQueues ∧ mask.getLsbD n = true then { ((s.core c).queue n) with term := some (.eos, []) } else (s.core c).queue n) ∧
    (mask &&& ~~~p.feed ≠ 0 → Freezes s c p (.peos mask) 8) ∧
    (∃ t, exec .pend s = .next t ∧ (t.core c).prs = none ∧ t.mem = s.mem ∧ ∀ n, n < 8 → (t.core c).queue n =
      if n ∈ p.openQueues then { ((s.core c).queue n) with term := some (.eos, []) } else (s.core c).queue n) ∧
    Streams s c (.pmode sc v) { next with
      scout := sc = 1, value := v.toNat + 1, scoutAt := p.header, scouted := p.nextChunk, scoutStop := p.open_ && p.last } qs 1 ∧
    Streams s c (.pscout md) (next.setM md (if p.scout then BitVec.ofNat 32 p.scouted - 1 - p.chunk else 0)) qs 1 ∧
    (∀ l, p.scout = true → p.scoutStop = false → p.scouted < p.nextChunk + p.value →
      walkNeeded s (dieOf c) p.ctx (p.scoutAt / 4096) p.scoutFor = false → scoutLine s c p = none → readVirt s p.ctx p.scoutAt 16 = .ok l →
      scoutWalk s (dieOf c) p.ctx p.scoutFor (pagesOf (p.scoutAt + 16) (bitsN (ofBytes l) 31 0)) = none → ∃ t x, exec (.scoutHeaderRead c) s = .next t ∧ t.mem = s.mem ∧ (t.core c).prs = some x ∧ x.scouted = p.scouted + 1 ∧
        x.pc = p.pc ∧ x.scoutAt = p.scoutAt + 16 + (bitsN (ofBytes l) 31 0 + 15) / 16 * 16) ∧
    (p.scout = true → p.scoutStop = false → p.scouted < p.nextChunk + p.value →
      (walkNeeded s (dieOf c) p.ctx (p.scoutAt / 4096) p.scoutFor = true → ∃ t, exec (.scoutHeaderRead c) s = .next t ∧ t.mem = s.mem ∧
        (dieOf c, p.ctx, p.scoutAt / 4096) ∈ t.walks ∧ (t.core c).prs = some { p with scoutFor := some (p.scoutAt / 4096) }) ∧
      (∀ key pa, walkNeeded s (dieOf c) p.ctx (p.scoutAt / 4096) p.scoutFor = false → scoutLine s c p = some (key, pa) →
        exec (.scoutHeaderRead c) s = .next (specRequest s c key pa))) ∧
    (∀ d id x, s.held.find? d = some id → s.launches.find? id = some x → (s.core d).prs = none →
      (∀ n ∈ (s.core d).queues.vals, n.data = []) → placementHeld s d x.ctx = false → (s.core d).qOwner = none →
      (s.core d).ctx = x.ctx → ∃ t y, exec (.streamStart d) s = .next t ∧ (t.core d).prs = some y ∧ y.ctx = x.ctx ∧
        y.launch = some id ∧ y.pc = BitVec.ofNat 56 (ofBytes x.start) ∧ (t.core d).queues = [] ∧
        (t.core d).qOwner = some x.ctx ∧ t.mem = s.mem)

-- Tile slots

/-- R227, R228, R220: the S-slot ALU and move operations: each result lands in kd after one sequencer cycle, and the following
bundle is next. -/
def Obligations.TileScalars : Prop :=
  ∀ (s : State) (c : Nat) (q : TCtx) (kd ka kb : BitVec 5) (i : BitVec 1) (imm : BitVec 32),
    let sets (op : Instr) (v : BitVec 64) : Prop := Lands s c q {} op 0 1 (.k kd.toNat) v.toNat
    let a := q.kReg ka.toNat
    let b := if i = 1 then imm.signExtend 64 else q.kReg kb.toNat
    (TileTurn s c q → exec .snop s = .next (bundleIssued q s)) ∧
    sets (.addk kd ka i kb imm) (a + b) ∧ sets (.subk kd ka i kb imm) (a - b) ∧ sets (.mulk kd ka i kb imm) (a * b) ∧
    sets (.andk kd ka i kb imm) (a &&& b) ∧ sets (.ork kd ka i kb imm) (a ||| b) ∧ sets (.xork kd ka i kb imm) (a ^^^ b) ∧
    sets (.shlk kd ka i kb imm) (if b.toNat < 64 then BitVec.ofNat 64 (a.toNat * 2 ^ b.toNat) else 0) ∧
    sets (.shrk kd ka i kb imm) (if b.toNat < 64 then BitVec.ofNat 64 (a.toNat / 2 ^ b.toNat) else 0) ∧
    sets (.sark kd ka i kb imm) (if b.toNat < 64 then BitVec.ofInt 64 (a.toInt / 2 ^ b.toNat)
      else if a.getLsbD 63 = true then 0xFFFFFFFFFFFFFFFF else 0) ∧
    sets (.mink kd ka i kb imm) (BitVec.ofInt 64 (min a.toInt b.toInt)) ∧
    sets (.maxk kd ka i kb imm) (BitVec.ofInt 64 (max a.toInt b.toInt)) ∧
    sets (.sltk kd ka i kb imm) (if a.toInt < b.toInt then 1 else 0) ∧
    sets (.sltku kd ka i kb imm) (if a.toNat < b.toNat then 1 else 0) ∧ sets (.seqk kd ka i kb imm) (if a = b then 1 else 0) ∧
    sets (.movk kd i ka imm) (if i = 1 then a else imm.signExtend 64) ∧
    sets (.movhk kd imm) ((q.kReg kd.toNat &&& 0xFFFFFFFF) + imm.setWidth 64 <<< 32) ∧
    sets (.addik kd ka imm) ((a.setWidth 32 + imm).signExtend 64)

/-- R230 to R234, R134, R41, R296, R299: branches and counted loops choose the next bundle, and whether its fetch is a wait point
and what the loop buffer holds; the state-setting operations land after one
sequencer cycle; a barrier name outside the block's, a bond outside 1 to 1,024 and a special register's value outside its range
are BOUNDS; WAITK and SLEEPK wait at issue, WAITK for the completion that it names as it first issues. The model's choices: LEND
leaves its loop to the bundle after it, not after the recorded end (log 22); the gate's record, remembered from the grant, says
where GRET scatters (log 37); WAITK waits also until the accesses that precede the phase's arrivals have been performed
(log 78). -/
def Obligations.TileControl : Prop :=
  ∀ (s : State) (c : Nat) (q : TCtx) (kd ka : BitVec 5) (i : BitVec 1) (imm : BitVec 32) (n2 : BitVec 2) (n : BitVec 4)
    (len count step : BitVec 16) (mask num : BitVec 8) (fc : BitVec 24),
    let goes (op : Instr) (pc : VAddr) (loops : FMap LoopReg) (wait : Bool) (buffer : Tsq → Tsq) : Prop :=
      Tile s c q {} op ((bundleIssued q s).modCore q.c fun k =>
        { k with tsq := buffer { k.tsq with pc := pc, lc := loops, jumped := wait } })
    let emptied (b : Bool) (t : Tsq) : Tsq := if b then { t with body := none, bodyWords := [] } else t
    let inBody (t : VAddr) : Bool := q.q.tsq.body.any fun b => decide (b.1.toNat ≤ t.toNat) && decide (t.toNat ≤ b.2.toNat)
    let target := BitVec.ofInt 56 (q.pc.toNat + 32 * imm.toInt)
    let open' (t : VAddr) : FMap LoopReg := q.q.tsq.lc.map fun x =>
      (x.1, if x.2.start.toNat ≤ t.toNat ∧ t.toNat ≤ x.2.end_.toNat then x.2 else { x.2 with open_ := false })
    let a := q.kReg ka.toNat
    let owed (b m : Nat) : Bool := arrivalOwed (s.core c) b m
    let fresh : Prop := ∀ b m, q.q.tsq.wait ≠ some (.barrier b m)
    let l := q.q.tsq.lc.get n2.toNat {}
    let times := if i = 1 then a.toNat else count.toNat
    let bond := if i = 1 then a.toNat else imm.toNat
    let end_ := q.pc + 32 * len.setWidth 56
    let leaves := emptied (inBody q.pc && !inBody target)
    goes (.brk imm) target (open' target) true leaves ∧ (a ≠ 0 → goes (.bnzk ka imm) target (open' target) true leaves) ∧
    (a = 0 → Tile s c q {} (.bnzk ka imm) (bundleIssued q s)) ∧
    (times < 2 ^ 32 → goes (.loop n2 i ka len count) (if times = 0 then end_ + 32 else q.pc + 32)
      (q.q.tsq.lc.set n2.toNat { count := times, start := q.pc + 32, end_ := end_, open_ := times ≠ 0 }) (times = 0)
      (fun t => if times ≠ 0 ∧ len.toNat ≤ 64 then { t with body := some (q.pc + 32, end_), bodyWords := [] } else t)) ∧
    (2 ^ 32 ≤ times → TileTraps s c q {} (.loop n2 i ka len count) (tBounds times 38)) ∧
    (1 < l.count → goes (.lend n2 len) l.start (q.q.tsq.lc.set n2.toNat { l with count := l.count - 1 })
      (64 * 32 < l.end_.toNat + 32 - l.start.toNat) id) ∧
    (l.count ≤ 1 → goes (.lend n2 len) (q.pc + 32) (q.q.tsq.lc.set n2.toNat { l with count := 0, open_ := false })
      false (emptied (q.q.tsq.body = some (l.start, q.pc)))) ∧
    Tile s c q {} (.setst i ka mask fc) (q.land 0 1 .fc (if i = 1 then min a.toNat (2 ^ 32 - 1) else fc.toNat)
      (q.land 0 1 .st mask.toNat (bundleIssued q s))) ∧
    (1 ≤ bond → bond ≤ 1024 → Lands s c q {} (.setbd n i ka imm) 0 1 (.bd n.toNat) bond) ∧
    (bond = 0 ∨ 1024 < bond → TileTraps s c q {} (.setbd n i ka imm) (tBounds bond 39)) ∧
    Lands s c q {} (.setad n ka step) 0 1 (.ad n.toNat) (step ++ a.setWidth 32).toNat ∧
    Lands s c q {} (.rdsrk kd num) 0 1 (.k kd.toNat) (BitVec.ofNat 64 (q.sreg (bundleIssued q s) num.toNat)).toNat ∧
    (sregRange num.toNat (a.setWidth 32).toNat = true →
      Lands s c q {} (.wrsrk ka num) 0 1 (.sreg num.toNat) (a.setWidth 32).toNat) ∧
    (sregRange num.toNat (a.setWidth 32).toNat = false →
      TileTraps s c q {} (.wrsrk ka num) (tBounds (a.setWidth 32).toNat 40)) ∧
    (∀ b, q.k.bars[n.toNat]? = some b →
      Tile s c q {} (.arrk kd n)
        (arriveBar (q.land 0 1 (.k kd.toNat) (if (s.bar c b).phase then 1 else 0) (bundleIssued q s)) c b) ∧
      (q.q.tsq.passed = some b → Tile s c q {} (.waitk n ka) (bundleIssued q s)) ∧
      (q.q.tsq.passed ≠ some b → q.c = c →
        (fresh → (s.bar c b).phase = a.getLsbD 0 → TileWaits s c q {} (.waitk n ka) (.barrier b ((s.bar c b).done + 1))) ∧
        (fresh → (s.bar c b).phase ≠ a.getLsbD 0 →
          (owed b (s.bar c b).done = false → Tile s c q {} (.waitk n ka) (bundleIssued q s)) ∧
          (owed b (s.bar c b).done = true → TileWaits s c q {} (.waitk n ka) (.barrier b (s.bar c b).done))) ∧
        (∀ m, q.q.tsq.wait = some (.barrier b m) →
          (m ≤ (s.bar c b).done → owed b m = false → Tile s c q {} (.waitk n ka) (bundleIssued q s)) ∧
          ((s.bar c b).done < m ∨ owed b m = true → TileWaits s c q {} (.waitk n ka) (.barrier b m))))) ∧
    (q.k.bars[n.toNat]? = none → TileTraps s c q {} (.arrk kd n) (tBounds n.toNat 2) ∧
      TileTraps s c q {} (.waitk n ka) (tBounds n.toNat 2)) ∧
    (a.toNat ≤ s.cycle → Tile s c q {} (.sleepk ka) (bundleIssued q s)) ∧
    (s.cycle < a.toNat → TileWaits s c q {} (.sleepk ka) (.sleep a.toNat)) ∧
    (TileTurn s c q → (s.core c).lampQ = [] → ∃ t, exec .gret s = .next t ∧ t.mem = s.mem ∧ (t.core c).lamp = none ∧
      (t.core c).tsq.active = false ∧ ∀ f x, q.k.fibres.find? f = some x → x.status = .waiting .lamp →
        ∃ y, t.fibre c q.b f = some y ∧ y.status = .ready ∧ y.pc = (q.k.gate.getD {}).gatepc + 8 ∧
          ∀ first cnt d word, (frameGate s q.k.ctx (q.k.gate.getD {})).2 = [(first, cnt, d)] → ∀ j, j < cnt → 0 < first + j →
            first + j < q.k.win → unitBad (s.core (q.k.gbuf.getD {}).home).spmBad ((q.k.gbuf.getD {}).base + 4 * (f * cnt + j)) 4 = false →
            (∀ i, i < 4 → (s.core (q.k.gbuf.getD {}).home).spm.find?
              ((q.k.gbuf.getD {}).base + 4 * (f * cnt + j) + i) = some (word.extractLsb' (8 * i) 8)) →
            y.reg q.k.win (first + j) = { val := word })

/-- R229, R233, R243, R61, R67: the scratchpad accesses of the tile slots: the bytes are read in the next sequencer cycle and land
after six, or are written in the next; a null handle is OWNERSHIP, a buffer of another core and an offset outside the buffer
BOUNDS, a misaligned offset ALIGN. That LDK, STK and SETD read their address register as a signed value is the model's choice
(log 21). -/
def Obligations.TileMemory : Prop :=
  ∀ (s : State) (c : Nat) (q : TCtx) (g : SGuard) (kd ka kb n : BitVec 5) (size : BitVec 2) (sx use : BitVec 1) (hd ad : BitVec 4)
    (imm : BitVec 32) (vd : BitVec 7) (off : BitVec 9) (b : Buf),
    let k := (q.kReg ka.toNat).toInt + imm.toInt
    let v : Int := (if use = 1 then (q.q.tsq.ad.get ad.toNat 0 &&& 0xFFFFFFFF).toNat else 0) + 256 * off.toNat
    let w := 2 ^ size.toNat
    let usable (o : Int) (m : Nat) : Prop := q.k.handles.find? hd.toNat = some b ∧ b.valid = true ∧ b.home = c ∧ 0 ≤ o ∧
      o + m ≤ b.len ∧ o % m = 0
    let reads (i : Instr) (g : SGuard) (slot : Nat) (o : Int) (m : Nat) (sgn : Bool) (dst : Dest) : Prop :=
      usable o m → Tile s c q g i (q.spmRead slot (b.base + o.toNat) m sgn dst (bundleIssued q s))
    let checks (i : Instr) (g : SGuard) (o : Int) (m : Nat) : Prop :=
      ((∀ x, q.k.handles.find? hd.toNat = some x → x.valid = false) → TileTraps s c q g i (tOwner hd.toNat)) ∧
      (q.k.handles.find? hd.toNat = some b → b.valid = true →
        (b.home ≠ c → TileTraps s c q g i (tBounds b.home 32)) ∧
        (b.home = c → o < 0 ∨ (b.len : Int) < o + m → TileTraps s c q g i (tBounds o 33)) ∧
        (b.home = c → 0 ≤ o → o + m ≤ b.len → o % m ≠ 0 → TileTraps s c q g i (tAlign o m)))
    reads (.ldk kd ka size sx hd imm) {} 0 k w (sx = 1) (.k kd.toNat) ∧ checks (.ldk kd ka size sx hd imm) {} k w ∧
    reads (.setd n ka hd imm) {} 0 k 64 false (.d n.toNat) ∧ checks (.setd n ka hd imm) {} k 64 ∧
    reads (.vld g vd hd ad use off) g 1 v 256 false (.row (q.rd vd)) ∧ checks (.vld g vd hd ad use off) g v 256 ∧
    (usable k w → Lands s c q {} (.stk ka kb size hd imm) 0 1 (.spm (b.base + k.toNat) w) ((q.kReg kb.toNat).toNat % 2 ^ (8 * w))) ∧
    checks (.stk ka kb size hd imm) {} k w ∧
    (usable v 256 → Lands s c q g (.vst g vd hd ad use off) 1 1 (.spm (b.base + v.toNat) 256) (q.ra vd).toNat) ∧
    checks (.vst g vd hd ad use off) g v 256

/-- R237 to R244: the V slot, lane by lane: each result lands in the row of vd after its latency; a lane type other than
%acctype, a lane index at or above the lane count and a queue of another context are BOUNDS; a POISON head is STREAM_FAULT.
VEXP2 and VLOG2 give, for every operand whose result is not exact, one of the two neighbouring values of the exact result as the
series of log 7 gives it (which of the two is a free value of log 7). -/
def Obligations.TileVector : Prop :=
  ∀ (s : State) (c : Nat) (q : TCtx) (g : SGuard) (vd va vb vc : BitVec 7) (t sf df cnt : BitVec 5) (rm op part : BitVec 2)
    (sat usek e8 : BitVec 1) (cc n lg : BitVec 3) (lane : BitVec 8),
    let w := fmtWidth t.toNat
    let ints := t.toNat = 0x00 ∨ t.toNat = 0x03
    let floats := hasN [0x11, 0x12, 0x13, 0x14, 0x15] t.toNat = true
    let typed := t.toNat = q.q.tsq.acctype
    let lanes (i : Instr) (lat : Nat) (f : Nat → Nat) : Prop := LanesLand s c q g i vd lat w f
    let a (j : Nat) : Nat := laneOf (q.ra va) w j
    let b (j : Nat) : Nat := laneOf (q.rb vb) w j
    let d (j : Nat) : Nat := laneOf (q.rc vc) w j
    let z (x : Nat) : Int := sextN x w
    let fit (x : Int) : Nat := if sat = 1 then satSignedN x w else wrapN x w
    let sa : Bool := sat = 1
    let wrong (i : Instr) : Prop := ¬ typed → TileTraps s c q g i (tBounds t.toNat 41)
    let from32 (r : Nat) : Nat := if t.toNat = 0x11 then r else convert t.toNat 0x11 rm.toNat sa r
    let to32 (x : Nat) : Word := BitVec.ofNat 32 (if t.toNat = 0x11 then x else convert 0x11 t.toNat 0 false x)
    let ws := max 8 (fmtWidth sf.toNat)
    let wd := max 8 (fmtWidth df.toNat)
    let len := 2048 / max ws wd
    let between (code : Nat) (v : RVal) : Prop := code = roundTo 0x11 2 false v ∨ code = roundTo 0x11 3 false v
    let converts (i : Instr) (f : Nat → Nat) : Prop := ∃ row : BitVec 2048, (∀ j, j < len → laneOf row wd j = f j % 2 ^ fmtWidth df.toNat) ∧
      Lands s c q g i 1 5 (.rowPart (q.rd vd) (if wd ≤ ws then part.toNat * len * wd else 0)
        ((if wd ≤ ws then part.toNat * len * wd else 0) + len * wd)) row.toNat
    let elem (j : Nat) : Nat := laneOf (q.ra va) ws (if wd ≤ ws then j else part.toNat * len + j) % 2 ^ fmtWidth sf.toNat
    Tile s c q g (.vnop g) (bundleIssued q s) ∧
    (∀ (x : Word) (neg : Bool) (m : Nat) (e : Int), valueOf x.toNat 0x11 = .fin neg m e → m ≠ 0 →
      (ilogb m e < 24 → e < 0 → m % 2 ^ (-e).toNat ≠ 0 → between (exp2Code x) (exp2Val neg m e)) ∧
      (neg = false → m ≠ 2 ^ Nat.log2 m → between (log2Code x) (log2Val m e)) ∧ (neg = true → log2Code x = 0x7FC00000)) ∧
    (ints → typed →
      lanes (.vadd g vd va vb t rm sat) 4 (fun j => fit (z (a j) + z (b j))) ∧
      lanes (.vsub g vd va vb t rm sat) 4 (fun j => fit (z (a j) - z (b j))) ∧
      lanes (.vmul g vd va vb t rm sat) 5 (fun j => fit (z (a j) * z (b j))) ∧
      lanes (.vfma g vd va vb vc t rm sat) 5 (fun j => fit (z (a j) * z (b j) + z (d j))) ∧
      lanes (.vmin g vd va vb t) 4 (fun j => wrapN (min (z (a j)) (z (b j))) w) ∧
      lanes (.vmax g vd va vb t) 4 (fun j => wrapN (max (z (a j)) (z (b j))) w) ∧
      lanes (.vabs g vd va t sat) 4 (fun j => fit ((z (a j)).natAbs : Int)) ∧
      lanes (.vneg g vd va t sat) 4 (fun j => fit (-(z (a j)))) ∧
      lanes (.vshl g vd va vb t) 2 (fun j => if b j < w then a j * 2 ^ b j else 0) ∧
      lanes (.vshr g vd va vb t) 2 (fun j => if b j < w then a j / 2 ^ b j else 0) ∧
      lanes (.vsar g vd va vb t) 2 (fun j => wrapN (if b j < w then z (a j) / 2 ^ b j else if z (a j) < 0 then -1 else 0) w) ∧
      lanes (.vcmp g vd va vb t cc) 2 (fun j => if cmpInt cc.toNat (z (a j)) (z (b j)) then 1 else 0) ∧
      (op = 0 → sat = 0 → lanes (.vredl g vd va t op rm sat) (3 * Nat.log2 (2048 / w))
        (fun _ => ((List.range (2048 / w)).map a).foldl (· + ·) 0))) ∧
    (floats → typed →
      lanes (.vadd g vd va vb t rm sat) 4 (fun j => fAdd t.toNat rm.toNat (a j) (b j) sa) ∧
      lanes (.vsub g vd va vb t rm sat) 4 (fun j => fSub t.toNat rm.toNat (a j) (b j) sa) ∧
      lanes (.vmul g vd va vb t rm sat) 5 (fun j => fMul t.toNat rm.toNat (a j) (b j) sa) ∧
      lanes (.vfma g vd va vb vc t rm sat) 5 (fun j => fFma t.toNat rm.toNat (a j) (b j) (d j) sa) ∧
      lanes (.vmin g vd va vb t) 4 (fun j => fminmax false t.toNat (a j) (b j)) ∧
      lanes (.vmax g vd va vb t) 4 (fun j => fminmax true t.toNat (a j) (b j)) ∧
      lanes (.vabs g vd va t sat) 4 (fun j => if (valueOf (a j) t.toNat).isNan then canonNan t.toNat else a j % 2 ^ (w - 1)) ∧
      lanes (.vneg g vd va t sat) 4
        (fun j => if (valueOf (a j) t.toNat).isNan then canonNan t.toNat else a j ^^^ 2 ^ (w - 1)) ∧
      lanes (.vcmp g vd va vb t cc) 2 (fun j => if cmpFloat cc.toNat t.toNat (a j) (b j) then 1 else 0) ∧
      lanes (.vrcp g vd va t rm sat) 12 (fun j => rcpCode t.toNat rm.toNat sa (valueOf (a j) t.toNat)) ∧
      lanes (.vrsq g vd va t rm sat) 12 (fun j => rsqCode t.toNat rm.toNat sa (valueOf (a j) t.toNat)) ∧
      lanes (.vexp2 g vd va t rm sat) 12 (fun j => from32 (exp2Code (to32 (a j)))) ∧
      lanes (.vlog2 g vd va t rm sat) 12 (fun j => from32 (log2Code (to32 (a j)))) ∧
      (op = 0 → lanes (.vredl g vd va t op rm sat) (3 * Nat.log2 (2048 / w)) fun _ =>
        reducePairwise (fun x y => fAdd t.toNat rm.toNat x y sa) 0 (Nat.log2 (2048 / w)) ((List.range (2048 / w)).map a))) ∧
    (ints ∨ floats → typed →
      lanes (.vsel g vd va vb vc t) 2 (fun j => if d j ≠ 0 then a j else b j) ∧
      lanes (.vredl g vd va t op rm sat) (3 * Nat.log2 (2048 / w))
        (fun _ => reducePairwise (redOp t op rm sat) 0 (Nat.log2 (2048 / w)) ((List.range (2048 / w)).map a)) ∧
      lanes (.vredr g vd va t op cnt rm sat) (4 * (cnt.toNat + 1)) (fun j =>
        ((List.range cnt.toNat).map fun i => laneOf (q.q.row (q.vrow (va.toNat + q.ova + (i + 1)))) w j).foldl
          (fun x y => redOp t op rm sat x y % 2 ^ w) (a j)) ∧
      (usek = 0 → lane.toNat < 2048 / w → lanes (.vbcast g vd va t usek lane) 2 (fun _ => a lane.toNat)) ∧
      (usek = 1 → lanes (.vbcast g vd va t usek lane) 2 (fun _ => (q.kReg (lane.toNat % 32)).toNat)) ∧
      (usek = 0 → 2048 / w ≤ lane.toNat → TileTraps s c q g (.vbcast g vd va t usek lane) (tBounds lane.toNat 42))) ∧
    wrong (.vadd g vd va vb t rm sat) ∧ wrong (.vsub g vd va vb t rm sat) ∧ wrong (.vmul g vd va vb t rm sat) ∧
    wrong (.vfma g vd va vb vc t rm sat) ∧ wrong (.vmin g vd va vb t) ∧ wrong (.vmax g vd va vb t) ∧
    wrong (.vabs g vd va t sat) ∧ wrong (.vneg g vd va t sat) ∧ wrong (.vshl g vd va vb t) ∧ wrong (.vshr g vd va vb t) ∧
    wrong (.vsar g vd va vb t) ∧ wrong (.vcmp g vd va vb t cc) ∧ wrong (.vsel g vd va vb vc t) ∧
    wrong (.vrcp g vd va t rm sat) ∧ wrong (.vrsq g vd va t rm sat) ∧ wrong (.vexp2 g vd va t rm sat) ∧
    wrong (.vlog2 g vd va t rm sat) ∧ wrong (.vredl g vd va t op rm sat) ∧ wrong (.vredr g vd va t op cnt rm sat) ∧
    wrong (.vbcast g vd va t usek lane) ∧
    Lands s c q g (.vand g vd va vb) 1 2 (.row (q.rd vd)) (q.ra va &&& q.rb vb).toNat ∧
    Lands s c q g (.vor g vd va vb) 1 2 (.row (q.rd vd)) (q.ra va ||| q.rb vb).toNat ∧
    Lands s c q g (.vxor g vd va vb) 1 2 (.row (q.rd vd)) (q.ra va ^^^ q.rb vb).toNat ∧
    Lands s c q g (.vmov g vd va) 1 2 (.row (q.rd vd)) (q.ra va).toNat ∧
    (hasN [8, 16, 32] ws = true → hasN [8, 16, 32] wd = true →
      converts (.vcvt g vd va sf df part rm sat) (fun j => convert df.toNat sf.toNat rm.toNat sa (elem j)) ∧
      converts (.vscale g vd va vb sf df part e8 lg rm sat) (fun j => roundTo df.toNat rm.toNat sa
        (applyScale (valueOf (elem j) sf.toNat) (valueOf
          (laneOf (q.rb vb) 8 ((if wd ≤ ws then j else part.toNat * len + j) / 2 ^ lg.toNat)) (if e8 = 1 then 0x1F else 0x1E))).toR)) ∧
    (let x := q.q.queue n.toNat
     q.q.qOwner = some q.k.ctx →
      (∀ e rest, x.data = e :: rest → Tile s c q g (.vqpop g vd n) (q.land 1 4 (.row (q.rd vd)) (ofBytes e)
        ((bundleIssued q s).modCore c fun k => { k with queues := k.queues.set n.toNat { x with data := rest } }))) ∧
      (∀ pay, x.data = [] → x.term = some (.eos, pay) →
        Tile s c q g (.vqpop g vd n) (q.land 1 4 (.row (q.rd vd)) 0 (q.land 1 1 .fc 0 (bundleIssued q s)))) ∧
      (∀ pay, x.data = [] → x.term = some (.poison, pay) → TileTraps s c q g (.vqpop g vd n) (streamTrap n.toNat pay)) ∧
      (x.data = [] → x.term = none → TileWaits s c q g (.vqpop g vd n) (.qempty n.toNat))) ∧
    (q.q.qOwner = none → TileWaits s c q g (.vqpop g vd n) (.qempty n.toNat)) ∧
    (∀ o, q.q.qOwner = some o → o ≠ q.k.ctx → TileTraps s c q g (.vqpop g vd n) (tBounds n.toNat 17))

/-- R247 to R251, R224: the M slot: a command waits for its engine and its entries, is checked, and then occupies the engine for
its cycles, MMAQ with the oldest entries of its queue; what MMA and MMAQ add to each accumulator element, by the formats of their
operands and the pattern code of their row, and when that lands; what a load stores of its weights. The alignment of R122 has a
clause of its own. -/
def Obligations.TileMatrix : Prop :=
  ∀ (s : State) (c : Nat) (q : TCtx) (g : SGuard) (cr a : BitVec 8) (n : BitVec 3) (u : BitVec 7) (rows : BitVec 4) (fmt cpk : BitVec 5)
    (corr sat mx w : BitVec 1) (cnt : BitVec 6) (k : Core) (j : MxeJob) (rec : TileRec),
    let takes (i : Instr) (o : MOp) (cost : Nat) : Prop :=
      let r := mReq o
      (mxeWait q.q q.k.ctx r = none → mxeCheck q.q q.q.tsq q.k.ctx r = none → TileTurn s c q → guardHolds q.q.tsq g = true →
        ∃ t x, exec i s = .next t ∧ (t.core c).tsq.pc = q.pc + 32 ∧ (t.core c).mxe.busyTill = (s.core c).seqCyc + cost ∧
          (t.core c).mxe.jobs = (s.core c).mxe.jobs ++ [x] ∧ x.op = r.op ∧ x.unit = r.unit ∧ x.fmt = r.fmt ∧ x.rows = r.rows ∧
          x.planes = q.q.tsq.planes ∧ x.acctype = q.q.tsq.acctype ∧ x.start = (s.core c).seqCyc ∧ x.att = none ∧ t.mem = s.mem ∧
          (r.op ≤ 2 → x.tile = (s.core c).tileAt q.k.ctx r.unit) ∧
          (r.op = 2 → x.ents = ((q.q.queue r.queue).data.take r.need).map rowOfBytes ∧
            ((t.core c).queue r.queue).data = (q.q.queue r.queue).data.drop r.need) ∧
          (t.core c).acm = (s.core c).acm) ∧
      (TileTurn s c q → guardHolds q.q.tsq g = false → exec i s = .next (bundleIssued q s)) ∧
      (∀ e, mxeWait q.q q.k.ctx r = some e → TileWaits s c q g i e) ∧
      (∀ e, mxeWait q.q q.k.ctx r = none → mxeCheck q.q q.q.tsq q.k.ctx r = some e → TileTraps s c q g i e)
    let sources := if fmt.toNat = 0x12 ∨ fmt.toNat = 0x13 then 256 else if mx = 1 then 132 else 128
    let zeros : List Nat := if w = 1 then [] else runRows q.q.tsq cr.toNat (cnt.toNat + 1)
    Tile s c q g (.mnop g) (bundleIssued q s) ∧
    takes (.mma g cr a u rows fmt corr sat cpk) (.mma g cr a u rows fmt corr sat cpk) (q.q.tsq.planes * (rows.toNat + 1)) ∧
    takes (.mmaq g cr n u rows fmt corr sat cpk) (.mmaq g cr n u rows fmt corr sat cpk) (q.q.tsq.planes * (rows.toNat + 1)) ∧
    takes (.bload g u a fmt corr mx) (.bload g u a fmt corr mx) sources ∧
    takes (.bloadq g u n fmt corr mx) (.bloadq g u n fmt corr mx) 1 ∧
    (let r := mReq (.mclr g cr cnt w)
     (mxeWait q.q q.k.ctx r = none → mxeCheck q.q q.q.tsq q.k.ctx r = none → TileTurn s c q → guardHolds q.q.tsq g = true →
       ∃ t, exec (.mclr g cr cnt w) s = .next t ∧ (t.core c).tsq.pc = q.pc + 32 ∧ t.mem = s.mem ∧
         (t.core c).mxe.busyTill = (s.core c).seqCyc + 1 ∧ (t.core c).landings = (s.core c).landings ++
           zeros.map fun x => ⟨(s.core c).seqCyc + 2, (s.core c).issueNo, 2, .row x, 0, false⟩) ∧
     (TileTurn s c q → guardHolds q.q.tsq g = false → exec (.mclr g cr cnt w) s = .next (bundleIssued q s)) ∧
     (∀ e, mxeWait q.q q.k.ctx r = some e → TileWaits s c q g (.mclr g cr cnt w) e) ∧
     (∀ e, mxeWait q.q q.k.ctx r = none → mxeCheck q.q q.q.tsq q.k.ctx r = some e → TileTraps s c q g (.mclr g cr cnt w) e)) ∧
    (∀ (ra c0 c1 : BitVec 2048) (i col : Nat), j.tile = some rec → intA j.fmt = true → j.acctype = 0x03 → col < 128 →
      let x (e : Nat) : Int := let v := laneOf ra 8 e
        if j.fmt = 0 then sextN v 8 else if j.fmt = 1 then v else bpCode (sextN v 8) j.planes j.corr * 2 ^ (8 - j.planes)
      let y (e : Nat) : Int := let v := k.weight j.unit rec.width e col
        if rec.fmt = 1 then v else if rec.fmt = 4 ∨ rec.fmt = 6 then sextN v rec.width * 2 ^ (8 - rec.width) else sextN v rec.width
      let acc := sextN (laneOf (if col < 64 then c0 else c1) 32 (col % 64)) 32
      let sum (f : Nat → Int) : Int := ((List.range 256).map f).foldl (· + ·) 0
      let op := (j.cpk.map fun v => bitsN v.toNat (2 * i + 1) (2 * i)).getD 0
      ∃ r0 r1 v, mmaRow k j i [ra] [c0, c1] = [r0, r1] ∧
        laneOf (if col < 64 then r0 else r1) 32 (col % 64) = (if j.sat then satSignedN v 32 else wrapN v 32) ∧
        (op = 0 → v = acc + sum fun e => x e * y e) ∧ (op = 1 → v = acc + sum fun e => ((x e - y e).natAbs : Int)) ∧
        (op = 2 → acc ≤ v ∧ (∀ e, e < 256 → x e + y e ≤ v) ∧ (v = acc ∨ ∃ e, e < 256 ∧ v = x e + y e))) ∧
    (∀ (A C : List (BitVec 2048)) (i col : Nat) (lo : Int), j.tile = some rec → hasN [0x12, 0x13, 0x14, 0x15] j.fmt = true →
      hasN [0x12, 0x13, 0x14, 0x15] rec.fmt.toNat = true → hasN [0x11, 0x12, 0x13] j.acctype = true →
      A.length = rowsPerA j.fmt → C.length = rowsPerC j.acctype → col < 128 →
      let wide := decide (j.acctype = 0x11)
      let cell (l : List (BitVec 2048)) : Nat :=
        if wide then laneOf (l.getD (col / 64) 0) 32 (col % 64) else laneOf (l.getD 0 0) 16 col
      let code (e : Nat) : Nat := if rowsPerA j.fmt = 2 then laneOf (A.getD (e / 128) 0) 16 (e % 128) else laneOf (A.getD 0 0) 8 e
      let block (b : Nat) : Aligned := alignBlock j.planes ((List.range 32).map fun t => valueOf (code (32 * b + t)) j.fmt)
      let at_ (b : Nat) : Int := (block b).unit + rec.eB.getD (col * 8 + b) 0
      let dot (b : Nat) : Int := ((List.range 32).map fun t =>
        (block b).mants.getD t 0 * sextN (k.weight j.unit rec.width (32 * b + t) col) rec.width).foldl (· + ·) 0
      let special := (∃ b, b < 8 ∧ ((block b).bad = true ∨ rec.special.getD (col * 8 + b) false = true)) ∨
        (valueOf (cell C) j.acctype).isNan = true
      (special → cell (mmaRow k j i A C) = canonNan j.acctype) ∧
      (¬ special → (∀ b, b < 8 → lo ≤ at_ b) → (∃ b, b < 8 ∧ at_ b = lo) → cell (mmaRow k j i A C) =
        roundTo j.acctype 0 false (addVal false (valueOf (cell C) j.acctype)
          (scaledVal (((List.range 8).map fun b => dot b * 2 ^ (at_ b - lo).toNat).foldl (· + ·) 0) lo)) %
          (if wide then 2 ^ 32 else 2 ^ 16))) ∧
    (∀ (w : Nat) (l : List Val) (e : Int),
      let z := alignBlock w l
      z.bad = l.any (fun v => !v.isFin) ∧ z.mants.length = l.length ∧
      ((∀ s m x, Val.fin s m x ∈ l → m = 0) → z.unit = 0 ∧ ∀ v ∈ z.mants, v = 0) ∧
      ((∃ s m x, Val.fin s m x ∈ l ∧ m ≠ 0 ∧ x + Nat.log2 m = e) → (∀ s m x, Val.fin s m x ∈ l → m ≠ 0 → x + Nat.log2 m ≤ e) →
        z.unit = e - w + 2 ∧ ∀ (i : Nat) s m x, l[i]? = some (Val.fin s m x) → ∃ n : Nat, z.mants[i]? = some (if s = true then -(n : Int) else n) ∧
          n = if z.unit ≤ x then m * 2 ^ (x - z.unit).toNat else m / 2 ^ (z.unit - x).toNat)) ∧
    (j.op = 1 ∨ j.op = 2 → 0 < j.planes → k = s.core c → k.reads = [] → k.landings = [] → k.mxe.jobs = [j] →
      badJob (mxeCycle (landCycle s.cycle c k)) = none →
      let d := k.seqCyc + 1 - j.start
      let i := (d - 5) / j.planes - 1
      let cs := slice j.cRows (rowsPerC j.acctype * i) (rowsPerC j.acctype)
      let l := slice (if j.op = 2 then j.ents else j.data) (rowsPerA j.fmt * i) (rowsPerA j.fmt)
      5 + j.planes ≤ d → (d - 5) % j.planes = 0 → l.length = rowsPerA j.fmt →
      ∃ t, exec (.latencyWriteLanding c) s = .next t ∧ (t.core c).landings =
        (List.zip cs (mmaRow k j i l (cs.map k.row))).map fun p =>
          ⟨k.seqCyc + 2, j.seq, 2, .row p.1, p.2.toNat, false⟩) ∧
    (∀ e col, e < 256 → col < 128 → (∀ y ∈ k.mxe.jobs, y.seq ≤ j.seq) →
      let t := installTile k j
      let width := storedWidth j.fmt
      let code := sourceCode j.fmt j.data e col
      let block : Aligned := alignBlock width ((List.range 32).map fun i =>
        let v := valueOf (sourceCode j.fmt j.data (32 * (e / 32) + i) col) j.fmt
        if j.mx then applyScale v (valueOf (laneOf (j.data.getD (128 + e / 64) 0) 8 (e / 32 % 2 * 128 + col)) 0x1F) else v)
      (hasN [0x00, 0x01] j.fmt = true → t.weight j.unit 8 e col = laneOf (j.data.getD (e / 2) 0) 8 (e % 2 * 128 + col) ∧
        t.tiles.find? j.unit =
          some { width := 8, fmt := BitVec.ofNat 5 j.fmt, ctx := j.ctx, valid := true, eB := [], special := [] }) ∧
      (hasN [0x04, 0x06, 0x0A] j.fmt = true → t.weight j.unit width e col = wrapN (bpCode (sextN code 8) width j.corr) width) ∧
      (hasN [0x12, 0x13, 0x14, 0x15] j.fmt = true →
        t.weight j.unit width e col = wrapN (block.mants.getD (e % 32) 0) width ∧ ∃ r, t.tiles.find? j.unit = some r ∧
          r.eB.getD (col * 8 + e / 32) 0 = block.unit ∧ r.special.getD (col * 8 + e / 32) false = block.bad))

/-- R208, R224, R255 to R259: the C slot: a command waits while the queue is full, its descriptors, its barrier and its network
entries are checked, and then it is queued with a promise that lies in the future and lands in kP after four cycles. Which
cycle a promise names is the free value of log 8; that PUB takes its promise-trap flag as the copies do is the model's choice
(log 27). -/
def Obligations.TileCopy : Prop :=
  ∀ (s : State) (c : Nat) (q : TCtx) (g : SGuard) (ds dd kp ka kb : BitVec 5) (ada adb bar : BitVec 4) (sae dae bae pt : BitVec 1)
    (fac : BitVec 8),
    let src := q.q.tsq.d.get ds.toNat 0
    let dst := q.q.tsq.d.get dd.toNat 0
    let offset (r : BitVec 4) (e : BitVec 1) : Nat := if e = 1 then (q.q.tsq.ad.get r.toNat 0 &&& 0xFFFFFFFF).toNat else 0
    let barrier : Option Nat := if bae = 1 then q.k.bars[bar.toNat]? else none
    let missing : Prop := bae = 1 ∧ q.k.bars[bar.toNat]? = none
    let queued (i : Instr) (P : CpeCmd → Prop) : Prop := TileTurn s c q → guardHolds q.q.tsq g = true → q.q.cpe.length < 16 →
      ∃ t x, exec i s = .next t ∧ (t.core c).cpe = (s.core c).cpe ++ [x] ∧ P x ∧ x.bar = barrier ∧ x.pt = decide (pt = 1) ∧
        x.ctx = q.k.ctx ∧ x.owner = .tile q.b (q.q.tsq.cmdCount 2) q.q.tsq.grant ∧ x.stop = none ∧ s.cycle + 16 ≤ x.promise ∧
        (t.core c).tsq.pc = q.pc + 32 ∧ (t.core c).tsq.cmdCount 2 = q.q.tsq.cmdCount 2 + 1 ∧ t.mem = s.mem ∧
        (t.core c).landings = if kp = 0 then (s.core c).landings else
          (s.core c).landings ++ [⟨(s.core c).seqCyc + 4, (s.core c).issueNo, 3, .k kp.toNat, x.promise % 2 ^ 64, false⟩]
    let full (i : Instr) : Prop := (16 ≤ q.q.cpe.length → TileWaits s c q g i .engbusy) ∧
      (TileTurn s c q → guardHolds q.q.tsq g = false → exec i s = .next (bundleIssued q s))
    let copies (i : Instr) (op : Nat) (pm : Bool) (f : Nat) : Prop :=
      let ok := copyCheck q.k op pm src dst (offset ada sae) (offset adb dae) f
      let net (d : BitVec 512) : Option TTrap := netslotCheck q.q c (descBuf q.k d)
      (ok = none → ¬ missing → net src = none → net dst = none → queued i fun x => x.op = op ∧ x.pm = pm ∧ x.src = src ∧
        x.dst = dst ∧ x.srcOff = offset ada sae ∧ x.dstOff = offset adb dae ∧ x.factor = f ∧ x.pub = none) ∧ full i ∧
      (q.q.cpe.length < 16 → (∀ e, ok = some e → TileTraps s c q g i e) ∧
        (ok = none → missing → TileTraps s c q g i (tBounds bar.toNat 2)) ∧
        (∀ e, ok = none → ¬ missing → net src = some e → TileTraps s c q g i e) ∧
        (∀ e, ok = none → ¬ missing → net src = none → net dst = some e → TileTraps s c q g i e))
    let base := (q.kReg ka.toNat).toNat
    let len := (q.kReg kb.toNat).toNat % 2 ^ 32
    let p : Instr := .pub g ka kb bar bae kp pt
    Tile s c q g (.cnop g) (bundleIssued q s) ∧
    copies (.copy g ds dd ada sae adb dae bar bae kp pt) 1 false 0 ∧
    copies (.copyp g ds dd ada sae adb dae bar bae kp pt) 1 true 0 ∧
    copies (.cpack g ds dd ada sae adb dae bar bae kp pt fac) 3 false fac.toNat ∧
    copies (.cunpk g ds dd ada sae adb dae bar bae kp pt fac) 4 false fac.toNat ∧
    (len ≠ 0 → base < 2 ^ 56 → base % 4096 = 0 → ¬ missing → queued p fun x => x.op = 5 ∧ x.pub = some (base, len)) ∧ full p ∧
    (q.q.cpe.length < 16 → (len = 0 → TileTraps s c q g p (tBounds 0 43)) ∧
      (len ≠ 0 → 2 ^ 56 ≤ base → TileTraps s c q g p { code := 0x04, addr := BitVec.ofNat 64 base, info0 := 256 }) ∧
      (len ≠ 0 → base < 2 ^ 56 → base % 4096 ≠ 0 → TileTraps s c q g p (tAlign base 4096)) ∧
      (len ≠ 0 → base < 2 ^ 56 → base % 4096 = 0 → missing → TileTraps s c q g p (tBounds bar.toNat 2)))

/-- R263 to R273: the X slot waits while the unit is busy; XPOSE writes a transposed block after eight cycles; CHAIN opens a
boundary, CHORD reads a step program, CHSTEP starts its steps and advances the shape, CHEND reports where the boundary
stands; the traps of each. A CHORD or a CHSTEP whose bytes hold an uncorrectable error does nothing but stop. -/
def Obligations.TileChain : Prop :=
  ∀ (s : State) (c : Nat) (q : TCtx) (g : SGuard) (cr a : BitVec 8) (ka kb kd : BitVec 5) (hd n4 bar : BitVec 4) (cnt : BitVec 6)
    (bae : BitVec 1),
    let busy : Prop := (s.core c).seqCyc < q.q.xcu.busyTill ∨ q.q.xcu.run ≠ none
    let x := q.q.xcu
    let waits (i : Instr) : Prop := (q.q = s.core c → busy → TileWaits s c q g i .engbusy) ∧
      (TileTurn s c q → guardHolds q.q.tsq g = false → exec i s = .next (bundleIssued q s))
    let runs (i : Instr) (P : State → Prop) : Prop := TileTurn s c q → guardHolds q.q.tsq g = true → ¬ busy →
      ∃ t, exec i s = .next t ∧ (t.core c).tsq.pc = q.pc + 32 ∧ t.mem = s.mem ∧ P t
    let stops (i : Instr) (P : State → Prop) : Prop := TileTurn s c q → guardHolds q.q.tsq g = true → ¬ busy →
      ∃ t, exec i s = .next t ∧ (t.core c).tsq.pc = q.pc + 32 ∧ P t
    let traps (i : Instr) (e : TTrap) : Prop := q.q = s.core c → ¬ busy → TileTraps s c q g i e
    let w := fmtWidth q.q.tsq.acctype
    let m := 2048 / w
    let va := (q.kReg ka.toNat).toNat
    let vb := (q.kReg kb.toNat).toNat
    let half := va / 1024 % 512 + 1
    let bond := q.q.tsq.bd.get n4.toNat 1
    let sh : Shape := ⟨vb % 65536, vb / 65536 % 65536, bond⟩
    let len := 8 * (cnt.toNat + 1)
    let recs := (x.prog.drop x.ptr).take (cnt.toNat + 1)
    let open_ : Prop := q.q.tsq.acctype = 0x11 ∧ va < 2 ^ 19 ∧ va % 1024 + 2 * half ≤ 1024 ∧ vb < 2 ^ 32 ∧ 0 < sh.x ∧ 0 < sh.p
    Tile s c q g (.xnop g) (bundleIssued q s) ∧ waits (.xpose g cr a) ∧ waits (.chain g ka kb n4) ∧ waits (.chord g ka hd cnt) ∧
    waits (.chstep g cnt bar bae) ∧ waits (.chend g kd) ∧
    (∀ from_ to_, rowRun q.q.tsq a.toNat m = .ok from_ → rowRun q.q.tsq cr.toNat m = .ok to_ → hasN [8, 16, 32] w = true →
      runs (.xpose g cr a) fun t => (t.core c).xcu = { x with busyTill := (s.core c).seqCyc + 8 } ∧ ∃ rows : List (BitVec 2048),
        rows.length = m ∧ (t.core c).landings = (s.core c).landings ++
          ((to_.zip rows).map fun p => ⟨(s.core c).seqCyc + 8, (s.core c).issueNo, 4, .row p.1, p.2.toNat, false⟩) ∧
        ∀ i j, i < m → j < m → laneOf (rows.getD j 0) w i = laneOf (q.q.row (from_.getD i 0)) w j) ∧
    (∀ e, rowRun q.q.tsq a.toNat m = .error e → traps (.xpose g cr a) e) ∧
    (open_ → sh.x * sh.p * sh.r ≤ 64 * half → runs (.chain g ka kb n4) fun t => (t.core c).xcu = { x with
      open_ := true, b0 := va % 1024, half := half, h := 0, x := sh.x, p := sh.p, r := sh.r, ptr := 0 }) ∧
    (open_ → 64 * half < sh.x * sh.p * sh.r → traps (.chain g ka kb n4) (overflowTrap 0xFFFFFFFFFFFFFFFF sh half)) ∧
    (q.q.tsq.acctype ≠ 0x11 → traps (.chain g ka kb n4) (tBounds q.q.tsq.acctype 18)) ∧
    (∀ b, q.k.handles.find? hd.toNat = some b → b.valid = true → b.home = c →
      (va + len ≤ b.len → va % 8 = 0 → unitBad (s.core c).spmBad (b.base + va) len = true → stops (.chord g ka hd cnt) fun t =>
        (t.core c).reads = (s.core c).reads ∧ (t.core c).xcu = x) ∧
      (va + len ≤ b.len → va % 8 = 0 → unitBad (s.core c).spmBad (b.base + va) len = false → runs (.chord g ka hd cnt) fun t =>
        (t.core c).reads = (s.core c).reads ++ [⟨(s.core c).seqCyc + 1, (s.core c).issueNo, 4, b.base + va, len, false,
          .prog (cnt.toNat + 1), (s.core c).seqCyc + 6⟩] ∧ (t.core c).xcu = { x with busyTill := (s.core c).seqCyc + 6 }) ∧
      (b.len < va + len → traps (.chord g ka hd cnt) (tBounds va 33)) ∧
      (va + len ≤ b.len → va % 8 ≠ 0 → traps (.chord g ka hd cnt) (tAlign va 8))) ∧
    (q.k.handles.find? hd.toNat = none → traps (.chord g ka hd cnt) (tOwner hd.toNat)) ∧
    (x.open_ = true → x.ptr + cnt.toNat + 1 ≤ x.prog.length → (bae = 1 → (q.k.bars[bar.toNat]?).isSome) →
      (stepsCheck q recs x.ptr ⟨x.x, x.p, x.r⟩ = none → (s.core c).spmBad = [] → runs (.chstep g cnt bar bae) fun t =>
        (t.core c).xcu.ptr = x.ptr + cnt.toNat + 1 ∧ (t.core c).xcu.h = (x.h + cnt.toNat + 1) % 2 ∧
        (t.core c).xcu.x = x.x ∧ ∃ r, (t.core c).xcu.run = some r ∧ r.done = 1 ∧ r.steps = recs.drop 1 ∧
          (s.core c).seqCyc + 4 ≤ r.ends) ∧
      (∀ w l b, recs = w :: l → stepsCheck q recs x.ptr ⟨x.x, x.p, x.r⟩ = none → q.k.handles.find? (stepBits w 22 19) = some b →
        unitBad (s.core c).spmBad (b.base + stepBits w 47 29)
          (x.r * stepN w * q.bd (stepBits w 9 6) * coreSize (stepBits w 27 23)) = true → stops (.chstep g cnt bar bae) fun t =>
          (t.core c).xcu.run = none ∧ (t.core c).landings = (s.core c).landings) ∧
      (∀ e, stepsCheck q recs x.ptr ⟨x.x, x.p, x.r⟩ = some e → traps (.chstep g cnt bar bae) e)) ∧
    (x.open_ = false → traps (.chstep g cnt bar bae) (tBounds 0 36) ∧ traps (.chend g kd) (tBounds 0 36)) ∧
    (x.open_ = true → runs (.chend g kd) fun t => (t.core c).xcu = { x with open_ := false } ∧
      (t.core c).landings = (s.core c).landings ++ [⟨(s.core c).seqCyc + 1, (s.core c).issueNo, 4, .k kd.toNat,
        (x.b0 + x.h * x.half) % 1024 + x.p % 65536 * 2 ^ 16 + x.r % 65536 * 2 ^ 32 + x.x % 65536 * 2 ^ 48, false⟩])

/-- R142 to R144, R220 to R222, R232, R245, R247, R252, R253, R272: a bundle's active slots wait together, fail together or act
together, and ROT rotates the names and the stage predicates; a loop nest and a repeat go on issue by issue; results land in
their cycle, the later issue's last; attached operations, queue entries and chain steps advance, and stop at POISON. The model's
choices: a repeat's next issue starts one occupancy after the last one's actual start (log 83), and POISON ends the repeat
(log 38); an attached operation is checked again at its start (log 25); the first waiting slot names the bundle's wait (log 89). -/
def Obligations.Bundles : Prop :=
  ∀ (s : State) (c : Nat) (q : TCtx) (w : BitVec 256) (o : Slots),
    let k := s.core c
    let rot := w.getLsbD 1
    let slots := slotsOf w (bundleM w) (bundleC w) (bundleX w)
    let committed (l : List SlotSem) (rot : Bool) : State :=
      let t := l.foldl (fun t x => x.commit q t) (bundleIssued q s)
      l.foldl (fun t x => x.after q t) (if rot then t.modCore c fun k => { k with tsq := rotate k.tsq } else t)
    let together (i : Instr) (l : List SlotSem) (rot : Bool) : Prop := TileTurn s c q →
      (∀ e, l.findSome? (fun x => x.wait q s) = some e →
        exec i s = .next (s.modCore c fun k => { k with tsq := { k.tsq with wait := some e } })) ∧
      (∀ e, l.findSome? (fun x => x.wait q s) = none → l.findSome? (fun x => x.check q s) = some e →
        exec i s = .next (q.trap s e)) ∧
      (l.findSome? (fun x => x.wait q s) = none → l.findSome? (fun x => x.check q s) = none →
        exec i s = .next (committed l rot))
    let goesOn (t : State) : Prop := t.mem = s.mem ∧ (t.core c).tsq.pc = q.pc + 32 ∧
      (t.core c).tsq.bundles = k.tsq.bundles + 1 ∧ (t.core c).tsq.holdTill = k.seqCyc + 1
    (slots = .ok o → together (.bundleIssue w) (bundleSlots w o (bundleM w) q) rot) ∧
    (TileTurn s c q → goesOn (committed [] rot) ∧
      ((committed [] rot).core c).tsq.vrot = (if rot then (k.tsq.vrot + 127) % 128 else k.tsq.vrot) ∧
      ((committed [] rot).core c).tsq.fc = (if rot then k.tsq.fc - 1 else k.tsq.fc) ∧
      ((committed [] rot).core c).tsq.st = (if rot then (k.tsq.st <<< 1) ||| (if 0 < k.tsq.fc then 1 else 0) else k.tsq.st)) ∧
    (slots = .error .opcode → exec (.bundleIssue w) s = .refused .unassigned) ∧
    (∀ e, slots = .error e → e ≠ .opcode → exec (.bundleIssue w) s = .refused .reservedEncoding) ∧
    (∀ so vo, slotOk (decodeS (bundleS w)) checkS = .ok so → slotOk (decodeV (bundleV w)) checkV = .ok vo →
      let v := slotActive q.q.tsq w 78
      together (.loopNestBundle w)
        (nestRest w v :: marking w (when (sActive q.q.tsq w) (sSem so) ++ when v (nestFirst w vo))) (rot && decide (nestTotal w = 1))) ∧
    (∀ v t, 1 < nestTotal w → (t.core c).tsq.grant = q.q.tsq.grant → ∃ n, (((nestRest w v).after q t).core q.c).tsq.nest = some n ∧
      n.word = w ∧ n.total = nestTotal w ∧ n.done = 1 ∧ n.next = q.t + 1 ∧ n.active = v ∧
      (q.c = c → (((nestRest w v).after q t).core c).tsq.holdTill = q.t + nestTotal w)) ∧
    (bundleM w &&& 0xFE00000001FF = 0 → slotsOf w 0 (bundleC w) (bundleX w) = .ok o →
      together (.repeatPrefix w) (bundleSlots w o 0 q ++ [setPrefix w]) rot) ∧
    (∀ t, ∃ p, (((setPrefix w).after q t).core q.c).tsq.prefix_ = some p ∧ p.at_ = q.pc ∧
      p.cnt = (bundleM w >>> 9).toNat % 65536 ∧ p.incm = (bundleM w).extractLsb' 25 16) ∧
    (bundleM w &&& 0xFE00000001FF ≠ 0 → exec (.repeatPrefix w) s = .refused .reservedEncoding) ∧
    (∀ n, k.tsq.nest = some n →
      (k.seqCyc < n.next → exec (.loopNestIteration c) s = .next s) ∧
      (n.next ≤ k.seqCyc → ∃ t, exec (.loopNestIteration c) s = .next t ∧ t.mem = s.mem ∧
        (t.core c).tsq.nest = (if n.total ≤ n.done + 1 then none else some { n with done := n.done + 1, next := n.next + 1 }))) ∧
    (∀ r op, k.tsq.repeat_ = some r → decodeM r.m = .ok op →
      let m := mReq op
      let j := newJob k (r.view k.tsq) r.ctx m
      let poison := if m.op = 2 then queueCheck k r.ctx m.queue m.need else none
      (k.seqCyc < r.next ∨ canStart k j = false ∨ m.op = 2 ∧ entriesReady k r.ctx m = false → exec (.repeatIssue c) s = .next s) ∧
      (r.next ≤ k.seqCyc → canStart k j = true → (m.op = 2 → entriesReady k r.ctx m = true) →
        (poison = none → ∃ t, exec (.repeatIssue c) s = .next t ∧ t.mem = s.mem ∧
          (t.core c).mxe.busyTill = k.seqCyc + j.occupancy ∧ (m.op = 1 ∨ m.op = 2 → j.occupancy = r.planes * m.rows) ∧
          (t.core c).tsq.repeat_ = if r.cnt < r.done + 1 then none
            else some { r with done := r.done + 1, next := k.seqCyc + j.occupancy, ads := adsStep r.ads r.incm 1 }) ∧
        (poison.isSome → ∃ t, exec (.repeatIssue c) s = .next t ∧ (t.core c).tsq.repeat_ = none ∧ (t.core c).mxe.jobs = k.mxe.jobs))) ∧
    (∀ x rest op b, k.mxe.queue = x :: rest → decodeM x.m = .ok op → s.block c x.slot = some b →
      let r := mReq op
      let j := newJob k (x.state k.tsq) b.ctx r
      let may := k.tsq.repeat_ = none ∧ canStart k j = true ∧ (r.op = 2 → entriesReady k b.ctx r = true)
      (¬ may → exec (.attachedOpStart c) s = .next s) ∧
      (may → mxeCheck k (x.state k.tsq) b.ctx r = none → ∃ t, exec (.attachedOpStart c) s = .next t ∧ t.mem = s.mem ∧
        (t.core c).mxe.queue = rest ∧ (t.core c).tsq = k.tsq ∧ (t.core c).mxe.busyTill = k.seqCyc + j.occupancy ∧
        (r.op ≠ 5 → ∃ y, (t.core c).mxe.jobs = k.mxe.jobs ++ [y] ∧ y.att = some x.fib ∧ y.op = r.op) ∧
        (r.op = 5 → (t.core c).landings = k.landings ++ j.cRows.map fun n => ⟨k.seqCyc + 2, k.issueNo, 2, .row n, 0, false⟩)) ∧
      (∀ e, may → mxeCheck k (x.state k.tsq) b.ctx r = some e → exec (.attachedOpStart c) s =
        .next (attFault (s.setCore c { k with mxe := { k.mxe with queue := rest } }) c x.slot x.fib b.ctx r.op e))) ∧
    (∀ j, loadJob k = some j →
      (∀ e rest, (k.queue j.queue).data = e :: rest → ∃ t y, exec (.bloadqRowPop c) s = .next t ∧ t.mem = s.mem ∧
        ((t.core c).queue j.queue).data = rest ∧ y ∈ (t.core c).mxe.jobs ∧ y.seq = j.seq ∧
        y.data = j.data ++ [rowOfBytes e] ∧ y.fin = if sourceRows j.fmt j.mx ≤ j.data.length + 1 then some (k.seqCyc + 6) else none) ∧
      (∀ pay, k.queue j.queue = { data := [], term := some (.eos, pay) } → ∃ t y, exec (.bloadqRowPop c) s = .next t ∧
        t.mem = s.mem ∧ y ∈ (t.core c).mxe.jobs ∧ y.data = j.data ++ List.replicate (sourceRows j.fmt j.mx - j.data.length) 0 ∧
        y.fin = some (k.seqCyc + 6)) ∧
      (∀ pay, k.queue j.queue = { data := [], term := some (.poison, pay) } → ∃ t, exec (.bloadqRowPop c) s = .next t ∧
        (t.core c).mxe.jobs = k.mxe.jobs.filter fun y => ¬ (y.seq = j.seq ∧ y.op = j.op)) ∧
      (k.queue j.queue = { data := [], term := none } → exec (.bloadqRowPop c) s = .next s)) ∧
    (let k' := mxeCycle (landCycle s.cycle c k)
      ∀ j, badJob k' = some j → ∃ t, exec (.latencyWriteLanding c) s = .next t ∧ (t.core c).tiles =
        (if j.tile.any (·.bad) then dropTiles k' j.unit ((j.tile.map (·.width)).getD 1) else k').tiles ∧
        (t.core c).mxe.jobs = k'.mxe.jobs.filter fun y => ¬ (y.seq = j.seq ∧ y.op = j.op)) ∧
    (badJob (mxeCycle (landCycle s.cycle c k)) = none → ∃ t, exec (.latencyWriteLanding c) s = .next t ∧ t.mem = s.mem ∧ (t.core c).seqCyc = k.seqCyc + 1 ∧
      (k.reads = [] → k.mxe.jobs = [] →
        (∀ x n, k.landings = [x] → x.dst = .k n → x.due ≤ k.seqCyc + 1 → (t.core c).landings = [] ∧
          (t.core c).tsq.k = k.tsq.k.set n (BitVec.ofNat 64 x.val)) ∧
        (∀ x, k.landings = [x] → k.seqCyc + 1 < x.due → (t.core c).landings = [x] ∧ (t.core c).tsq = k.tsq ∧
          (t.core c).acm = k.acm ∧ (t.core c).spm = k.spm) ∧
        (∀ x y n, k.landings = [x, y] ∨ k.landings = [y, x] → x.dst = .row n → y.dst = .row n → x.seq < y.seq →
          x.due ≤ k.seqCyc + 1 → y.due ≤ k.seqCyc + 1 → (t.core c).row n = BitVec.ofNat 2048 y.val))) ∧
    (∀ r, k.xcu.run = some r →
      (k.seqCyc < r.ends → exec (.chstepStep c) s = .next s) ∧
      (r.ends ≤ k.seqCyc → stepPoison k r = true → ∃ t, exec (.chstepStep c) s = .next t ∧
        (t.core c).xcu.run = none ∧ (t.core c).landings = k.landings) ∧
      (∀ x xs b bs, r.ends ≤ k.seqCyc → r.steps = x :: xs → r.bufs = b :: bs → stepPoison k r = false → ∃ t y, exec (.chstepStep c) s = .next t ∧
        t.mem = s.mem ∧ (t.core c).xcu.run = some y ∧ y.steps = xs ∧ y.done = r.done + 1 ∧ y.h = 1 - r.h ∧ k.seqCyc + 4 ≤ y.ends) ∧
      (r.ends ≤ k.seqCyc → r.steps = [] → r.bar = none →
        exec (.chstepStep c) s = .next (s.setCore c { k with xcu := { k.xcu with run := none } })) ∧
      (∀ n, r.ends ≤ k.seqCyc → r.steps = [] → r.bar = some n →
        exec (.chstepStep c) s = .next (arriveBar (s.setCore c { k with xcu := { k.xcu with run := none } }) c n)))

-- Fibres and blocks

/-- R21, R30, R35, R349, R354, R356, R446: a fibre that waits for a frame slot tries again; the oldest pending trap of a fibre, and
of its block for the lead fibre, is taken at DEPTH 0, none while a forced save is in progress (R291); a ready fibre becomes urgent after 1,024 cycles; a context is freed when no load to it is outstanding; a block ends
when its fibres and commands have; a ready fibre is given its turn to issue; a mooring's timer releases its records. -/
def Obligations.FibreEvents : Prop :=
  ∀ (s : State) (c b f n : Nat) (k : Block) (x : Fibre) (t : Trap), s.block c b = some k → k.fibres.find? f = some x →
    let fpc := devBits s (offCX k.ctx 0x18) 10 0
    let hentry := devBits s (offCX k.ctx 0x08) 55 3 * 8
    let room := fpc ≠ 0 ∧ freeSlot (s.core c).slotsUsed k.ctx fpc = some n ∧ hentry ≠ 0 ∧ t.code ≠ 0x0E ∧
      rangeFault s k.ctx 1 3 (devBits s (offCX k.ctx 0x10) 55 12 * 4096 + (c * fpc + n) * 2304) (256 + 8 * k.win) = none
    let enters (i : Instr) : Prop := ∃ u y, exec i s = .next u ∧ u.fibre c b f = some y ∧ y.depth = x.depth + 1 ∧
      y.pc = BitVec.ofNat 56 hentry ∧ y.status = .ready ∧ (u.core c).slotsUsed = (k.ctx, n) :: (s.core c).slotsUsed
    (x.status = .trapping t → x.depth < 8 → room → enters (.trapEntry c b f)) ∧
    ((∀ e, x.status ≠ .trapping e) → exec (.trapEntry c b f) s = .next s) ∧
    (∀ rest, x.depth = 0 → x.takesPending = true → (s.core c).preempting = false → room →
      (x.pending = t :: rest → (∀ u, k.pending.head? = some u → t.since ≤ u.since) → enters (.pendingTrapDelivery c b f) ∧
        ∃ u y, exec (.pendingTrapDelivery c b f) s = .next u ∧ u.fibre c b f = some y ∧ y.pending = rest) ∧
      (k.pending = t :: rest → leadFibre k = some f → (∀ u, x.pending.head? = some u → t.since < u.since) →
        enters (.pendingTrapDelivery c b f) ∧ ∃ u z, exec (.pendingTrapDelivery c b f) s = .next u ∧ u.block c b = some z ∧
          z.pending = rest)) ∧
    ((s.core c).preempting = true → exec (.pendingTrapDelivery c b f) s = .next s) ∧
    (x.pending = [] → k.pending = [] → exec (.pendingTrapDelivery c b f) s = .next s) ∧
    (∃ u, exec (.fibreUrgent c b f) s = .next u ∧ u.mem = s.mem ∧ u.fibre c b f = some
      (if x.status = .ready ∧ x.urgentAt = none ∧ x.readyAt + 1024 ≤ s.cycle then { x with urgentAt := some s.cycle } else x)) ∧
    (x.status = .ended → (∀ a ∈ (s.core c).pend, ¬(a.slot = b ∧ a.fib = f ∧ a.dst ≠ 0)) →
      ∃ u k', exec (.fibreContextFree c b f) s = .next u ∧ u.block c b = some k' ∧ k'.fibres = k.fibres.del f ∧ u.mem = s.mem) ∧
    (x.status ≠ .ended → exec (.fibreContextFree c b f) s = .next s) ∧
    (blockOver (s.core c) b k = false → exec (.blockEnd c b) s = .next s) ∧
    (blockOver (s.core c) b k = true → ∃ u, exec (.blockEnd c b) s = .next u ∧ ((s.core c).pend = [] → k.sigRing = none →
      u.mem = s.mem ∧ (u.core c).blocks.map (·.1) = ((s.core c).blocks.del b).map (·.1) ∧
      (∀ m ∈ k.bars, (u.core c).bars.find? m = none) ∧
      (∀ a, k.spmBase ≤ a → a < k.spmBase + k.spmLen → (u.core c).spm.find? a = none) ∧
      (∀ id l, k.launch = some id → s.launches.find? id = some l → u.launches.find? id = some { l with left := l.left - 1 }))) ∧
    (∃ u, exec (.fiuIssue c) s = .next u ∧ u.mem = s.mem ∧ (mayIssue s c = false → u.agenda = s.agenda) ∧
      (mayIssue s c = true → (s.core c).blocks = [(b, k)] → k.fibres = [(f, x)] → x.status = .ready →
        u.agenda = .issue (.fibre c b f) :: s.agenda)) ∧
    (∀ key m e, (s.core c).moorings.find? key = some m → m.expiry = some e →
      (s.cycle < e → exec (.mooringTimerExpiry c key) s = .next s) ∧
      (e ≤ s.cycle → (s.core c).preempt.get m.ctx 0 ≠ 2 → ∃ u w, exec (.mooringTimerExpiry c key) s = .next u ∧
        u.order = s.order ++ [w] ∧ w.tasks = m.recs.map (loadTask s (clusterOf c)) ∧ w.nfibre = m.recs.length ∧ w.entry = m.node.entry ∧ w.ctx = m.ctx ∧
        (u.core c).moorings = (s.core c).moorings.del key ∧ u.mem = s.mem))

-- Launch and placement

/-- R336 to R338, R340 to R342, R414, R416: writes of a queue's TAIL and control; the arrival of a LAUNCH in its queue's inbox;
the dispatcher's taking of a record, and its refusal, with the status that each gives the LAUNCH that sent it; a launch's completion, and the copy of a successor that waited for room, which
its queue must still take (R343). -/
def Obligations.LaunchQueues : Prop :=
  ∀ (s : State) (q n : Nat) (tail : BitVec 32) (v : BitVec 64) (a : Access) (l : List Byte) (r : InRec) (id : Nat) (x : Launch),
    let ahead := (tail - BitVec.ofNat 32 (queueHead s q)).toNat
    let box := s.inboxes.get q []
    let isOpen : Prop := qctl s q 0 0 = 1 ∧ queueCtx s q = a.ctx
    (ahead ≤ 2 ^ qctl s q 15 12 →
      exec (.qtailWrite q tail) s = .next (devSet s (offQ q 0x10) (tail.setWidth 64))) ∧
    (2 ^ qctl s q 15 12 < ahead → ∃ u, exec (.qtailWrite q tail) s = .next u ∧ devBits u (offQ q 8) 0 0 = 0 ∧
      devBits u (offQ q 0x20) 0 0 = 1 ∧ devBits u (offQ q 0x20) 7 4 = 4 ∧
      devBits u (offQ q 0x20) 39 8 = queueHead s q ∧ devGet u (offQ q 0x18) = tail.setWidth 64 ∧
      devGet u (offQ q 0x10) = tail.setWidth 64 ∧ u.mem = s.mem) ∧
    (tdiLocked s (queueCtx s q) = true → exec (.qctlWrite q v) s = .next s) ∧
    (tdiLocked s (queueCtx s q) = false →
      (qctl s q 0 0 = 1 → exec (.qctlWrite q v) s = .next (if v.getLsbD 0 then s else devPut s (offQ q 8) 0 0 0)) ∧
      (qctl s q 0 0 = 0 → ∃ u, exec (.qctlWrite q v) s = .next u ∧ u.mem = s.mem ∧ devGet u (offQ q 8) =
        if (v >>> 12).toNat % 16 < 4 then v &&& 0xFFFE else v &&& 0xFFFF)) ∧
    (nextLaunch s = none → exec .launchInboxArrival s = .next s) ∧
    (nextLaunch s = some (n, a, q) → physRead s a.key a.pa 128 = some l →
      (isOpen → qctl s q 1 1 = 0 → box.length < 16 → ∃ u y, exec .launchInboxArrival s = .next u ∧ u.mem = s.mem ∧
        u.inboxes.get q [] = box ++ [y] ∧ y.bytes = l ∧ y.launcher = some (n, a.id)) ∧
      (isOpen → qctl s q 1 1 = 0 → 16 ≤ box.length → exec .launchInboxArrival s = .next (settleStatus s n a.id 1)) ∧
      (isOpen → qctl s q 1 1 = 1 → sealForm l = true → box.length < 16 → ∃ u y, y.bytes = l ∧
        u = { s with inboxes := s.inboxes.set q (box ++ [y]) } ∧ exec .launchInboxArrival s = .next (settleStatus u n a.id 0)) ∧
      (isOpen → qctl s q 1 1 = 1 → sealForm l = false → exec .launchInboxArrival s = .next (settleStatus s n a.id 3)) ∧
      (¬ isOpen → exec .launchInboxArrival s = .next (settleStatus s n a.id 3))) ∧
    (nextLaunch s = some (n, a, q) → physRead s a.key a.pa 128 = none →
      exec .launchInboxArrival s = .next (settleStatus s n a.id (if qctl s q 0 0 = 1 ∧ queueCtx s q = a.ctx then 2 else 3))) ∧
    (nextQueue s = some q → headRecord s q = some (true, some r) → r.launcher = some (n, id) → r.succOf = none →
      (checkRecord s (queueCtx s q) false r.bytes = none → (parseRecord r.bytes).kind = 0 →
        ∃ u w, exec .dispatchTakeRecord s = .next u ∧ u.cores = (settleStatus (advanceQueue s q true) n id 0).cores ∧
          u.order = (settleStatus (advanceQueue s q true) n id 0).order ++ [w] ∧ w.entry = (parseRecord r.bytes).entry) ∧
      (∀ code, checkRecord s (queueCtx s q) false r.bytes = some code →
        exec .dispatchTakeRecord s = .next (settleStatus (advanceQueue s q true) n id 2))) ∧
    (devBits s 0x1000 4 4 = 0 → exec .dispatchTakeRecord s = .next s) ∧
    (nextQueue s = some q → headRecord s q = some (false, some r) → r.launcher = none →
      (checkRecord s (queueCtx s q) r.succOf.isSome r.bytes = none → (parseRecord r.bytes).kind = 0 →
        ∃ u w l id, exec .dispatchTakeRecord s = .next u ∧ u.mem = s.mem ∧ u.order = s.order ++ [w] ∧ w.launch = some id ∧
          w.many = (parseRecord r.bytes).nblock ∧ w.nfibre = (parseRecord r.bytes).nfibre ∧
          w.entry = (parseRecord r.bytes).entry ∧ w.ctx = queueCtx s q ∧ u.launches.find? id = some l ∧
          l.left = (parseRecord r.bytes).nblock ∧ l.ctx = queueCtx s q ∧
          devBits u (offQ q 0x18) 31 0 = (queueHead s q + 1) % 2 ^ 32) ∧
      (∀ code, code < 16 → checkRecord s (queueCtx s q) r.succOf.isSome r.bytes = some code →
        ∃ u, exec .dispatchTakeRecord s = .next u ∧ u.mem = s.mem ∧ u.order = s.order ∧ u.launches = s.launches ∧
          devBits u (offQ q 0x20) 0 0 = 1 ∧ devBits u (offQ q 0x20) 7 4 = code ∧
          devBits u (offQ q 0x18) 31 0 = (queueHead s q + 1) % 2 ^ 32)) ∧
    (s.launches.find? id = some x →
      (x.left ≠ 0 → exec (.launchCompletion id) s = .next s) ∧
      (∀ t, x.left = 0 → s.succs = [] → x.info.nsucc = 0 → x.info.done ≠ 0 →
        translate s x.ctx 1 x.info.done.toNat = .ok t → ∃ u, exec (.launchCompletion id) s = .next u ∧
          u.launches = s.launches.del id ∧
          u.mem = (physWrite s x.ctx t.key (t.pa x.info.done.toNat) (toBytes 4 1)).mem) ∧
      (∀ rec, s.succs = [(n, rec, id)] → (s.inboxes.get n []).length < 16 → x.info.nsucc = x.succAt → x.info.done = 0 →
        ∃ u, exec .successorInboxCopy s = .next u ∧ u.succs = [] ∧ u.launches = s.launches.del id ∧ u.mem = s.mem ∧
          (queueTakes s n x.ctx = true → u.inboxes.get n [] = s.inboxes.get n [] ++ [rec]) ∧
          (queueTakes s n x.ctx = false → u.inboxes.get n [] = s.inboxes.get n [] ∧ devBits u (offQ x.queue 0x20) 7 4 = 7))) ∧
    ((∀ p ∈ s.succs, 16 ≤ (s.inboxes.get p.1 []).length) → exec .successorInboxCopy s = .next s)

/-- R19, R33, R60, R346, R347: the block that a cluster places next becomes resident on the chosen core, each of its fibres ready
at the entry and h0 over its allocation; the head of the order ages after 65,536 cycles; a stagger interval ends. Which slot,
scratchpad base and barriers a block gets is the free value of the log. -/
def Obligations.Placement : Prop :=
  ∀ (s : State) (cl c : Nat) (w : Waiting) (l : List Nat) (id at_ : Nat) (x : Launch),
    (nextPlacement s cl = some (w, l) → c ∈ l → ∃ u slot b, exec (.blockPlacement cl c) s = .next u ∧
      u.block c slot = some b ∧ b.ctx = w.ctx ∧ b.blk = w.blk ∧ b.entry = w.entry ∧ b.nfibre = w.nfibre ∧ b.win = w.win ∧
      b.stage = w.stage ∧ b.spmLen = w.spm ∧ b.launch = w.launch ∧ b.requested = false ∧ b.masks = [] ∧
      (∀ f, f < w.nfibre → ∃ y, b.fibres.find? f = some y ∧ y.pc = w.entry ∧ y.status = .ready ∧ y.depth = 0 ∧ y.preds = 1) ∧
      (∀ f, w.nfibre ≤ f → b.fibres.find? f = none) ∧
      (w.spm = 0 → b.handles = []) ∧
      (w.spm ≠ 0 → ∃ h, b.handles = [(0, h)] ∧ h.home = c ∧ h.base = b.spmBase ∧ h.len = w.spm ∧ h.valid = true) ∧
      u.order = s.order.filterMap (fun y => if y.number = w.number then y.rest else some y) ∧
      ((s.core c).ctx = w.ctx → u.mem = s.mem)) ∧
    (nextPlacement s cl = some (w, l) → c ∉ l → exec (.blockPlacement cl c) s = .next s) ∧
    (nextPlacement s cl = none → exec (.blockPlacement cl c) s = .next s) ∧
    (∀ rest, placementOrder s cl = w :: rest → s.aging.find? cl = none → exec (.placementHeadAging cl) s =
      .next (if w.entered + 65536 ≤ s.cycle then { s with aging := s.aging.set cl w.number } else s)) ∧
    (s.launches.find? id = some x → x.lastAt.find? cl = some at_ →
      (s.cycle < at_ + x.info.stagger → exec (.staggerExpiry id cl) s = .next s) ∧
      (at_ + x.info.stagger ≤ s.cycle → ∃ u, exec (.staggerExpiry id cl) s = .next u ∧ u.mem = s.mem ∧
        u.launches.find? id = some { x with lastAt := x.lastAt.del cl }))

/-- R370 to R374, R414: a write of CXPRE starts a node-boundary or a forced save on every core that it names, or restores them; a
save takes the context's moorings off its core, their records into free slots of the cluster's queue, and a forced save its
blocks too, once the scratchpad accesses that had issued by its request have been performed; a restore is refused while a core is
not released or an area does not read, waits for another context's flash record, and takes counters, registers and program counters from
it. Where the area keeps what the manual gives no place for is the model's (log 50). -/
def Obligations.Preemption : Prop :=
  ∀ (s : State) (ctx c : Nat) (v : BitVec 64),
    let starts (i : Instr) (kind : Nat) : Prop :=
      (tdiLocked s ctx = true → exec i s = .next s) ∧
      (tdiLocked s ctx = false → c ∈ coveredCores ((v >>> 8).toNat % 256) → s.saves.find? (saveKey c ctx) = none →
        ∃ u, exec i s = .next u ∧ (u.core c).preempt.get ctx 0 = max kind ((s.core c).preempt.get ctx 0) ∧
          devBits u (offPre ctx) 16 16 = 1 ∧ u.mem = s.mem)
    let s1 := devSet s (offPre ctx) (v &&& 0xFF06)
    let saved := (coveredCores ((v >>> 8).toNat % 256)).filter fun c => (s.saves.find? (saveKey c ctx)).isSome
    let again : Instr := .cxpreRestore ctx v
    let refused (code : Nat) : Prop := ∃ u, exec again s = .next u ∧ devBits u (offPre ctx) 23 20 = code ∧ u.saves = s.saves ∧
      u.cores = s.cores ∧ u.mem = s.mem
    starts (.cxpreNodeSave ctx v) 1 ∧ starts (.cxpreForcedSave ctx v) 2 ∧
    (savingCtx (s.core c) 1 (releasedFrom (s.core c)) = none → exec (.nodeBoundarySave c) s = .next s) ∧
    (savingCtx (s.core c) 1 (releasedFrom (s.core c)) = some ctx → ((s.core c).moorings.map (·.1)).Nodup →
      ∃ u x, exec (.nodeBoundarySave c) s = .next u ∧
        u.saves.find? (saveKey c ctx) = some x ∧ x.forced = false ∧ x.k.moorings = mooringsOf ((moveMoorings s c ctx).core c) ctx ∧
        (mqSlots s (clusterOf c) = 0 → x.k.moorings = mooringsOf (s.core c) ctx) ∧
        (u.core c).moorings = (s.core c).moorings.filter (fun p => p.2.ctx ≠ ctx) ∧ (u.core c).blocks = (s.core c).blocks ∧
        (u.core c).preempt = (s.core c).preempt.del ctx) ∧
    (savingCtx (s.core c) 2 (fun _ => true) = none → exec (.forcedSaveComplete c) s = .next s) ∧
    (savingCtx (s.core c) 2 (fun _ => true) = some ctx → (s.core c).ctx = ctx → 
      (∀ p ∈ s.cores, spmDue c ((s.core c).preemptAt.get ctx s.cycle) p.1 p.2 = []) →
      ∃ u x, exec (.forcedSaveComplete c) s = .next u ∧
        u.saves.find? (saveKey c ctx) = some x ∧ x.forced = true ∧ x.k.blocks = (s.core c).blocks ∧ (u.core c).blocks = [] ∧
        (u.core c).cpe = [] ∧ (u.core c).lamp = none ∧ (u.core c).preempt = (s.core c).preempt.del ctx) ∧
    (tdiLocked s ctx = true → exec again s = .next s) ∧
    (tdiLocked s ctx = false →
      (saved = [] → exec again s = .next s1) ∧
      (c ∈ saved → releasedFrom (s.core c) (s.core c).ctx = false → refused 2) ∧
      (∀ x, saved = [c] → releasedFrom (s.core c) (s.core c).ctx = true → s.saves.find? (saveKey c ctx) = some x →
        (areaGood s1 c ctx (restoreParts s1 c ctx x) = false → refused 1) ∧
        (areaGood s1 c ctx (restoreParts s1 c ctx x) = true → x.forced = true → x.k.ctx = ctx → (s.core c).ctx ≠ ctx →
          flashHolds s1 (s.core c) = true → ∃ u, exec again s = .next u ∧ u.saves = s.saves ∧ u.mem = s.mem ∧
          (u.core c).preempt.get ctx 0 = 3 ∧ (u.core c).blocks = (s.core c).blocks) ∧
        (areaGood s1 c ctx (restoreParts s1 c ctx x) = true →
          ¬(x.forced = true ∧ x.k.ctx = ctx ∧ (s.core c).ctx ≠ ctx ∧ flashHolds s1 (s.core c) = true) →
          ∃ u, exec again s = .next u ∧ u.saves = s.saves.del (saveKey c ctx) ∧
          (u.core c).relNum.get ctx 0 = areaNum s1 c ctx 120 8 % 2 ^ 21 ∧
          (x.forced = false → areaNum s1 c ctx 112 8 % 2 = 0 → u.mem = s.mem ∧ (u.core c).blocks = (s.core c).blocks) ∧
          (∀ key m, x.k.moorings = [(key, m)] → (s.core c).moorings.find? key = none → m.spilled = true ∨
            (areaNum s1 c ctx 20 4 = 0 ∧ ∀ t ∈ m.recs, t.slot = none) → x.forced = false →
            (u.core c).moorings.find? key = some (m.aged (s.cycle - areaNum s1 c ctx 88 8))) ∧
          (∀ b k f y, x.forced = true → x.k.ctx = ctx → (s.core c).ctx = ctx → x.k.blocks.find? b = some k →
            k.fibres.find? f = some y →
            let at_ := fibreRecord s1 c ctx x.k b f - saveArea s1 c ctx
            ∃ z, u.fibre c b f = some z ∧ z.pc = BitVec.ofNat 56 (areaNum s1 c ctx at_ 8) ∧
              ∀ n, 0 < n → n < k.win → z.reg k.win n = Reg.ofBytes (areaBytes s1 c ctx (at_ + 256 + 8 * n) 8)))))

-- Lanterns and the debug monitor

/-- R386 to R401: an idle Lantern enters the handler of its oldest event; its invocation ends by its return or its budget; the
handler's instructions, window accesses and services; prefetches and sends; and the control of handler sets. The RISC-V
encoding of ADDI is the model's reading of log 18; one handler instruction a Lantern cycle and the firmware address that ends an
invocation are its choices of log 52, and what an uncorrectable error of the handler SRAM does is its choice of log 105. -/
def Obligations.Lanterns : Prop :=
  ∀ (s : State) (sl k : Nat) (r : LRun) (e : LEvent) (rest : List LEvent) (v : BitVec 64),
    let x := s.slice' sl
    let idle (i : Instr) : Prop := x.run = none → exec i s = .next s
    let on : Prop := x.run = some r ∧ r.pc ≠ firmwarePc
    let runs (i : Instr) (P : LRun → Slice → Prop) : Prop := ∃ u y, exec i s = .next u ∧ (u.slice' sl).run = some y ∧ y.used = r.used + 1 ∧
      P y (u.slice' sl)
    let ended (i : Instr) : Prop := ∃ u, exec i s = .next u ∧ (u.slice' sl).run = none
    let stat := offLH sl r.set_ 0x20
    let off := offLH sl k 0
    (x.run = none → x.events = e :: rest → e.kind ≠ 1 → setFor s sl e.kind e.ctx e.addr = none → ∃ u, exec (.lanternDispatch sl) s = .next u ∧
      (u.slice' sl).events = rest ∧ (u.slice' sl).run = none ∧ u.mem = s.mem) ∧
    (x.run = none → x.events = e :: rest → setFor s sl e.kind e.ctx e.addr = some k → (x.vectors.get k []).getD e.kind 0 ≠ 0 →
      ∃ u y, exec (.lanternDispatch sl) s = .next u ∧ (u.slice' sl).events = rest ∧ (u.slice' sl).run = some y ∧ y.set_ = k ∧
        y.ev = e ∧ y.pc = (x.vectors.get k []).getD e.kind 0 ∧ y.used = 0 ∧ y.budget = lhBits s sl k 0 27 16 ∧
        y.reg 10 = BitVec.ofNat 64 e.kind ∧ y.reg 11 = 0x40 ∧ y.reg 1 = firmwarePc ∧ u.mem = s.mem) ∧
    (x.run = some r → exec (.lanternDispatch sl) s = .next s) ∧ (x.events = [] → exec (.lanternDispatch sl) s = .next s) ∧
    idle (.lanternReturn sl) ∧ idle (.lanternBudgetAbort sl) ∧ idle (.lanternWindowAccess sl) ∧ idle (.lprefWrite sl v) ∧
    idle (.lsendWrite sl v) ∧ idle (.lstatRead sl 0) ∧
    (x.run = some r → r.pc = firmwarePc → r.ev.kind ≠ 1 → ended (.lanternReturn sl)) ∧
    (on → exec (.lanternReturn sl) s = .next s) ∧
    (on → r.used < r.budget → exec (.lanternBudgetAbort sl) s = .next s) ∧
    (on → r.budget ≤ r.used → r.ev.kind ≠ 1 → ∃ u, exec (.lanternBudgetAbort sl) s = .next u ∧ (u.slice' sl).run = none ∧ u.mem = s.mem ∧
      devBits u stat 47 32 = min (devBits s stat 47 32 + 1) 0xFFFF ∧ devBits u stat 1 0 = min 3 (devBits s stat 1 0 + 1) ∧
      (2 ≤ devBits s stat 1 0 → devBits u stat 2 2 = 1)) ∧
    (∀ rd a n sg len pa l, on → nextStep r (lanternRaw s sl r) = some (.load rd a n sg, len) → rd ≠ 0 → a.toNat % n = 0 →
      windowPa a = some pa → windowOk sl r pa = true → (x.lines.find? (pa / 128)).isSome → physRead s r.ctx pa n = some l →
      runs (.lanternWindowAccess sl) fun y _ => y.pc = r.pc + BitVec.ofNat 64 len ∧ y.reg rd = extend sg n l) ∧
    (∀ rd a n sg len pa, on → nextStep r (lanternRaw s sl r) = some (.load rd a n sg, len) → a.toNat % n = 0 →
      windowPa a = some pa → windowOk sl r pa = false → r.ev.kind ≠ 1 → ended (.lanternWindowAccess sl)) ∧
    (on → v.toNat < 2 ^ 52 → r.inRange v.toNat = true → (x.prefetches.filter fun p => p.run = r.no).length < 16 →
      runs (.lprefWrite sl v) fun y z => y.pc = r.pc + 4 ∧ z.prefetches = x.prefetches ++ [⟨v.toNat / 128, r.ctx, r.cookie, r.no⟩]) ∧
    (on → r.inRange v.toNat = false → r.ev.kind ≠ 1 → ended (.lprefWrite sl v)) ∧
    (∀ line, (∀ p ∈ x.prefetches, p.line ≠ line) → exec (.lanternPrefetchComplete sl line) s = .next s) ∧
    (∀ line p, x.prefetches.find? (fun p => p.line = line) = some p → p.cookie = 0 → exec (.lanternPrefetchComplete sl line) s =
      .next (insertFill (s.modSlice sl fun y => { y with prefetches := y.prefetches.erase p }) (sliceOf (sl / 64) (128 * line)) line p.ctx)) ∧
    (∀ line p, x.prefetches.find? (fun p => p.line = line) = some p → backed (128 * line) = true → ∃ u,
      exec (.lanternPrefetchComplete sl line) s = .next u ∧ u.mem = s.mem ∧
      ((u.slice' (sliceOf (sl / 64) (128 * line))).lines.find? line).isSome) ∧
    (on → v.toNat % 8 = 0 → v.toNat + 48 ≤ r.size → x.sends.length < 4 → unitBad x.sramBad (r.base + v.toNat) 48 = false →
      (sendOf s r x.next (sramBytes x (r.base + v.toNat) 48) = none →
        runs (.lsendWrite sl v) fun y z => y.stat = 2 ∧ y.sent = none ∧ y.pc = r.pc + 4 ∧ z.sends = x.sends) ∧
      (∀ m, sendOf s r x.next (sramBytes x (r.base + v.toNat) 48) = some m →
        runs (.lsendWrite sl v) fun y z => y.sent = some m.no ∧ y.pc = r.pc + 4 ∧ z.sends = x.sends ++ [m])) ∧
    (on → v.toNat % 8 = 0 → v.toNat + 48 ≤ r.size → x.sends.length < 4 → unitBad x.sramBad (r.base + v.toNat) 48 = true →
      r.ev.kind ≠ 1 → ended (.lsendWrite sl v)) ∧
    (on → v.toNat % 8 ≠ 0 → r.ev.kind ≠ 1 → ended (.lsendWrite sl v)) ∧
    (nextSend s x.sends [] = none → exec (.lanternSendDelivery sl) s = .next s) ∧
    (∀ m, nextSend s x.sends [] = some m → m.lantern = true →
      (msgRefused s m.dest m.ctx = none → ∃ u y, exec (.lanternSendDelivery sl) s = .next u ∧ u.mem = s.mem ∧
        (u.slice' m.dest).events = (s.slice' m.dest).events ++ [y] ∧ y.kind = 3 ∧ y.ctx = m.ctx ∧ y.addr = m.pa ∧
        (u.slice' sl).sends = x.sends.filter (fun z => z.no ≠ m.no)) ∧
      ((msgRefused s m.dest m.ctx).isSome → ∃ u, exec (.lanternSendDelivery sl) s = .next u ∧ u.mem = s.mem ∧
        (u.slice' m.dest).events = (s.slice' m.dest).events ∧ (u.slice' sl).sends = x.sends.filter (fun z => z.no ≠ m.no))) ∧
    (∀ m, nextSend s x.sends [] = some m → m.lantern = false → ∃ u, exec (.lanternSendDelivery sl) s = .next u ∧
      u.mem = (mailbox s sl m).1.mem ∧ (u.slice' sl).sends = x.sends.filter (fun z => z.no ≠ m.no)) ∧
    (∀ rd : BitVec 5, on → rd ≠ 0 → r.sent = none →
      runs (.lstatRead sl rd) fun y _ => y.pc = r.pc + 4 ∧ y.reg rd.toNat = BitVec.ofNat 64 r.stat) ∧
    (∀ rd : BitVec 5, on → r.sent ≠ none → runs (.lstatRead sl rd) fun y _ => y.pc = r.pc ∧ y.x = r.x) ∧
    (tdiLocked s (lhBits s sl k 0 6 1) = true → exec (.lhctlWrite sl k v) s = .next s ∧ exec (.lhstatRearm sl k) s = .next s) ∧
    (tdiLocked s (lhBits s sl k 0 6 1) = false →
      (setOn s sl k = true → exec (.lhctlWrite sl k v) s = .next (if v.getLsbD 0 then s else disableSet s sl k)) ∧
      devBits (disableSet s sl k) off 0 0 = 0 ∧
      ((∀ e ∈ x.events, setTakes s sl k e.kind e.ctx e.addr = false) → disableSet s sl k = devPut s off 0 0 0) ∧
      ((∀ e ∈ x.events, e.kind ≠ 1) → ((disableSet s sl k).slice' sl).events =
        x.events.filter fun e => !setTakes s sl k e.kind e.ctx e.addr) ∧
      (setOn s sl k = false → v.getLsbD 0 = false ∨ setValid s sl k (lhctlValue v) = false →
        ∃ u, exec (.lhctlWrite sl k v) s = .next u ∧ devGet u off = lhctlValue v &&& 0xFFFFFFFFFFFFFFFE ∧ u.slices = s.slices) ∧
      (setOn s sl k = false → v.getLsbD 0 = true → setValid s sl k (lhctlValue v) = true → ∃ u, exec (.lhctlWrite sl k v) s = .next u ∧
        devGet u off = lhctlValue v ∧ (u.slice' sl).vectors.get k [] = (List.range 4).map fun i =>
          if unitBad x.sramBad (regionBase s sl k + 8 * i) 8 = true then 0
          else BitVec.ofNat 64 (ofBytes (sramBytes x (regionBase s sl k + 8 * i) 8))) ∧
      ∃ u, exec (.lhstatRearm sl k) s = .next u ∧ devBits u (offLH sl k 0x20) 2 0 = 0 ∧
        devBits u (offLH sl k 0x20) 63 3 = devBits s (offLH sl k 0x20) 63 3) ∧
    (∀ w : BitVec 32, s.cur = .lantern sl → on →
      let whole (len : Nat) : Prop := unitBad x.sramBad (r.base + r.pc.toNat) len = false
      (∀ y len, nextStep r w.toNat = some (y, len) → ¬ whole len → r.ev.kind ≠ 1 → ended (.lanternHandlerInstruction w)) ∧
      (∀ f3 rd num z len, nextStep r w.toNat = some (.csr f3 rd num 0 z, len) → whole len → f3 ≠ 1 → num = 0x800 ∨ num = 0x802 →
        runs (.lanternHandlerInstruction w) fun y t => y.pc = r.pc + 4 ∧ y.reg rd = 0 ∧
          t.prefetches = x.prefetches ∧ t.sends = x.sends) ∧
      (∀ rd z len, nextStep r w.toNat = some (.reg rd z, len) → whole len → rd ≠ 0 →
        runs (.lanternHandlerInstruction w) fun y _ => y.pc = r.pc + BitVec.ofNat 64 len ∧ y.reg rd = z) ∧
      (∀ rd to_ len, nextStep r w.toNat = some (.jump rd to_, len) → whole len → rd ≠ 0 →
        runs (.lanternHandlerInstruction w) fun y _ => y.pc = to_ ∧ y.reg rd = r.pc + BitVec.ofNat 64 len) ∧
      (∀ len, nextStep r w.toNat = some (.illegal, len) → whole len → r.ev.kind ≠ 1 → ended (.lanternHandlerInstruction w))) ∧
    (∀ (rd rs : BitVec 5) (imm : BitVec 12), s.cur = .lantern sl → on → r.pc.toNat + 4 ≤ r.size →
      unitBad x.sramBad (r.base + r.pc.toNat) 4 = false → rd ≠ 0 →
      runs (.lanternHandlerInstruction (imm ++ rs ++ 0#3 ++ rd ++ 0x13#7)) fun y _ => y.pc = r.pc + 4 ∧
        y.reg rd.toNat = r.reg rs.toNat + imm.signExtend 64)

/-- R361, R405 to R410: a stop notice enters the debug page's ring; a write of DBGRSM resumes the fibre that is stopped with that
frame; each request of the host is answered with its status and its sequence number. That a command is one event, that debugRead answers
an unknown one and that unused argument bytes must be zero are the model's choices (log 54), as is the PC's low 56 bits (log 33). -/
def Obligations.DebugMonitor : Prop :=
  ∀ (s : State) (cl req rsp : Nat) (args : List Byte),
    let ctx := devBits s (offDbg cl 0) 6 1
    let arg (o n : Nat) : Nat := ofBytes (slice args (o - 64) n)
    let zero (lo hi : Nat) : Prop := (slice args (lo - 64) (hi - lo)).all (· == 0) = true
    let asked (cmd : Nat) : Prop := pageNum s cl 0 8 = some req ∧ pageNum s cl 8 8 = some rsp ∧ req ≠ rsp ∧
      pageNum s cl 16 4 = some cmd ∧ physRead s hubKey (debugPage s cl + 64) 192 = some args
    let answers (i : Instr) (status : Nat) (t : State) : Prop := exec i s =
      .next (pagePut (pagePut t cl 20 (toBytes 4 status)) cl 8 (toBytes 8 req))
    (∀ n rest nstop ntaken, (s.cluster cl).notices = n :: rest → pageNum s cl 2032 8 = some nstop → pageNum s cl 2040 8 = some ntaken →
      ((nstop + 2 ^ 64 - ntaken) % 2 ^ 64 = 128 → exec (.breakpointNotice cl) s = .next s) ∧
      ((nstop + 2 ^ 64 - ntaken) % 2 ^ 64 ≠ 128 → ∃ u, exec (.breakpointNotice cl) s = .next u ∧ (u.cluster cl).notices = rest ∧
        u.mem = (pagePut (pagePut s cl (2048 + 16 * (nstop % 128)) (toBytes 8 n.frame ++ toBytes 2 n.core ++ toBytes 2 n.slot ++
          toBytes 2 n.fib ++ [0, 0])) cl 2032 (toBytes 8 (nstop + 1))).mem)) ∧
    ((s.cluster cl).notices = [] → exec (.breakpointNotice cl) s = .next s) ∧
    (∀ v : BitVec 64, stoppedFibre s cl (v.toNat % 2 ^ 56) = none → exec (.dbgrsmWrite cl v) s = .next s) ∧
    (∀ (v : BitVec 64) q bytes, stoppedFibre s cl (v.toNat % 2 ^ 56) = some q →
      readVirt s q.k.ctx q.x.frame.toNat (256 + 8 * q.k.win) = .ok bytes → frameTile bytes = false → framePc bytes % 8 = 0 →
      ∃ u y, exec (.dbgrsmWrite cl v) s = .next u ∧ u.fibre q.c q.b q.f = some y ∧ y.status = .ready ∧
        y.pc = BitVec.ofNat 56 (framePc bytes) ∧ y.depth = q.x.depth - 1 ∧ u.mem = s.mem) ∧
    (pageNum s cl 0 8 = pageNum s cl 8 8 → exec (.debugRead cl) s = .next s ∧ exec (.debugWrite cl) s = .next s ∧
      exec (.debugResume cl) s = .next s ∧ exec (.debugBpset cl) s = .next s) ∧
    (∀ cmd, asked cmd → cmd = 0 ∨ 4 < cmd → answers (.debugRead cl) 1 s) ∧
    (asked 1 →
      let ok : Prop := arg 64 8 < 2 ^ 56 ∧ 1 ≤ arg 72 4 ∧ arg 72 4 ≤ 1024 ∧ zero 76 256
      (∀ l, ok → readVirt s ctx (arg 64 8) (arg 72 4) = .ok l → answers (.debugRead cl) 0 (pagePut s cl 256 l)) ∧
      (∀ f va, ok → readVirt s ctx (arg 64 8) (arg 72 4) = .fault f va →
        answers (.debugRead cl) 3 (pagePut s cl 256 (toBytes 8 va))) ∧
      (¬ ok → answers (.debugRead cl) 4 s)) ∧
    (asked 2 →
      let ok : Prop := arg 64 8 % 8 = 0 ∧ zero 76 80 ∧ zero 88 256
      (ok → stoppedFibre s cl (arg 64 8) = none → answers (.debugWrite cl) 2 s) ∧
      (∀ q, ok → stoppedFibre s cl (arg 64 8) = some q →
        arg 72 4 = 0 ∨ (256 ≤ arg 72 4 ∧ arg 72 4 % 8 = 0 ∧ (arg 72 4 - 256) / 8 < q.k.win) →
        (rangeFault s ctx 1 2 (arg 64 8 + arg 72 4) 8 = none →
          answers (.debugWrite cl) 0 (writeVirt s ctx (arg 64 8 + arg 72 4) (toBytes 8 (arg 80 8)))) ∧
        ((rangeFault s ctx 1 2 (arg 64 8 + arg 72 4) 8).isSome → answers (.debugWrite cl) 3 s)) ∧
      (∀ q, ok → stoppedFibre s cl (arg 64 8) = some q →
        ¬ (arg 72 4 = 0 ∨ (256 ≤ arg 72 4 ∧ arg 72 4 % 8 = 0 ∧ (arg 72 4 - 256) / 8 < q.k.win)) → answers (.debugWrite cl) 2 s) ∧
      (¬ ok → answers (.debugWrite cl) 4 s)) ∧
    (asked 3 →
      let ok : Prop := arg 64 8 % 8 = 0 ∧ zero 72 256
      (ok → stoppedFibre s cl (arg 64 8) = none → answers (.debugResume cl) 2 s) ∧
      (∀ q, ok → stoppedFibre s cl (arg 64 8) = some q → answers (.debugResume cl) 0 (q.returnFrom s)) ∧
      (¬ ok → answers (.debugResume cl) 4 s)) ∧
    (asked 4 →
      let e : Bpt := ⟨arg 68 4, arg 72 2, arg 74 2, arg 76 2⟩
      let ok : Prop := arg 64 1 ≤ 15 ∧ arg 65 1 ≤ 1 ∧ e.imm < 2 ^ 24 ∧ (e.core ≤ 1535 ∨ e.core = 0xFFFF) ∧
        (e.slot ≤ 1022 ∨ e.slot = 0xFFFF) ∧ (e.fib ≤ 1022 ∨ e.fib = 0xFFFF) ∧ zero 66 68 ∧ zero 78 256
      (ok → answers (.debugBpset cl) 0 (s.modCluster cl fun q => {
        q with bpts := (if arg 65 1 = 1 then q.bpts.set (arg 64 1) e else q.bpts.del (arg 64 1)) })) ∧
      (¬ ok → answers (.debugBpset cl) 4 s))

-- The hub, the host and the fleet

/-- R414, R415, R417 to R419, R443: memory keys are programmed and erased; measurement slots are extended and reported; a TDI
changes its state, and one that falls out of RUN has its context killed; a kill leaves nothing of the context on the part. The
hash and the signatures are the functions of log 10; the codes and answers of TDISP and what an error does are the model's choices
(log 56), as are KEYCMD while it is busy (log 57) and a kill that is one event (log 58). -/
def Obligations.Trust : Prop :=
  ∀ (s : State) (ctx sess slot : Nat) (wrapped : List Byte) (digest : BitVec 384) (nonce secret : BitVec 256) (msg : BitVec 8),
    let n := ctx % 64
    let ready : Prop := tdiLocked s n = false ∧ devBits s 0x7000 17 17 = 0
    let gone (u : State) (base : State) : Prop := hasN u.killing n = true ∧ u.keys = base.keys.del n ∧
      (∀ p ∈ u.shadow, p.2.1 ≠ n) ∧
      ((∀ p ∈ base.shadow, p.2.1 ≠ n) → (∀ sl, ∀ e ∈ (base.slice' sl).events, e.kind ≠ 1) → u.mem = base.mem) ∧
      hasN u.erased n = true ∧ (∀ t ∈ u.tlb, t.ctx ≠ n) ∧ (∀ w ∈ u.order, w.ctx ≠ n) ∧ (∀ p ∈ u.launches, p.2.ctx ≠ n) ∧
      (∀ i ∈ u.images, i.ctx ≠ n) ∧ (∀ j ∈ u.loads, j.ctx ≠ n) ∧ (∀ p ∈ u.spoiled, p.1 ≠ n) ∧
      (∀ c ∈ base.cores.map (·.1), u.saves.find? (64 * c + n) = none) ∧
      (∀ q, q < 128 → queueCtx u q = n → qctl u q 0 0 = 0 ∧ u.inboxes.get q [] = []) ∧
      (∀ sl k, sl < 256 → k < 8 → lhBits u sl k 0 6 1 = n → setOn u sl k = false) ∧
      (∀ c, (∀ p ∈ (u.core c).moorings, p.2.ctx ≠ n) ∧ (∀ x ∈ (u.core c).slotsUsed, x.1 ≠ n) ∧
        (∀ e ∈ (u.core c).inbox, e.ctx ≠ n) ∧ (∀ a ∈ (u.core c).pend, a.ctx ≠ n)) ∧
      ∀ c, (u.core c).ctx = n → (u.core c).blocks = [] ∧ (u.core c).cpe = [] ∧ (u.core c).prs = none ∧
        (u.core c).queues = [] ∧ (u.core c).qOwner = none
    let cmd (i : Instr) : Prop := (¬ ready → exec i s = .next s) ∧
      (ready → devBits s (offCX n 0) 0 0 = 1 → ∃ u, exec i s = .next u ∧ devBits u 0x7000 19 18 = 1 ∧ u.keys = s.keys ∧
        u.erased = s.erased ∧ u.mem = s.mem)
    let programs (i : Instr) (P : BitVec 512 → Prop) : Prop := ready → devBits s (offCX n 0) 0 0 = 0 → ∃ u key, P key ∧
      exec i s = .next u ∧ u.keys = s.keys.set n key ∧ hasN u.erased n = false ∧ devBits u 0x7000 17 17 = 1 ∧
      devBits u 0x7000 16 16 = 1 ∧ devBits u 0x7000 5 0 = n ∧ u.mem = s.mem
    cmd (.keyGenerate ctx) ∧ cmd (.keyInstall ctx sess wrapped) ∧ cmd (.keyErase ctx) ∧
    programs (.keyGenerate ctx) (fun _ => True) ∧
    (ready → ∃ u, exec (.keyGenerate ctx) s = .next u ∧ devBits u 0x7000 7 6 = 1 ∧ devBits u 0x7000 15 8 = devBits s 0x7000 15 8) ∧
    (ready → ∃ u, exec (.keyErase ctx) s = .next u ∧ devBits u 0x7000 7 6 = 3 ∧ devBits u 0x7000 15 8 = devBits s 0x7000 15 8) ∧
    (ready → ∃ u, exec (.keyInstall ctx sess wrapped) s = .next u ∧ devBits u 0x7000 7 6 = 2 ∧ devBits u 0x7000 15 8 = sess % 256) ∧
    (∀ sec key, s.sessions.find? (sess % 256) = some sec → Config.unwrapKey sec wrapped = some key →
      programs (.keyInstall ctx sess wrapped) (· = key)) ∧
    (ready → devBits s (offCX n 0) 0 0 = 0 → s.sessions.find? (sess % 256) = none →
      ∃ u, exec (.keyInstall ctx sess wrapped) s = .next u ∧ devBits u 0x7000 19 18 = 2 ∧ u.keys = s.keys ∧ u.mem = s.mem) ∧
    (ready → devBits s (offCX n 0) 0 0 = 0 → ∃ u, exec (.keyErase ctx) s = .next u ∧ u.keys = s.keys.del n ∧
      hasN u.erased n = true ∧ devBits u 0x7000 17 16 = 3 ∧ u.mem = s.mem) ∧
    (∃ u, exec .keycmdComplete s = .next u ∧ devBits u 0x7000 17 16 = 0 ∧ u.keys = s.keys ∧ u.mem = s.mem) ∧
    (slot < 16 ∨ 31 < slot → exec (.measurementExtend slot digest) s = .next s) ∧
    (16 ≤ slot → slot ≤ 31 → ∃ u, exec (.measurementExtend slot digest) s = .next u ∧
      slotVal u slot = sha384 (digestBytes (slotVal s slot) ++ digestBytes digest) ∧ (∀ i, i ≠ slot → slotVal u i = slotVal s i) ∧
      u.mem = s.mem) ∧
    (∃ u m, exec (.spdmMeasurements nonce) s = .next u ∧ u = { s with messages := s.messages ++ [.measurements m] } ∧
      m.nonce = nonce ∧ m.slots.length = 32 ∧ m.ed25519.length = 64 ∧ m.opaque_.id = 0x0A ∧ m.opaque_.len = 3309 ∧
      m.opaque_.data.length = 3309 ∧ ∀ i, i < 32 → m.slots.getD i 0 = slotVal s i) ∧
    exec (.spdmSession sess secret) s = .next { s with
      sessions := s.sessions.set (sess % 256) secret,
      messages := s.messages ++ [.certificate 0 (Config.certChain 0), .certificate 1 (Config.certChain 1)] } ∧
    (∃ u, exec (.tdispRequest ctx msg) s = .next u ∧ u = { s with tdi := u.tdi, messages := u.messages } ∧
      (∃ code, u.messages = s.messages ++ [.tdisp n code (u.tdi.get n 0)] ∧
        (msg = 0x83 → code = if s.tdi.get n 0 = 0 then 3 else 0x7F) ∧ (msg = 0x86 → code = if s.tdi.get n 0 = 1 then 6 else 0x7F) ∧
        (msg = 0x87 → code = 7) ∧ (msg = 0x85 → code = 5)) ∧ (∀ m, m ≠ n → u.tdi.get m 0 = s.tdi.get m 0) ∧
      u.tdi.get n 0 = if msg = 0x83 ∧ s.tdi.get n 0 = 0 then 1 else if msg = 0x86 ∧ s.tdi.get n 0 = 1 then 2
        else if msg = 0x87 then 0 else s.tdi.get n 0) ∧
    (s.tdi.get n 0 = 1 → exec (.tdiError ctx) s = .next { s with tdi := s.tdi.set n 3 }) ∧
    (s.tdi.get n 0 = 2 → ∃ u, exec (.tdiError ctx) s = .next u ∧ u.tdi.get n 0 = 3 ∧ gone u s) ∧
    (s.tdi.get n 0 ≠ 1 → s.tdi.get n 0 ≠ 2 → exec (.tdiError ctx) s = .next s) ∧
    (devBits s 0x9C00 9 9 = 1 → exec (.contextKill ctx) s = .next s) ∧
    (devBits s 0x9C00 9 9 = 0 → ∃ u, exec (.contextKill ctx) s = .next u ∧ devBits u 0x9C00 9 8 = 3 ∧ devBits u 0x9C00 5 0 = n ∧
      gone u s) ∧
    (∃ u, exec .contextKillComplete s = .next u ∧ devBits u 0x9C00 9 8 = 0 ∧ u.killing = [] ∧ u.cores = s.cores ∧ u.mem = s.mem)

/-- R104, R378, R379, R426, R428 to R430, R432, R436 to R439, R444, R445: the flash tick and its records, the time exchange,
throttling, peer links, traffic of the host and of peers, and gang slices. SUP between FLOOR and 48 is the choice of hub firmware (a
free value); that a THERMAL trip comes once until it is released is the model's choice (log 59), as are traffic held at the port where
it arrives, what a link sends again and a late slice (log 60), and a register's read at 2^52 on (log 106). -/
def Obligations.Fleet : Prop :=
  ∀ (s : State) (link n ctx pa : Nat) (master : BitVec 64) (temps : List (BitVec 8)) (power : BitVec 12) (st : BitVec 2)
    (lanes : BitVec 8) (write : Bool) (data : List Byte) (port : Option Nat),
    let temp (i : Nat) : Nat := (temps.getD i 0).toNat
    let off := 0xA000 + 8 * link
    let up (l : Nat) : Prop := l < 24 ∧ devBits s (0xA000 + 8 * l) 1 0 = 2
    let armed := devBits s 0xA200 8 8
    let gctx := devBits s 0xA200 5 0
    let tick : Prop := fleetCycle s % 2 ^ s.flashK = 0
    let ring := devBits s 0x8008 51 12 * 4096
    let slots := 2 ^ devBits s 0x8000 20 16
    let head := (devGet s 0x8010).toNat
    let errs := devBits s 0x9A00 51 12 * 4096
    let errSlots := 2 ^ devBits s 0x9A00 3 0
    (¬ tick → exec .flashTick s = .next s) ∧
    (tick → devBits s 0x8000 0 0 = 0 → ∃ u, exec .flashTick s = .next u ∧
      (∀ a, a < errs ∨ errs + 32 * errSlots ≤ a → memGet u.mem a = memGet s.mem a) ∧
      u.flashK = devBits s 0x8000 5 1 ∧ u.nextOfs = none ∧ devGet u 0x8010 = devGet s 0x8010 ∧
      ∀ o, s.nextOfs = some o → devBits s 0x8000 6 6 = 0 →
        (linkHealthy s = true → devGet u 0x8020 = o ∧ devBits u 0x8028 0 0 = 1) ∧
        (linkHealthy s = false → devGet u 0x8020 = devGet s 0x8020)) ∧
    (tick → devBits s 0x8000 0 0 = 1 → head + 1792 ≤ (devGet s 0x8018).toNat + slots → 1792 ≤ slots → head + 1792 < 2 ^ 64 →
      keyGone s hubKey = false → (∀ i, i < slots → backed (ring + 512 * i) = true ∧ backed (ring + 512 * i + 511) = true) →
      errs + 32 * errSlots ≤ ring ∨ ring + 512 * slots ≤ errs →
      ∃ u, exec .flashTick s = .next u ∧ (devGet u 0x8010).toNat = head + 1792 ∧
        ∀ c, c < 1536 → ∃ rec, physRead u hubKey (ring + 512 * ((head + c) % slots)) 512 = some rec ∧
          let a := ((settleAcct s c).core c).acct
          slice rec 0 8 = [1, if (s.core c).acct.deferred then 2 else 0] ++ toBytes 2 (devBits s 0x8000 15 8) ++ toBytes 2 c ++
            toBytes 1 (s.core c).ctx ++ toBytes 1 (a.bins.take 16).length ∧
          slice rec 8 32 = toBytes 8 a.seq ++ toBytes 8 a.fleet ++ toBytes 8 (s.cycle - a.start) ++ toBytes 8 a.ovf ∧
          (∀ i, i < 24 → slice rec (64 + 8 * i) 8 = toBytes 8 (a.counts.get i 0)) ∧
          (∀ i kind pc cause m, i < 16 → a.bins[i]? = some (kind, pc, cause, m) →
            slice rec (256 + 16 * i) 16 = toBytes 8 (pc + cause * 2 ^ 56 + kind * 2 ^ 61) ++ toBytes 8 m) ∧
          (u.core c).acct.start = s.cycle ∧ (u.core c).acct.fleet = fleetCycle s ∧ (u.core c).acct.seq = a.seq + 1 ∧
          (u.core c).acct.counts = [] ∧ (u.core c).acct.bins = []) ∧
    (devBits s 0x8000 7 7 = 0 ∨ devBits s 0x8000 6 6 = 1 → exec (.flashSyncExchange link master) s = .next s) ∧
    (devBits s 0x8000 7 7 = 1 → devBits s 0x8000 6 6 = 0 →
      (devBits s off 1 0 = 2 → ∃ u, exec (.flashSyncExchange link master) s = .next u ∧ u.mem = s.mem ∧
        u.nextOfs = some (master - BitVec.ofNat 64 s.cycle) ∧
        devBits u 0x8028 15 8 = min (BitVec.ofNat 64 (fleetCycle s) - master).toInt.natAbs 255) ∧
      (devBits s off 1 0 ≠ 2 → linkHealthy s = false → ∃ u, exec (.flashSyncExchange link master) s = .next u ∧
        devBits u 0x8028 0 0 = 0 ∧ u.nextOfs = s.nextOfs) ∧
      (devBits s off 1 0 ≠ 2 → linkHealthy s = true → exec (.flashSyncExchange link master) s = .next s)) ∧
    (n < 256 → ∃ u, exec (.throttleUpdate temps power) s = .next u ∧ devBits u (0x9000 + 8 * n) 23 16 = temp n ∧
      devBits u 0x9800 27 16 = power.toNat ∧
      (s.cycle = 0 ∨ s.cycle % 2 ^ 16 ≠ 0 → devBits u (0x9000 + 8 * n) 6 0 = devBits s (0x9000 + 8 * n) 6 0 ∧ u.mem = s.mem) ∧
      (0 < s.cycle → s.cycle % 2 ^ 16 = 0 →
        ((∃ i, i < 256 ∧ 110 ≤ temp i) → devBits s 0x9000 6 0 ≠ 64 → devBits u (0x9000 + 8 * n) 6 0 = 64) ∧
        ((∀ i, i < 256 → temp i < 110) → devBits s 0x9000 6 0 = 64 → (∃ i, i < 256 ∧ 95 < temp i) →
          devBits u (0x9000 + 8 * n) 6 0 = devBits s (0x9000 + 8 * n) 6 0) ∧
        ((∀ i, i < 256 → temp i < 110) → devBits s 0x9000 6 0 ≠ 64 ∨ (∀ i, i < 256 → temp i ≤ 95) →
          devBits s (0x9000 + 8 * n) 13 8 ≤ 48 → devBits s (0x9000 + 8 * n) 13 8 ≤ devBits u (0x9000 + 8 * n) 6 0 ∧
            devBits u (0x9000 + 8 * n) 6 0 ≤ 48))) ∧
    (link < 24 → ∃ u, exec (.peerLinkStateChange link st lanes) s = .next u ∧ devBits u off 1 0 = st.toNat ∧
      devBits u off 9 2 = lanes.toNat ∧
      (devBits s off 1 0 ≠ 2 ∨ st = 2 → u.mem = s.mem ∧ u.peers = s.peers ∧ devBits u off 47 16 = devBits s off 47 16) ∧
      (st ≠ 2 → (∀ l, l ≠ link → ¬ up l) → u.nextOfs = none ∧ devBits u 0x8028 0 0 = 0 ∧ devGet u 0x8020 = devGet s 0x8020) ∧
      (devBits s off 1 0 = 2 → st ≠ 2 →
        devBits u off 47 16 = min (devBits s off 47 16 + Config.retransmitted s.free) 0xFFFFFFFF ∧
        ((devGet s 0x9A08).toNat - (devGet s 0x9A10).toNat < errSlots → devGet u 0x9A08 = devGet s 0x9A08 + 1) ∧
        ((∀ l, l ≠ link → ¬ up l) → u.peers = s.peers) ∧
        ∀ l, l ≠ link → up l → (∀ m, m < l → m ≠ link → ¬ up m) →
          u.peers = s.peers.map fun p => if p.link = some link then { p with link := some l } else p)) ∧
    (let p : PeerHold := ⟨port, ctx, write, pa, data⟩
     let arrives : Instr := .peerAccessArrival port ctx write pa data
     let shut (q : PeerHold) : Prop := (q.link = none ∧ suppressed s hostIsland s.cycle = true) ∨ ∃ l, q.link = some l ∧
       (devBits s (0xA000 + 8 * l) 1 0 < 2 ∨ suppressed s (linkIsland l) s.cycle = true ∨
         ((devGet s 0xA218).toNat.testBit l = true ∧ runsGang s q.ctx = false))
     let behind : Prop := ∃ q ∈ s.peers, q.link = port ∧ q.ctx = ctx
     let there (q : PeerHold) : Prop := ∀ x ∈ touchedLines q.pa q.data.length, unbacked x = true ∨
       (sliceShut s (peerDie q.link) x = false ∧ lineReady (s.slice' (sliceOf (peerDie q.link) x)) (x / 128) = true)
     (behind ∨ shut p → exec arrives s = .next { s with peers := s.peers ++ [p] }) ∧
     (¬ behind → ¬ shut p → pa < 2 ^ 52 →
       (¬ there p → ∃ u, exec arrives s = .next u ∧ u.peers = s.peers ++ [p] ∧ u.messages = s.messages ∧ u.mem = s.mem) ∧
       (there p → write = true → ∃ u, exec arrives s = .next u ∧ u.peers = s.peers ∧ u.messages = s.messages ∧
         u.mem = (physWrite s ctx ctx pa data).mem) ∧
       (there p → write = false → ∃ u, exec arrives s = .next u ∧ u.peers = s.peers ∧
         u.messages = s.messages ++ [.readData port pa (physRead s ctx pa data.length)] ∧
         (badAt s pa data.length = false → u.mem = s.mem))) ∧
     (¬ behind → ¬ shut p → port = none → write = false → 2 ^ 52 ≤ pa → exec arrives s = .next
       { s with messages := s.messages ++ [.register (pa - 2 ^ 52) (readRegister s (pa - 2 ^ 52))] }) ∧
     ((∀ q ∈ s.peers, shut q) → exec .peerTrafficRelease s = .next s) ∧
     (∀ q, s.peers = [q] → ¬ shut q → q.pa < 2 ^ 52 → there q → q.write = true → ∃ u, exec .peerTrafficRelease s = .next u ∧
       u.peers = [] ∧ u.mem = (physWrite s q.ctx q.ctx q.pa q.data).mem)) ∧
    (armed = 1 → exec (.gangSliceArm ctx) s = .next s) ∧
    (armed = 0 → ∃ u, exec (.gangSliceArm ctx) s = .next u ∧ devBits u 0xA200 5 0 = ctx % 64 ∧ u.mem = s.mem ∧
      devBits u 0xA200 8 8 = devBits s 0x8028 0 0) ∧
    (gangReady s = false → exec .gangSliceStart s = .next s) ∧
    (gangReady s = true →
      (fleetCycle s ≤ (devGet s 0xA208).toNat → exec .gangSliceStart s = .next { s with slice := some gctx }) ∧
      ((devGet s 0xA208).toNat < fleetCycle s → ∃ u, exec .gangSliceStart s = .next u ∧ u.slice = some gctx ∧
        u.logIdx.get gctx 0 = s.logIdx.get gctx 0 + 1)) ∧
    (armed = 1 → (devGet s 0xA210).toNat ≤ fleetCycle s → ∃ u, exec .gangSliceEnd s = .next u ∧ u.slice = none ∧
      devBits u 0xA200 8 8 = 0 ∧ u.mem = s.mem ∧ ∀ c, c < 1536 → s.saves.find? (saveKey c gctx) = none →
        (u.core c).preempt.get gctx 0 = max 2 ((s.core c).preempt.get gctx 0)) ∧
    (armed = 0 ∨ fleetCycle s < (devGet s 0xA210).toNat → exec .gangSliceEnd s = .next s)

/-- R8, R75, R76, R313, R316, R318, R334, R389, R412, R414 to R416: a cold reset; a stage of boot; writes of device registers, and what
each reads afterwards; loads, seals and unloads of images. That a register is written by 64 bits at a multiple of 8 and that nothing
stands above 0x808_0410 are the model's choices (log 62), as are the places of the MSI-X enables (log 5), the stages of boot (log 55)
and a load that is one event a candidate (log 65). -/
def Obligations.BootAndLoad : Prop :=
  ∀ (s : State) (image sig1 sig2 file : List Byte) (off n ctx base id q : Nat) (v : BitVec 64) (j : LoadJob) (p : Placed) (i : Image),
    let next := devBits s 0x1000 3 0 + 1
    let boots : Prop := devBits s 0x1000 4 4 = 0 ∧ devBits s 0x1000 7 5 = 0 ∧ next ≠ 1 ∧ next ≤ 5
    let good : Prop := Config.verifyEd25519 (sha384 image) sig1 = true ∧ Config.verifyMlDsa (sha384 image) sig2 = true
    let todo : List Nat := match objectOf file with
      | some (_, imgs) => (candidates imgs).map (·.index)
      | none => []
    let writes (o : Nat) (mask : BitVec 64) : Prop := ∃ u, exec (.registerWrite o v) s = .next u ∧ readRegister u o = v &&& mask ∧
      u.mem = s.mem ∧ u.cores = s.cores
    let drops (o : Nat) : Prop := exec (.registerWrite o v) s = .next s
    let lo12 : BitVec 64 := 0x000FFFFFFFFFF000
    let va12 : BitVec 64 := 0x00FFFFFFFFFFF000
    let all : BitVec 64 := 0xFFFFFFFFFFFFFFFF
    let answered (t u : State) (r : InRec) (code at_ : Nat) : Prop := ∀ w1 w2 w3, let c := queueCtx s q
      let report := numAt r.bytes 24 8
      let done := numAt r.bytes 16 8
      translate t c 1 report = .ok w1 → let t1 := physWrite t c w1.key (w1.pa report) (toBytes 1 code)
      translate t1 c 1 (report + 4) = .ok w2 → let t2 := physWrite t1 c w2.key (w2.pa (report + 4)) (toBytes 4 at_)
      translate t2 c 1 done = .ok w3 → u = physWrite t2 c w3.key (w3.pa done) (toBytes 4 0)
    let job : LoadJob := { ctx := ctx % 64, base := base / 4096 * 4096, file := file, todo := todo }
    exec .coldReset s = .next { State.reset with agenda := s.agenda, cur := s.cur, free := s.free } ∧
    (devBits s 0x1000 4 4 = 1 ∨ devBits s 0x1000 7 5 ≠ 0 → exec (.bootStageVerify image sig1 sig2) s = .next s) ∧
    (boots → ∃ u, exec (.bootStageVerify image sig1 sig2) s = .next u ∧ devBits u 0x1000 3 0 = next ∧ u.mem = s.mem ∧
      (image = [] → devBits u 0x1000 7 5 = 2 ∧ u.measures = s.measures) ∧
      (image ≠ [] → ¬ good → devBits u 0x1000 7 5 = 1 ∧ u.measures = s.measures) ∧
      (image ≠ [] → good → devBits u 0x1000 7 5 = 0 ∧ devBits u 0x1000 4 4 = (if next = 5 then 1 else 0) ∧
        (next ≠ 3 → slotVal u next = sha384 (digestBytes (slotVal s next) ++ digestBytes (sha384 image))) ∧
        ∀ m, m ≠ next → slotVal u m = slotVal s m)) ∧
    (off % 8 ≠ 0 → drops off) ∧ (0x8080410 ≤ off → drops off) ∧ drops 0x1000 ∧ drops 0x8010 ∧ drops 0x8020 ∧ drops 0x8028 ∧ drops 0x9A08 ∧
    (off % 8 = 0 → ∃ u, exec (.registerWrite off v) s = .next u) ∧
    writes 0x50000 va12 ∧ writes 0x9A10 all ∧
    (devBits s 0x8000 0 0 = 0 → writes 0x8008 lo12 ∧ writes 0x8018 all) ∧
    (devBits s 0x8000 0 0 = 1 → drops 0x8008 ∧ drops 0x8018) ∧
    (gangArmed s = false → writes 0xA208 all ∧ writes 0xA210 all ∧ writes 0xA218 0xFFFFFF) ∧
    (gangArmed s = true → drops 0xA200 ∧ drops 0xA208 ∧ drops 0xA210 ∧ drops 0xA218) ∧
    (n < 8 → writes (offMQ n 0) 0xFFFFFFFFFFFFF ∧ writes (offMQ n 8) 0xFFFFFF ∧
      (devBits s (offDbg n 0) 0 0 = 0 → writes (offDbg n 0) 0xFF ∧ writes (offDbg n 8) lo12) ∧
      (devBits s (offDbg n 0) 0 0 = 1 → drops (offDbg n 8))) ∧
    (n < 64 → writes (offCX n 0x58) 0xFFFFFFFFFFFFFF ∧ (tdiLocked s n = false → writes (offCX n 0x38) lo12)) ∧
    (n < 64 → tdiLocked s n = false → contextHeld s n = false →
      writes (offCX n 0x08) 0xFFFFFFFFFFFFF8 ∧ writes (offCX n 0x10) va12 ∧ writes (offCX n 0x28) all ∧ writes (offCX n 0x40) lo12) ∧
    (n < 64 → tdiLocked s n = true ∨ contextHeld s n = true →
      drops (offCX n 0) ∧ drops (offCX n 0x10) ∧ drops (offCX n 0x20) ∧ drops (offCX n 0x28) ∧ drops (offCX n 0x40)) ∧
    (q < 128 → tdiLocked s (queueCtx s q) = false → qctl s q 0 0 = 0 → writes (offQ q 0) va12) ∧
    (q < 128 → tdiLocked s (queueCtx s q) = true ∨ qctl s q 0 0 = 1 → drops (offQ q 0)) ∧
    (∀ sl k, sl < 256 → k < 8 →
      (setOn s sl k = false → tdiLocked s (lhBits s sl k 0 6 1) = false →
        writes (offLH sl k 8) 0x3F1F ∧ writes (offLH sl k 0x10) lo12 ∧ writes (offLH sl k 0x18) lo12) ∧
      (setOn s sl k = true ∨ tdiLocked s (lhBits s sl k 0 6 1) = true →
        drops (offLH sl k 8) ∧ drops (offLH sl k 0x10) ∧ drops (offLH sl k 0x18))) ∧
    (∀ sl a, sl < 256 → a % 8 = 0 → a < 0x20000 → (∀ b, b < 8 → sramLocked s sl (a + b) = false) →
      writes (0x1000000 + 0x40000 * sl + 0x10000 + a) all) ∧
    (∀ sd w, sd < 12 → w < 16 →
      (devBits s (offFW sd w 8) 0 0 = 0 → writes (offFW sd w 0) lo12 ∧ writes (offFW sd w 0x10) 0xFFFFFFFFFFFFF) ∧
      (devBits s (offFW sd w 8) 0 0 = 1 → drops (offFW sd w 0) ∧ drops (offFW sd w 0x10))) ∧
    (∀ m, m < 130 → writes (0x8080000 + 8 * m) 1) ∧
    (n < 64 → tdiLocked s n = true ∨ contextHeld s n = true → exec (.registerWrite (offCX n 0x08) v) s = .next s ∧
      exec (.registerWrite (offCX n 0x18) v) s = .next s) ∧
    (n < 64 → tdiLocked s n = false → contextHeld s n = false →
      (∃ u, exec (.registerWrite (offCX n 0x08) v) s = .next u ∧ devBits u (offCX n 0x08) 55 3 = (v >>> 3).toNat % 2 ^ 53 ∧ u.mem = s.mem) ∧
      (∃ u, exec (.registerWrite (offCX n 0x18) v) s = .next u ∧ devBits u (offCX n 0x18) 10 0 = min (v.toNat % 2048) 1024 ∧
        u.mem = s.mem)) ∧
    (q < 128 → exec (.registerWrite (offQ q 0x18) v) s = .next s) ∧
    (s.loads ≠ [] → exec (.loadObject ctx base file) s = .next { s with loads := s.loads ++ [job] }) ∧
    (s.loads = [] → objectOf file = none → exec (.loadObject ctx base file) s =
      .next { s with reports := s.reports ++ [{ ctx := ctx % 64, result := .badObject }] }) ∧
    (∀ secs imgs k t x u, s.loads = [] → objectOf file = some (secs, imgs) → todo = k :: t → imgs[k]? = some x →
      versionRefusal x = none → (if x.portable = true then placePortable { s with loads := [job] } job.ctx job.base secs x
        else placeNative { s with loads := [job] } job.ctx job.base secs x) = .ok (u, p) →
      exec (.loadObject ctx base file) s = .next { u with loads := { job with todo := t, placed := some p } :: u.loads.drop 1 }) ∧
    (s.loads = [] → (∃ x, objectOf file = some x) → todo = [] → exec (.loadObject ctx base file) s =
      .next { s with reports := s.reports ++ [{ ctx := ctx % 64, result := .noImage }] }) ∧
    (s.loads = [] → exec .sealImage s = .next s) ∧
    (∀ u, s.loads = [j] → j.placed = some p → sealPlaced s j p = .ok u → exec .sealImage s = .next u ∧ u.loads = [] ∧
      ∃ x r, u.images = s.images ++ [x] ∧ u.reports = s.reports ++ [r] ∧ r.ctx = j.ctx ∧ r.result = .loaded) ∧
    (devBits s 0x1000 4 4 = 0 → exec .sealRequest s = .next s) ∧
    (∀ r, nextSealQueue s = some q → headRecord s q = some (false, some r) →
      poolOwner s (queueCtx s q) (numAt r.bytes 0 8) (numAt r.bytes 8 4) = none → ∃ u, exec .sealRequest s = .next u ∧
        devBits u (offQ q 0x18) 31 0 = (queueHead s q + 1) % 2 ^ 32 ∧ u.images = s.images) ∧
    (∀ r x t at_, nextSealQueue s = some q → headRecord s q = some (false, some r) →
      poolOwner s (queueCtx s q) (numAt r.bytes 0 8) (numAt r.bytes 8 4) = some i →
      sealReq (advanceQueue s q false) (queueCtx s q) r.bytes = some x → sealPool (advanceQueue s q false) i x = (t, 0, at_) →
      (∃ u, exec .sealRequest s = .next u ∧ answered t u r 0 0) ∧ at_ = 0 ∧
        devBits t (offQ q 0x18) 31 0 = (queueHead s q + 1) % 2 ^ 32 ∧
        ∃ y, t.images = s.images.map (fun z => if z.ctx = i.ctx ∧ z.id = i.id then y else z) ∧ y.id = i.id ∧ y.ctx = i.ctx ∧
          y.funcs = i.funcs ++ x.funcs ∧ y.nodes = i.nodes ++ x.nodes.map nodeRecord) ∧
    (∀ r x t code at_, nextSealQueue s = some q → headRecord s q = some (false, some r) →
      poolOwner s (queueCtx s q) (numAt r.bytes 0 8) (numAt r.bytes 8 4) = some i →
      sealReq (advanceQueue s q false) (queueCtx s q) r.bytes = some x → sealPool (advanceQueue s q false) i x = (t, code, at_) →
      code ≠ 0 → t.images = s.images ∧ ∃ u, exec .sealRequest s = .next u ∧ answered t u r code at_) ∧
    (nextSealQueue s = some q → headRecord s q = some (false, none) → ∃ u, exec .sealRequest s = .next u ∧
      devBits u (offQ q 0x20) 7 4 = 5 ∧ devBits u (offQ q 0x20) 0 0 = 1 ∧ u.mem = s.mem) ∧
    ((∀ x ∈ s.images, ¬(x.ctx = ctx ∧ x.id = id)) → exec (.imageUnload ctx id) s = .next s) ∧
    (List.find? (fun (x : Image) => decide (x.ctx = ctx) && decide (x.id = id)) s.images = some i →
      ∃ u, exec (.imageUnload ctx id) s = .next u ∧ u.images = s.images.filter (fun x => !(decide (x.ctx = ctx) && decide (x.id = id))))

-- A step, reset, the encodings, and the invariant

/-- R138, R142, R149, R274, R299, R349, R386: a step runs the instruction that the bytes at the program counter of the agent whose
turn it is hold (a fibre's, which counts where a gang of the cycle has room for it; a tile program's bundle from its loop buffer where
that holds it), or the event whose turn it is; a word that no well-formed instruction has is refused by name; with no turn left a new
cycle begins (its turns: log 1). That an error of a tile program's registers raises POISON_READ before the next bundle, once, is the
model's choice (log 28). -/
def Obligations.StepRunsDecoded : Prop :=
  ∀ (s : State) (rest : List Turn) (l : List Byte) (i : Instr),
    let at_ (a : Agent) : State := { s with agenda := rest, cur := a }
    let runs (t : Turn) (j : Instr) : Prop := s.agenda = t :: rest → step s = exec j { s with agenda := rest }
    let word64 := Decode.decodeFibre (BitVec.ofNat 64 (ofBytes l))
    let word32 := Decode.decodeStream (BitVec.ofNat 32 (ofBytes l))
    (∀ c b f k x, s.agenda = .issue (.fibre c b f) :: rest → s.block c b = some k → s.fibre c b f = some x →
      let pc := x.pc.toNat
      let t := at_ (.fibre c b f)
      let free : Prop := gangFree (s.core c) s.cycle pc = true ∧
        ¬(hasN (s.core c).last.reform pc = true ∧ (s.core c).last.cycle = s.cycle)
      (x.canIssue = false → step s = .next t) ∧
      (x.canIssue = true → duePending k x f = none →
        (tlbFind s k.ctx (pc / 4096)).isSome = true → readCode s k.ctx pc 8 = .ok l →
        (word64 = .ok i → i.wf = true → (∀ u, exec i t = .next u →
            (hasIssued c b f t u = false → step s = .next (holdReady c b f t u)) ∧
            (hasIssued c b f t u = true → free → step s = .next (joinGang u c b f pc)) ∧
            (hasIssued c b f t u = true → ¬ free → ∃ v y, step s = .next v ∧ v.fibre c b f = some y ∧ y.pc = x.pc ∧
              y.status = .ready ∧ v.mem = s.mem)) ∧
          (∀ e, free → exec i t = .fault e → step s = .fault e) ∧ ∀ e, free → exec i t = .refused e → step s = .refused e) ∧
        (word64 = .ok i → i.wf = false → free → step s = .refused .reservedEncoding) ∧
        (word64 = .error .opcode → free → step s = .refused .unassigned) ∧
        (word64 = .error .reserved → free → step s = .refused .reservedEncoding))) ∧
    (∀ c p, s.agenda = .issue (.producer c) :: rest → (s.core c).prs = some p → p.holdTill ≤ s.cycle →
      walkNeeded s (dieOf c) p.ctx (p.pc.toNat / 4096) p.walkFor = false → readCode s p.ctx p.pc.toNat 4 = .ok l →
      (word32 = .ok i → i.wf = true → step s = exec i (at_ (.producer c))) ∧
      (word32 = .ok i → i.wf = false → step s = .refused .reservedEncoding) ∧
      (word32 = .error .opcode → step s = .refused .unassigned) ∧
      (word32 = .error .reserved → step s = .refused .reservedEncoding)) ∧
    (∀ c q, let base := gatherDue (at_ (.tile c)) c
      s.agenda = .issue (.tile c) :: rest → tileCtx base c = some q → tileHeld q.q = false →
      let t := q.q.tsq
      let issues (w : BitVec 256) (u : State) : Prop :=
        (Decode.bundleNest w = false → Decode.bundleRep w = false → step s = exec (.bundleIssue w) u) ∧
        (Decode.bundleNest w = true → Decode.bundleRep w = false → step s = exec (.loopNestBundle w) u) ∧
        (Decode.bundleNest w = false → Decode.bundleRep w = true → step s = exec (.repeatPrefix w) u) ∧
        (Decode.bundleNest w = true → Decode.bundleRep w = true → step s = .refused .reservedEncoding)
      (t.bad = true → step s = .next (stopTile ((badUnit base q.k.ctx (islandOf c)).modCore c
        fun k => { k with tsq := { k.tsq with bad := false } }) c q.b {
          code := 0x03, word := wordAt base q.k.ctx q.pc, info0 := 0xFFFF,
          stop := some { trap := 0x03, spc := q.q.spc, progress := q.q.progress } })) ∧
      (t.bad = false → t.held ≠ [] → step s = exec (.bundleIssue 0) base) ∧
      (∀ w, t.bad = false → t.held = [] → t.holds q.pc = true → t.bodyWords.find? q.pc.toNat = some w → issues w base) ∧
      (t.bad = false → t.held = [] → heldBundle t = none → fetchStalls base c t = false →
        walkNeeded base (dieOf c) q.k.ctx (q.pc.toNat / 4096) (fetchWalk t) = false →
        readCode base q.k.ctx q.pc.toNat 32 = .ok l →
        let w := BitVec.ofNat 256 (ofBytes l)
        issues w (base.modCore c fun k => { k with tsq := keepBundle k.tsq w }))) ∧
    (∀ n r, s.agenda = .issue (.lantern n) :: rest → (s.slice' n).run = some r →
      step s = exec (.lanternHandlerInstruction (BitVec.ofNat 32 (ofBytes (sramBytes (s.slice' n) (r.base + r.pc.toNat) 4))))
        (at_ (.lantern n))) ∧
    (∀ a, s.agenda = .event a i :: rest → step s = exec i (at_ a)) ∧
    (s.agenda = [] → ∃ u, step s = .next u ∧ u = { s with cores := u.cores, cycle := s.cycle + 1, agenda := u.agenda } ∧
      ∀ c, u.core c = { s.core c with acct := (u.core c).acct, blocks := (u.core c).blocks } ∧
        ∀ b f x, s.fibre c b f = some x → ∃ n, u.fibre c b f = some { x with readyAt := n }) ∧
    (∀ q, firstServed s ((List.range 128).filter fun q => headReady s q || sealReady s q) = some q →
      (sealReady s q = true → runs .take .sealRequest) ∧ (sealReady s q = false → runs .take .dispatchTakeRecord)) ∧
    (firstServed s ((List.range 128).filter fun q => headReady s q || sealReady s q) = none → s.agenda = .take :: rest →
      step s = .next { s with agenda := rest }) ∧
    (s.agenda = .throttle :: rest → step s = .next (throttle { s with agenda := rest })) ∧
    (∀ c, s.agenda = .restore c :: rest → step s = .next (restoreDue { s with agenda := rest } c)) ∧
    (∀ c n p q r, runs (.landing c) (.latencyWriteLanding c) ∧ runs (.chain c) (.chstepStep c) ∧ runs (.repeated c) (.repeatIssue c) ∧
      runs (.nest c) (.loopNestIteration c) ∧ runs (.rowPop c) (.bloadqRowPop c) ∧ runs (.attached c) (.attachedOpStart c) ∧
      runs (.request c n) (.l2Request c n) ∧ runs (.perform c n) (.writePerformed c n) ∧ runs (.answer c n) (.loadDataReturn c n) ∧
      runs (.beat c n) (.netslotBeat c n) ∧ runs (.reply c n) (.netslotReply c n) ∧ runs (.message c n) (.lmsgArrival c n) ∧
      runs (.join c n) (.joinDecrement c n) ∧ runs .submit .launchInboxArrival ∧ runs (.lease c n) (.l1LeaseExpiry c n) ∧
      runs (.fill c n) (.l2FillArrival c n) ∧ runs (.window c n) (.mergeWindowClose c n) ∧ runs (.walk c n) (.pageWalk c n) ∧
      runs (.copyDone c) (.cpeCommandComplete c) ∧ runs (.copyFault c) (.cpeCommandFault c) ∧ runs (.publish c) (.publishPoint c) ∧
      runs (.promise c n) (.promiseExpiry c n) ∧ runs (.enter p q r) (.trapEntry p q r) ∧
      runs (.pending p q r) (.pendingTrapDelivery p q r) ∧ runs .flash .flashTick ∧ runs (.fiu c) (.fiuIssue c) ∧
      runs (.scout c) (.scoutHeaderRead c) ∧ runs (.streamStart c) (.streamStart c) ∧
      runs (.prefetched c n) (.lanternPrefetchComplete c n) ∧ runs (.send c) (.lanternSendDelivery c) ∧
      runs (.urgent p q r) (.fibreUrgent p q r) ∧ runs (.ctxFree p q r) (.fibreContextFree p q r) ∧
      runs (.blockEnd c n) (.blockEnd c n) ∧ runs (.lamp c) (.lampGrant c) ∧
      runs (.finish c) (.launchCompletion c) ∧ runs .successor .successorInboxCopy ∧ runs (.aging c) (.placementHeadAging c) ∧
      runs (.stagger c n) (.staggerExpiry c n) ∧ (chosenCore s n = some c → runs (.place n) (.blockPlacement n c)) ∧
      runs (.nodeSave c) (.nodeBoundarySave c) ∧ runs (.forcedSave c) (.forcedSaveComplete c) ∧
      runs .invalidated .tlbInvalidateComplete ∧ runs .killed .contextKillComplete ∧ runs .keyed .keycmdComplete ∧
      runs .sliceStart .gangSliceStart ∧ runs .sliceEnd .gangSliceEnd ∧ runs .peers .peerTrafficRelease ∧
      runs (.notice c) (.breakpointNotice c) ∧ runs .sealImage .sealImage ∧
      runs (.mooring c n) (.mooringTimerExpiry c n))

/-- R8, R14, R45, R76, R134, R218, R336, R353, R388, R389, R401, R415, R427, R438: what cold reset leaves: nothing resident, nothing
waiting, the counter at 0, memory in its canonical form, and the registers at the reset values of their tables. That memory
which nothing has written reads 0 is the model's choice (log 2); other values that the spec does not give are in log 5. -/
def Obligations.ResetState : Prop :=
  let r := State.reset
  MemOk r ∧ r.cycle = 0 ∧ r.agenda = [] ∧
  (∀ a, memGet r.mem a = 0) ∧
  (∀ c, (r.core c).blocks = [] ∧ (r.core c).prs = none ∧ (r.core c).lamp = none ∧ (r.core c).queues = [] ∧
    (r.core c).qOwner = none ∧ (r.core c).moorings = [] ∧ (r.core c).tsq.acctype = 0x11 ∧ (r.core c).tsq.planes = 8 ∧
    (r.core c).tsq.vbase = 0 ∧ (r.core c).tsq.vrot = 0) ∧
  (∀ i, i < 32 → slotVal r i = 0) ∧ r.launches = [] ∧ r.images = [] ∧ r.tlb = [] ∧ r.seals = [] ∧ r.keys = [] ∧ r.sessions = [] ∧
  devBits r 0x1000 4 4 = 0 ∧ devBits r 0x1000 7 5 = 0 ∧
  devBits r 0x8000 0 0 = 0 ∧ devBits r 0x8000 5 1 = 20 ∧ devBits r 0x8000 15 6 = 0 ∧ devBits r 0x8000 20 16 = 8 ∧
  devGet r 0x8020 = 0 ∧ devGet r 0x8028 = 0 ∧ devBits r 0x9800 15 0 = 3000 ∧ devBits r 0x7000 19 0 = 0 ∧
  (∀ q, q < 128 → devBits r (offQ q 0x08) 11 0 = 0 ∧ devBits r (offQ q 0x08) 15 12 = 4 ∧ devGet r (offQ q 0) = 0 ∧
    devGet r (offQ q 0x10) = 0 ∧ devGet r (offQ q 0x18) = 0 ∧ devGet r (offQ q 0x20) = 0) ∧
  (∀ n, n < 64 → devGet r (offCX n 0) = 0 ∧ devGet r (offCX n 0x08) = 0 ∧ devGet r (offCX n 0x10) = 0 ∧ devGet r (offCX n 0x18) = 0 ∧
    devBits r (offCX n 0x20) 3 0 = 4 ∧ devBits r (offCX n 0x20) 55 12 = 0 ∧ devGet r (offCX n 0x30) = 0 ∧ r.tdi.get n 0 = 0) ∧
  (∀ k, k < 12 → ∀ w, w < 16 → devBits r (offFW k w 8) 0 0 = 0 ∧ devBits r (offFW k w 8) 7 4 = 8 ∧ devBits r (offFW k w 8) 55 32 = 0) ∧
  (∀ n, n < 256 → ∀ k, k < 8 → devBits r (offLH n k 0) 0 0 = 0 ∧ devBits r (offLH n k 0) 11 8 = 0 ∧
    devBits r (offLH n k 0) 27 16 = 0x80)

/-- R136, R137, R140, R142, R143, R146, R147: words written out from the encoding tables decode to the instructions that they
stand for, and words with a reserved bit set or an unassigned opcode to none. -/
def Obligations.DecodeWords : Prop :=
  let h : FHdr := ⟨0, 0, 0, 0, 0⟩
  let p (gp : BitVec 4) : FHdr := ⟨gp, 0, 0, 0, 0⟩
  let g : SGuard := ⟨0, 0⟩
  Decode.decodeFibre 0x0403_200A_0B0C_0000 = .ok (.add ⟨3, 0, 2, 0, 0⟩ 10 11 12 0) ∧
  Decode.decodeFibre 0x1C21_0005_0404_0000 = .ok (.fmul (p 1) 5 4 4 0) ∧
  Decode.decodeFibre 0x5400_0000_0000_000F = .ok (.fence h 3 3) ∧
  Decode.decodeFibre 0x6402_0006_0405_0000 = .ok (.fmnx (p 2) 6 4 5) ∧
  Decode.decodeFibre 0x6410_0007_0600_0000 = .ok (.cvtf8 h 7 6) ∧
  Decode.decodeFibre 0x1420_0002_0405_0012 = .ok (.setp h 2 4 5 2 2) ∧
  Decode.decodeFibre 0x2C00_0005_0400_148D = .ok (.cvt h 5 4 0x14 0x11 1 1) ∧
  Decode.decodeFibre 0x3C40_0004_061A_0010 = .ok (.ldGB32 h 4 6 2 3 0x10) ∧
  Decode.decodeFibre 0x4020_0004_061B_0010 = .ok (.stGB32 h 4 6 3 3 0x10) ∧
  Decode.decodeFibre 0x0001_0000_0000_0000 = .ok (.nop (p 1)) ∧
  Decode.decodeFibre 0x0000_0000_0000_0001 = .error .reserved ∧
  Decode.decodeFibre 0xFC00_0000_0000_0000 = .error .opcode ∧
  Decode.decodeStream 0x4C80_0000 = .ok (.psym 2 0) ∧
  Decode.decodeX 0x14_0A01 = .ok (.xpose g 0x0A 0x14) ∧
  Decode.decodeX 0x04_4304 = .ok (.chstep g 3 1 1) ∧
  Decode.decodeC 0x000A_0000_8201 = .ok (.copy g 1 2 0 0 0 0 0 1 2 0) ∧
  Decode.decodeM 0x00A0_1004_0001 = .ok (.mma g 0 2 8 0 10 0 0 0)

/-- R136, R137, R140, R142, R143, R146, R147: every instruction comes back from its own word, with every operand at every value:
decoding the encoding of a fibre instruction, a stream word or a slot operation gives it, in the decoders and in the reader of the
opcode table; a word that decodes is the encoding of what it decodes to, so that no two words are read as one instruction. -/
def Obligations.EncodeRoundTrip : Prop :=
  (∀ i w, Decode.encodeFibre i = some w → Decode.decodeFibre w = .ok i) ∧
  (∀ i w, Decode.streamBits i = some w → Decode.decodeStream w = .ok i) ∧
  (∀ o, decodeS (Decode.sSlotBits o) = .ok o) ∧ (∀ o, decodeV (Decode.vSlotBits o) = .ok o) ∧
  (∀ o, decodeM (Decode.mSlotBits o) = .ok o) ∧ (∀ o, Decode.decodeC (Decode.cSlotBits o) = .ok o) ∧
  (∀ o, Decode.decodeX (Decode.xSlotBits o) = .ok o) ∧
  (∀ (i : Instr) n w, Decode.encode i = some (n, w) → n = 64 → i.toV = none → decodeTableWord n w = some i) ∧
  (∀ (i : Instr) n w, Decode.encode i = some (n, w) → n = 32 ∨ n = 24 → decodeTableWord n w = some i) ∧
  (∀ i w, Decode.decodeFibre w = .ok i → Decode.encodeFibre i = some w) ∧
  (∀ i w, Decode.decodeStream w = .ok i → Decode.streamBits i = some w) ∧
  (∀ o w, decodeS w = .ok o → Decode.sSlotBits o = w) ∧ (∀ o w, decodeV w = .ok o → Decode.vSlotBits o = w) ∧
  (∀ o w, decodeM w = .ok o → Decode.mSlotBits o = w) ∧ (∀ o w, Decode.decodeC w = .ok o → Decode.cSlotBits o = w) ∧
  (∀ o w, Decode.decodeX w = .ok o → Decode.xSlotBits o = w)

/-- R59 and the form of memory (log 2): every step of the machine, whichever instruction or event it runs, keeps memory in its
canonical form, so that equal memories are equal data. -/
def Obligations.StepKeepsMemoryCanonical : Prop :=
  ∀ s t : State, MemOk s → step s = .next t → MemOk t
end

