-- ==== Sys2Proof/Laws/Table.lean ====
section
/-!
SUPPORT. Sparse tables: what a lookup gives after a key has been set or removed.
-/
namespace Sys2Proof

/-- A lookup in the empty table. -/
@[simp] theorem FMap.find?_nil {α : Type} (n : Nat) : FMap.find? ([] : FMap α) n = none := rfl

/-- A lookup after a key has been set. -/
theorem FMap.find?_set {α : Type} (m : FMap α) (n j : Nat) (v : α) :
    (m.set n v).find? j = if n = j then some v else m.find? j := by
  induction m with
  | nil => simp [FMap.set, FMap.find?]
  | cons p t ih =>
    obtain ⟨k, w⟩ := p
    simp only [FMap.set]
    split
    · simp [FMap.find?]
    · split
      · subst_vars; simp only [FMap.find?]; split <;> rfl
      · simp only [FMap.find?, ih]
        split <;> split <;> first | rfl | (subst_vars; contradiction)

/-- A lookup of the key that was set. -/
@[simp] theorem FMap.find?_set_self {α : Type} (m : FMap α) (n : Nat) (v : α) : (m.set n v).find? n = some v := by
  simp [FMap.find?_set]

/-- A lookup of another key. -/
theorem FMap.find?_set_ne {α : Type} (m : FMap α) {n j : Nat} (v : α) (h : n ≠ j) : (m.set n v).find? j = m.find? j := by
  simp [FMap.find?_set, h]

/-- The value at a key after one has been set. -/
theorem FMap.get_set {α : Type} (m : FMap α) (n j : Nat) (v d : α) :
    (m.set n v).get j d = if n = j then v else m.get j d := by
  simp only [FMap.get, FMap.find?_set]
  split <;> rfl

/-- The value at the key that was set. -/
@[simp] theorem FMap.get_set_self {α : Type} (m : FMap α) (n : Nat) (v d : α) : (m.set n v).get n d = v := by
  simp [FMap.get_set]

/-- A lookup of another key than the one removed. -/
theorem FMap.find?_del_ne {α : Type} (m : FMap α) {n j : Nat} (h : n ≠ j) : (m.del n).find? j = m.find? j := by
  induction m with
  | nil => rfl
  | cons p t ih =>
    obtain ⟨k, w⟩ := p
    simp only [FMap.del]
    split
    · subst_vars; simp [FMap.find?, h]
    · simp only [FMap.find?, ih]

end Sys2Proof
end

