-- ==== Sys2Proof/Laws/Device.lean ====
section
/-!
SUPPORT. The device registers: what a register and its fields read after a register or a field has been written.
-/
namespace Sys2Proof.Machine

/-- The register that was written. -/
@[simp] theorem devGet_devSet (s : State) (o : Nat) (v : BitVec 64) : devGet (devSet s o v) o = v := by
  simp [devGet, devSet]

/-- Another register than the one written. -/
theorem devGet_devSet_ne (s : State) {o p : Nat} (v : BitVec 64) (h : o ≠ p) : devGet (devSet s o v) p = devGet s p := by
  simp [devGet, devSet, FMap.get_set, h]

/-- A number whose field from `lo` on of `w` is replaced by `v`. -/
theorem put_field (n lo w v : Nat) (hv : v < w) : (n - n / 2 ^ lo % w * 2 ^ lo + v * 2 ^ lo) =
    n % 2 ^ lo + 2 ^ lo * (v + w * (n / 2 ^ lo / w)) := by
  have h1 := Nat.div_add_mod n (2 ^ lo)
  have h2 := Nat.div_add_mod (n / 2 ^ lo) w
  have e : n = n % 2 ^ lo + 2 ^ lo * (n / 2 ^ lo % w + w * (n / 2 ^ lo / w)) := by
    rw [Nat.add_comm (n / 2 ^ lo % w), h2]; omega
  have : n / 2 ^ lo % w * 2 ^ lo ≤ n := by
    rw [Nat.mul_comm]
    exact Nat.le_trans (Nat.mul_le_mul_left _ (Nat.mod_le _ _)) (by omega)
  generalize n / 2 ^ lo % w = a at *
  generalize n / 2 ^ lo / w = b at *
  generalize n % 2 ^ lo = r at *
  rw [Nat.mul_add] at e ⊢
  rw [Nat.mul_comm a, Nat.mul_comm v]
  omega

/-- The bits of a register after a field of it has been written. -/
theorem devPut_bit (s : State) (o hi lo v i : Nat) (h : lo ≤ hi) (h' : hi < 64) (hi' : i < 64) :
    (devGet (devPut s o hi lo v) o).getLsbD i =
      if lo ≤ i ∧ i ≤ hi then v.testBit (i - lo) else (devGet s o).getLsbD i := by
  have hw : 0 < 2 ^ (hi + 1 - lo) := Nat.two_pow_pos _
  rw [devPut, devGet_devSet, Nat.shiftRight_eq_div_pow, put_field _ _ _ _ (Nat.mod_lt _ hw), BitVec.getLsbD_ofNat,
    Nat.add_comm, Nat.testBit_two_pow_mul_add _ (Nat.mod_lt _ (Nat.two_pow_pos _)), Nat.add_comm (v % _),
    Nat.testBit_two_pow_mul_add _ (Nat.mod_lt _ hw), BitVec.getLsbD]
  by_cases h1 : i < lo
  · simp [h1, hi', Nat.testBit_mod_two_pow, show ¬ lo ≤ i by omega]
  · by_cases h2 : i ≤ hi
    · simp [h1, hi', Nat.testBit_mod_two_pow, show i - lo < hi + 1 - lo by omega, show lo ≤ i by omega, h2]
    · simp only [h1, if_false, show ¬ (i - lo < hi + 1 - lo) by omega, h2, and_false, hi', decide_true, Bool.true_and]
      rw [Nat.div_div_eq_div_mul, ← Nat.pow_add, Nat.testBit_div_two_pow]
      congr 1; omega

/-- A field, bit by bit. -/
theorem devBits_testBit (s : State) (o hi lo i : Nat) :
    (devBits s o hi lo).testBit i = (decide (i < hi + 1 - lo) && (devGet s o).getLsbD (lo + i)) := by
  simp [devBits, bitsN, Nat.testBit_mod_two_pow, Nat.testBit_shiftRight, BitVec.getLsbD]

/-- The field that was written reads what was written. -/
theorem devBits_devPut (s : State) (o hi lo v : Nat) (h : lo ≤ hi) (h' : hi < 64) :
    devBits (devPut s o hi lo v) o hi lo = v % 2 ^ (hi + 1 - lo) := by
  apply Nat.eq_of_testBit_eq
  intro i
  rw [devBits_testBit, Nat.testBit_mod_two_pow]
  by_cases hi' : i < hi + 1 - lo
  · rw [devPut_bit _ _ _ _ _ _ h h' (by omega)]
    simp [show lo + i ≤ hi by omega]
  · simp [hi']

/-- A field apart from the one that was written keeps its value. -/
theorem devBits_devPut_apart (s : State) (o hi lo v hi2 lo2 : Nat) (h : lo ≤ hi) (h' : hi < 64) (h2 : hi2 < 64)
    (hd : hi2 < lo ∨ hi < lo2) : devBits (devPut s o hi lo v) o hi2 lo2 = devBits s o hi2 lo2 := by
  apply Nat.eq_of_testBit_eq
  intro i
  rw [devBits_testBit, devBits_testBit]
  by_cases hi' : i < hi2 + 1 - lo2
  · rw [devPut_bit _ _ _ _ _ _ h h' (by omega), if_neg (by omega)]
  · simp [hi']

/-- A register other than the one whose field was written keeps its value. -/
theorem devGet_devPut_ne (s : State) {o p : Nat} (hi lo v : Nat) (h : o ≠ p) : devGet (devPut s o hi lo v) p = devGet s p := by
  rw [devPut, devGet_devSet_ne _ _ h]

/-- A field of such a register. -/
theorem devBits_devPut_ne (s : State) {o p : Nat} (hi lo v hi2 lo2 : Nat) (h : o ≠ p) :
    devBits (devPut s o hi lo v) p hi2 lo2 = devBits s p hi2 lo2 := by
  rw [devBits, devGet_devPut_ne _ _ _ _ h, ← devBits]

end Sys2Proof.Machine
end

