-- ==== Sys2Proof/Laws/State.lean ====
section
/-!
SUPPORT. The updates of the state field by field: what each named operation changes and what it leaves.
-/
namespace Sys2Proof.Machine

-- setCore

@[simp] theorem State.setCore_agenda (s : State) (c : Nat) (k : Core) : (s.setCore c k).agenda = s.agenda := rfl
@[simp] theorem State.setCore_cur (s : State) (c : Nat) (k : Core) : (s.setCore c k).cur = s.cur := rfl
@[simp] theorem State.setCore_free (s : State) (c : Nat) (k : Core) : (s.setCore c k).free = s.free := rfl
@[simp] theorem State.setCore_cycle (s : State) (c : Nat) (k : Core) : (s.setCore c k).cycle = s.cycle := rfl
@[simp] theorem State.setCore_mem (s : State) (c : Nat) (k : Core) : (s.setCore c k).mem = s.mem := rfl
@[simp] theorem State.setCore_bad (s : State) (c : Nat) (k : Core) : (s.setCore c k).bad = s.bad := rfl
@[simp] theorem State.setCore_dev (s : State) (c : Nat) (k : Core) : (s.setCore c k).dev = s.dev := rfl
@[simp] theorem State.setCore_clusters (s : State) (c : Nat) (k : Core) : (s.setCore c k).clusters = s.clusters := rfl
@[simp] theorem State.setCore_slices (s : State) (c : Nat) (k : Core) : (s.setCore c k).slices = s.slices := rfl
@[simp] theorem State.setCore_measures (s : State) (c : Nat) (k : Core) : (s.setCore c k).measures = s.measures := rfl
@[simp] theorem State.setCore_keys (s : State) (c : Nat) (k : Core) : (s.setCore c k).keys = s.keys := rfl
@[simp] theorem State.setCore_erased (s : State) (c : Nat) (k : Core) : (s.setCore c k).erased = s.erased := rfl
@[simp] theorem State.setCore_vfVec (s : State) (c : Nat) (k : Core) : (s.setCore c k).vfVec = s.vfVec := rfl
@[simp] theorem State.setCore_tdi (s : State) (c : Nat) (k : Core) : (s.setCore c k).tdi = s.tdi := rfl
@[simp] theorem State.setCore_sessions (s : State) (c : Nat) (k : Core) : (s.setCore c k).sessions = s.sessions := rfl
@[simp] theorem State.setCore_messages (s : State) (c : Nat) (k : Core) : (s.setCore c k).messages = s.messages := rfl
@[simp] theorem State.setCore_irqs (s : State) (c : Nat) (k : Core) : (s.setCore c k).irqs = s.irqs := rfl
@[simp] theorem State.setCore_seals (s : State) (c : Nat) (k : Core) : (s.setCore c k).seals = s.seals := rfl
@[simp] theorem State.setCore_images (s : State) (c : Nat) (k : Core) : (s.setCore c k).images = s.images := rfl
@[simp] theorem State.setCore_overlays (s : State) (c : Nat) (k : Core) : (s.setCore c k).overlays = s.overlays := rfl
@[simp] theorem State.setCore_loads (s : State) (c : Nat) (k : Core) : (s.setCore c k).loads = s.loads := rfl
@[simp] theorem State.setCore_reports (s : State) (c : Nat) (k : Core) : (s.setCore c k).reports = s.reports := rfl
@[simp] theorem State.setCore_tlb (s : State) (c : Nat) (k : Core) : (s.setCore c k).tlb = s.tlb := rfl
@[simp] theorem State.setCore_walks (s : State) (c : Nat) (k : Core) : (s.setCore c k).walks = s.walks := rfl
@[simp] theorem State.setCore_inboxes (s : State) (c : Nat) (k : Core) : (s.setCore c k).inboxes = s.inboxes := rfl
@[simp] theorem State.setCore_fromBox (s : State) (c : Nat) (k : Core) : (s.setCore c k).fromBox = s.fromBox := rfl
@[simp] theorem State.setCore_lastQ (s : State) (c : Nat) (k : Core) : (s.setCore c k).lastQ = s.lastQ := rfl
@[simp] theorem State.setCore_launches (s : State) (c : Nat) (k : Core) : (s.setCore c k).launches = s.launches := rfl
@[simp] theorem State.setCore_succs (s : State) (c : Nat) (k : Core) : (s.setCore c k).succs = s.succs := rfl
@[simp] theorem State.setCore_order (s : State) (c : Nat) (k : Core) : (s.setCore c k).order = s.order := rfl
@[simp] theorem State.setCore_orderNum (s : State) (c : Nat) (k : Core) : (s.setCore c k).orderNum = s.orderNum := rfl
@[simp] theorem State.setCore_placeNum (s : State) (c : Nat) (k : Core) : (s.setCore c k).placeNum = s.placeNum := rfl
@[simp] theorem State.setCore_aging (s : State) (c : Nat) (k : Core) : (s.setCore c k).aging = s.aging := rfl
@[simp] theorem State.setCore_held (s : State) (c : Nat) (k : Core) : (s.setCore c k).held = s.held := rfl
@[simp] theorem State.setCore_logIdx (s : State) (c : Nat) (k : Core) : (s.setCore c k).logIdx = s.logIdx := rfl
@[simp] theorem State.setCore_errLost (s : State) (c : Nat) (k : Core) : (s.setCore c k).errLost = s.errLost := rfl
@[simp] theorem State.setCore_saves (s : State) (c : Nat) (k : Core) : (s.setCore c k).saves = s.saves := rfl
@[simp] theorem State.setCore_killing (s : State) (c : Nat) (k : Core) : (s.setCore c k).killing = s.killing := rfl
@[simp] theorem State.setCore_peers (s : State) (c : Nat) (k : Core) : (s.setCore c k).peers = s.peers := rfl
@[simp] theorem State.setCore_slice (s : State) (c : Nat) (k : Core) : (s.setCore c k).slice = s.slice := rfl
@[simp] theorem State.setCore_tivaBusy (s : State) (c : Nat) (k : Core) : (s.setCore c k).tivaBusy = s.tivaBusy := rfl
@[simp] theorem State.setCore_flashK (s : State) (c : Nat) (k : Core) : (s.setCore c k).flashK = s.flashK := rfl
@[simp] theorem State.setCore_nextOfs (s : State) (c : Nat) (k : Core) : (s.setCore c k).nextOfs = s.nextOfs := rfl
@[simp] theorem State.setCore_tags (s : State) (c : Nat) (k : Core) : (s.setCore c k).tags = s.tags := rfl
@[simp] theorem State.setCore_shadow (s : State) (c : Nat) (k : Core) : (s.setCore c k).shadow = s.shadow := rfl
@[simp] theorem State.setCore_spoiled (s : State) (c : Nat) (k : Core) : (s.setCore c k).spoiled = s.spoiled := rfl
@[simp] theorem State.setCore_pendNo (s : State) (c : Nat) (k : Core) : (s.setCore c k).pendNo = s.pendNo := rfl
@[simp] theorem State.setCore_stamp (s : State) (c : Nat) (k : Core) : (s.setCore c k).stamp = s.stamp := rfl

-- modCore

@[simp] theorem State.modCore_agenda (s : State) (c : Nat) (g : Core → Core) : (s.modCore c g).agenda = s.agenda := rfl
@[simp] theorem State.modCore_cur (s : State) (c : Nat) (g : Core → Core) : (s.modCore c g).cur = s.cur := rfl
@[simp] theorem State.modCore_free (s : State) (c : Nat) (g : Core → Core) : (s.modCore c g).free = s.free := rfl
@[simp] theorem State.modCore_cycle (s : State) (c : Nat) (g : Core → Core) : (s.modCore c g).cycle = s.cycle := rfl
@[simp] theorem State.modCore_mem (s : State) (c : Nat) (g : Core → Core) : (s.modCore c g).mem = s.mem := rfl
@[simp] theorem State.modCore_bad (s : State) (c : Nat) (g : Core → Core) : (s.modCore c g).bad = s.bad := rfl
@[simp] theorem State.modCore_dev (s : State) (c : Nat) (g : Core → Core) : (s.modCore c g).dev = s.dev := rfl
@[simp] theorem State.modCore_clusters (s : State) (c : Nat) (g : Core → Core) : (s.modCore c g).clusters = s.clusters := rfl
@[simp] theorem State.modCore_slices (s : State) (c : Nat) (g : Core → Core) : (s.modCore c g).slices = s.slices := rfl
@[simp] theorem State.modCore_measures (s : State) (c : Nat) (g : Core → Core) : (s.modCore c g).measures = s.measures := rfl
@[simp] theorem State.modCore_keys (s : State) (c : Nat) (g : Core → Core) : (s.modCore c g).keys = s.keys := rfl
@[simp] theorem State.modCore_erased (s : State) (c : Nat) (g : Core → Core) : (s.modCore c g).erased = s.erased := rfl
@[simp] theorem State.modCore_vfVec (s : State) (c : Nat) (g : Core → Core) : (s.modCore c g).vfVec = s.vfVec := rfl
@[simp] theorem State.modCore_tdi (s : State) (c : Nat) (g : Core → Core) : (s.modCore c g).tdi = s.tdi := rfl
@[simp] theorem State.modCore_sessions (s : State) (c : Nat) (g : Core → Core) : (s.modCore c g).sessions = s.sessions := rfl
@[simp] theorem State.modCore_messages (s : State) (c : Nat) (g : Core → Core) : (s.modCore c g).messages = s.messages := rfl
@[simp] theorem State.modCore_irqs (s : State) (c : Nat) (g : Core → Core) : (s.modCore c g).irqs = s.irqs := rfl
@[simp] theorem State.modCore_seals (s : State) (c : Nat) (g : Core → Core) : (s.modCore c g).seals = s.seals := rfl
@[simp] theorem State.modCore_images (s : State) (c : Nat) (g : Core → Core) : (s.modCore c g).images = s.images := rfl
@[simp] theorem State.modCore_overlays (s : State) (c : Nat) (g : Core → Core) : (s.modCore c g).overlays = s.overlays := rfl
@[simp] theorem State.modCore_loads (s : State) (c : Nat) (g : Core → Core) : (s.modCore c g).loads = s.loads := rfl
@[simp] theorem State.modCore_reports (s : State) (c : Nat) (g : Core → Core) : (s.modCore c g).reports = s.reports := rfl
@[simp] theorem State.modCore_tlb (s : State) (c : Nat) (g : Core → Core) : (s.modCore c g).tlb = s.tlb := rfl
@[simp] theorem State.modCore_walks (s : State) (c : Nat) (g : Core → Core) : (s.modCore c g).walks = s.walks := rfl
@[simp] theorem State.modCore_inboxes (s : State) (c : Nat) (g : Core → Core) : (s.modCore c g).inboxes = s.inboxes := rfl
@[simp] theorem State.modCore_fromBox (s : State) (c : Nat) (g : Core → Core) : (s.modCore c g).fromBox = s.fromBox := rfl
@[simp] theorem State.modCore_lastQ (s : State) (c : Nat) (g : Core → Core) : (s.modCore c g).lastQ = s.lastQ := rfl
@[simp] theorem State.modCore_launches (s : State) (c : Nat) (g : Core → Core) : (s.modCore c g).launches = s.launches := rfl
@[simp] theorem State.modCore_succs (s : State) (c : Nat) (g : Core → Core) : (s.modCore c g).succs = s.succs := rfl
@[simp] theorem State.modCore_order (s : State) (c : Nat) (g : Core → Core) : (s.modCore c g).order = s.order := rfl
@[simp] theorem State.modCore_orderNum (s : State) (c : Nat) (g : Core → Core) : (s.modCore c g).orderNum = s.orderNum := rfl
@[simp] theorem State.modCore_placeNum (s : State) (c : Nat) (g : Core → Core) : (s.modCore c g).placeNum = s.placeNum := rfl
@[simp] theorem State.modCore_aging (s : State) (c : Nat) (g : Core → Core) : (s.modCore c g).aging = s.aging := rfl
@[simp] theorem State.modCore_held (s : State) (c : Nat) (g : Core → Core) : (s.modCore c g).held = s.held := rfl
@[simp] theorem State.modCore_logIdx (s : State) (c : Nat) (g : Core → Core) : (s.modCore c g).logIdx = s.logIdx := rfl
@[simp] theorem State.modCore_errLost (s : State) (c : Nat) (g : Core → Core) : (s.modCore c g).errLost = s.errLost := rfl
@[simp] theorem State.modCore_saves (s : State) (c : Nat) (g : Core → Core) : (s.modCore c g).saves = s.saves := rfl
@[simp] theorem State.modCore_killing (s : State) (c : Nat) (g : Core → Core) : (s.modCore c g).killing = s.killing := rfl
@[simp] theorem State.modCore_peers (s : State) (c : Nat) (g : Core → Core) : (s.modCore c g).peers = s.peers := rfl
@[simp] theorem State.modCore_slice (s : State) (c : Nat) (g : Core → Core) : (s.modCore c g).slice = s.slice := rfl
@[simp] theorem State.modCore_tivaBusy (s : State) (c : Nat) (g : Core → Core) : (s.modCore c g).tivaBusy = s.tivaBusy := rfl
@[simp] theorem State.modCore_flashK (s : State) (c : Nat) (g : Core → Core) : (s.modCore c g).flashK = s.flashK := rfl
@[simp] theorem State.modCore_nextOfs (s : State) (c : Nat) (g : Core → Core) : (s.modCore c g).nextOfs = s.nextOfs := rfl
@[simp] theorem State.modCore_tags (s : State) (c : Nat) (g : Core → Core) : (s.modCore c g).tags = s.tags := rfl
@[simp] theorem State.modCore_shadow (s : State) (c : Nat) (g : Core → Core) : (s.modCore c g).shadow = s.shadow := rfl
@[simp] theorem State.modCore_spoiled (s : State) (c : Nat) (g : Core → Core) : (s.modCore c g).spoiled = s.spoiled := rfl
@[simp] theorem State.modCore_pendNo (s : State) (c : Nat) (g : Core → Core) : (s.modCore c g).pendNo = s.pendNo := rfl
@[simp] theorem State.modCore_stamp (s : State) (c : Nat) (g : Core → Core) : (s.modCore c g).stamp = s.stamp := rfl

-- setBlock

@[simp] theorem State.setBlock_agenda (s : State) (c b : Nat) (x : Block) : (s.setBlock c b x).agenda = s.agenda := rfl
@[simp] theorem State.setBlock_cur (s : State) (c b : Nat) (x : Block) : (s.setBlock c b x).cur = s.cur := rfl
@[simp] theorem State.setBlock_free (s : State) (c b : Nat) (x : Block) : (s.setBlock c b x).free = s.free := rfl
@[simp] theorem State.setBlock_cycle (s : State) (c b : Nat) (x : Block) : (s.setBlock c b x).cycle = s.cycle := rfl
@[simp] theorem State.setBlock_mem (s : State) (c b : Nat) (x : Block) : (s.setBlock c b x).mem = s.mem := rfl
@[simp] theorem State.setBlock_bad (s : State) (c b : Nat) (x : Block) : (s.setBlock c b x).bad = s.bad := rfl
@[simp] theorem State.setBlock_dev (s : State) (c b : Nat) (x : Block) : (s.setBlock c b x).dev = s.dev := rfl
@[simp] theorem State.setBlock_clusters (s : State) (c b : Nat) (x : Block) : (s.setBlock c b x).clusters = s.clusters := rfl
@[simp] theorem State.setBlock_slices (s : State) (c b : Nat) (x : Block) : (s.setBlock c b x).slices = s.slices := rfl
@[simp] theorem State.setBlock_measures (s : State) (c b : Nat) (x : Block) : (s.setBlock c b x).measures = s.measures := rfl
@[simp] theorem State.setBlock_keys (s : State) (c b : Nat) (x : Block) : (s.setBlock c b x).keys = s.keys := rfl
@[simp] theorem State.setBlock_erased (s : State) (c b : Nat) (x : Block) : (s.setBlock c b x).erased = s.erased := rfl
@[simp] theorem State.setBlock_vfVec (s : State) (c b : Nat) (x : Block) : (s.setBlock c b x).vfVec = s.vfVec := rfl
@[simp] theorem State.setBlock_tdi (s : State) (c b : Nat) (x : Block) : (s.setBlock c b x).tdi = s.tdi := rfl
@[simp] theorem State.setBlock_sessions (s : State) (c b : Nat) (x : Block) : (s.setBlock c b x).sessions = s.sessions := rfl
@[simp] theorem State.setBlock_messages (s : State) (c b : Nat) (x : Block) : (s.setBlock c b x).messages = s.messages := rfl
@[simp] theorem State.setBlock_irqs (s : State) (c b : Nat) (x : Block) : (s.setBlock c b x).irqs = s.irqs := rfl
@[simp] theorem State.setBlock_seals (s : State) (c b : Nat) (x : Block) : (s.setBlock c b x).seals = s.seals := rfl
@[simp] theorem State.setBlock_images (s : State) (c b : Nat) (x : Block) : (s.setBlock c b x).images = s.images := rfl
@[simp] theorem State.setBlock_overlays (s : State) (c b : Nat) (x : Block) : (s.setBlock c b x).overlays = s.overlays := rfl
@[simp] theorem State.setBlock_loads (s : State) (c b : Nat) (x : Block) : (s.setBlock c b x).loads = s.loads := rfl
@[simp] theorem State.setBlock_reports (s : State) (c b : Nat) (x : Block) : (s.setBlock c b x).reports = s.reports := rfl
@[simp] theorem State.setBlock_tlb (s : State) (c b : Nat) (x : Block) : (s.setBlock c b x).tlb = s.tlb := rfl
@[simp] theorem State.setBlock_walks (s : State) (c b : Nat) (x : Block) : (s.setBlock c b x).walks = s.walks := rfl
@[simp] theorem State.setBlock_inboxes (s : State) (c b : Nat) (x : Block) : (s.setBlock c b x).inboxes = s.inboxes := rfl
@[simp] theorem State.setBlock_fromBox (s : State) (c b : Nat) (x : Block) : (s.setBlock c b x).fromBox = s.fromBox := rfl
@[simp] theorem State.setBlock_lastQ (s : State) (c b : Nat) (x : Block) : (s.setBlock c b x).lastQ = s.lastQ := rfl
@[simp] theorem State.setBlock_launches (s : State) (c b : Nat) (x : Block) : (s.setBlock c b x).launches = s.launches := rfl
@[simp] theorem State.setBlock_succs (s : State) (c b : Nat) (x : Block) : (s.setBlock c b x).succs = s.succs := rfl
@[simp] theorem State.setBlock_order (s : State) (c b : Nat) (x : Block) : (s.setBlock c b x).order = s.order := rfl
@[simp] theorem State.setBlock_orderNum (s : State) (c b : Nat) (x : Block) : (s.setBlock c b x).orderNum = s.orderNum := rfl
@[simp] theorem State.setBlock_placeNum (s : State) (c b : Nat) (x : Block) : (s.setBlock c b x).placeNum = s.placeNum := rfl
@[simp] theorem State.setBlock_aging (s : State) (c b : Nat) (x : Block) : (s.setBlock c b x).aging = s.aging := rfl
@[simp] theorem State.setBlock_held (s : State) (c b : Nat) (x : Block) : (s.setBlock c b x).held = s.held := rfl
@[simp] theorem State.setBlock_logIdx (s : State) (c b : Nat) (x : Block) : (s.setBlock c b x).logIdx = s.logIdx := rfl
@[simp] theorem State.setBlock_errLost (s : State) (c b : Nat) (x : Block) : (s.setBlock c b x).errLost = s.errLost := rfl
@[simp] theorem State.setBlock_saves (s : State) (c b : Nat) (x : Block) : (s.setBlock c b x).saves = s.saves := rfl
@[simp] theorem State.setBlock_killing (s : State) (c b : Nat) (x : Block) : (s.setBlock c b x).killing = s.killing := rfl
@[simp] theorem State.setBlock_peers (s : State) (c b : Nat) (x : Block) : (s.setBlock c b x).peers = s.peers := rfl
@[simp] theorem State.setBlock_slice (s : State) (c b : Nat) (x : Block) : (s.setBlock c b x).slice = s.slice := rfl
@[simp] theorem State.setBlock_tivaBusy (s : State) (c b : Nat) (x : Block) : (s.setBlock c b x).tivaBusy = s.tivaBusy := rfl
@[simp] theorem State.setBlock_flashK (s : State) (c b : Nat) (x : Block) : (s.setBlock c b x).flashK = s.flashK := rfl
@[simp] theorem State.setBlock_nextOfs (s : State) (c b : Nat) (x : Block) : (s.setBlock c b x).nextOfs = s.nextOfs := rfl
@[simp] theorem State.setBlock_tags (s : State) (c b : Nat) (x : Block) : (s.setBlock c b x).tags = s.tags := rfl
@[simp] theorem State.setBlock_shadow (s : State) (c b : Nat) (x : Block) : (s.setBlock c b x).shadow = s.shadow := rfl
@[simp] theorem State.setBlock_spoiled (s : State) (c b : Nat) (x : Block) : (s.setBlock c b x).spoiled = s.spoiled := rfl
@[simp] theorem State.setBlock_pendNo (s : State) (c b : Nat) (x : Block) : (s.setBlock c b x).pendNo = s.pendNo := rfl
@[simp] theorem State.setBlock_stamp (s : State) (c b : Nat) (x : Block) : (s.setBlock c b x).stamp = s.stamp := rfl

-- modCluster

@[simp] theorem State.modCluster_agenda (s : State) (c : Nat) (g : Cluster → Cluster) : (s.modCluster c g).agenda = s.agenda := rfl
@[simp] theorem State.modCluster_cur (s : State) (c : Nat) (g : Cluster → Cluster) : (s.modCluster c g).cur = s.cur := rfl
@[simp] theorem State.modCluster_free (s : State) (c : Nat) (g : Cluster → Cluster) : (s.modCluster c g).free = s.free := rfl
@[simp] theorem State.modCluster_cycle (s : State) (c : Nat) (g : Cluster → Cluster) : (s.modCluster c g).cycle = s.cycle := rfl
@[simp] theorem State.modCluster_mem (s : State) (c : Nat) (g : Cluster → Cluster) : (s.modCluster c g).mem = s.mem := rfl
@[simp] theorem State.modCluster_bad (s : State) (c : Nat) (g : Cluster → Cluster) : (s.modCluster c g).bad = s.bad := rfl
@[simp] theorem State.modCluster_dev (s : State) (c : Nat) (g : Cluster → Cluster) : (s.modCluster c g).dev = s.dev := rfl
@[simp] theorem State.modCluster_cores (s : State) (c : Nat) (g : Cluster → Cluster) : (s.modCluster c g).cores = s.cores := rfl
@[simp] theorem State.modCluster_slices (s : State) (c : Nat) (g : Cluster → Cluster) : (s.modCluster c g).slices = s.slices := rfl
@[simp] theorem State.modCluster_measures (s : State) (c : Nat) (g : Cluster → Cluster) : (s.modCluster c g).measures = s.measures := rfl
@[simp] theorem State.modCluster_keys (s : State) (c : Nat) (g : Cluster → Cluster) : (s.modCluster c g).keys = s.keys := rfl
@[simp] theorem State.modCluster_erased (s : State) (c : Nat) (g : Cluster → Cluster) : (s.modCluster c g).erased = s.erased := rfl
@[simp] theorem State.modCluster_vfVec (s : State) (c : Nat) (g : Cluster → Cluster) : (s.modCluster c g).vfVec = s.vfVec := rfl
@[simp] theorem State.modCluster_tdi (s : State) (c : Nat) (g : Cluster → Cluster) : (s.modCluster c g).tdi = s.tdi := rfl
@[simp] theorem State.modCluster_sessions (s : State) (c : Nat) (g : Cluster → Cluster) : (s.modCluster c g).sessions = s.sessions := rfl
@[simp] theorem State.modCluster_messages (s : State) (c : Nat) (g : Cluster → Cluster) : (s.modCluster c g).messages = s.messages := rfl
@[simp] theorem State.modCluster_irqs (s : State) (c : Nat) (g : Cluster → Cluster) : (s.modCluster c g).irqs = s.irqs := rfl
@[simp] theorem State.modCluster_seals (s : State) (c : Nat) (g : Cluster → Cluster) : (s.modCluster c g).seals = s.seals := rfl
@[simp] theorem State.modCluster_images (s : State) (c : Nat) (g : Cluster → Cluster) : (s.modCluster c g).images = s.images := rfl
@[simp] theorem State.modCluster_overlays (s : State) (c : Nat) (g : Cluster → Cluster) : (s.modCluster c g).overlays = s.overlays := rfl
@[simp] theorem State.modCluster_loads (s : State) (c : Nat) (g : Cluster → Cluster) : (s.modCluster c g).loads = s.loads := rfl
@[simp] theorem State.modCluster_reports (s : State) (c : Nat) (g : Cluster → Cluster) : (s.modCluster c g).reports = s.reports := rfl
@[simp] theorem State.modCluster_tlb (s : State) (c : Nat) (g : Cluster → Cluster) : (s.modCluster c g).tlb = s.tlb := rfl
@[simp] theorem State.modCluster_walks (s : State) (c : Nat) (g : Cluster → Cluster) : (s.modCluster c g).walks = s.walks := rfl
@[simp] theorem State.modCluster_inboxes (s : State) (c : Nat) (g : Cluster → Cluster) : (s.modCluster c g).inboxes = s.inboxes := rfl
@[simp] theorem State.modCluster_fromBox (s : State) (c : Nat) (g : Cluster → Cluster) : (s.modCluster c g).fromBox = s.fromBox := rfl
@[simp] theorem State.modCluster_lastQ (s : State) (c : Nat) (g : Cluster → Cluster) : (s.modCluster c g).lastQ = s.lastQ := rfl
@[simp] theorem State.modCluster_launches (s : State) (c : Nat) (g : Cluster → Cluster) : (s.modCluster c g).launches = s.launches := rfl
@[simp] theorem State.modCluster_succs (s : State) (c : Nat) (g : Cluster → Cluster) : (s.modCluster c g).succs = s.succs := rfl
@[simp] theorem State.modCluster_order (s : State) (c : Nat) (g : Cluster → Cluster) : (s.modCluster c g).order = s.order := rfl
@[simp] theorem State.modCluster_orderNum (s : State) (c : Nat) (g : Cluster → Cluster) : (s.modCluster c g).orderNum = s.orderNum := rfl
@[simp] theorem State.modCluster_placeNum (s : State) (c : Nat) (g : Cluster → Cluster) : (s.modCluster c g).placeNum = s.placeNum := rfl
@[simp] theorem State.modCluster_aging (s : State) (c : Nat) (g : Cluster → Cluster) : (s.modCluster c g).aging = s.aging := rfl
@[simp] theorem State.modCluster_held (s : State) (c : Nat) (g : Cluster → Cluster) : (s.modCluster c g).held = s.held := rfl
@[simp] theorem State.modCluster_logIdx (s : State) (c : Nat) (g : Cluster → Cluster) : (s.modCluster c g).logIdx = s.logIdx := rfl
@[simp] theorem State.modCluster_errLost (s : State) (c : Nat) (g : Cluster → Cluster) : (s.modCluster c g).errLost = s.errLost := rfl
@[simp] theorem State.modCluster_saves (s : State) (c : Nat) (g : Cluster → Cluster) : (s.modCluster c g).saves = s.saves := rfl
@[simp] theorem State.modCluster_killing (s : State) (c : Nat) (g : Cluster → Cluster) : (s.modCluster c g).killing = s.killing := rfl
@[simp] theorem State.modCluster_peers (s : State) (c : Nat) (g : Cluster → Cluster) : (s.modCluster c g).peers = s.peers := rfl
@[simp] theorem State.modCluster_slice (s : State) (c : Nat) (g : Cluster → Cluster) : (s.modCluster c g).slice = s.slice := rfl
@[simp] theorem State.modCluster_tivaBusy (s : State) (c : Nat) (g : Cluster → Cluster) : (s.modCluster c g).tivaBusy = s.tivaBusy := rfl
@[simp] theorem State.modCluster_flashK (s : State) (c : Nat) (g : Cluster → Cluster) : (s.modCluster c g).flashK = s.flashK := rfl
@[simp] theorem State.modCluster_nextOfs (s : State) (c : Nat) (g : Cluster → Cluster) : (s.modCluster c g).nextOfs = s.nextOfs := rfl
@[simp] theorem State.modCluster_tags (s : State) (c : Nat) (g : Cluster → Cluster) : (s.modCluster c g).tags = s.tags := rfl
@[simp] theorem State.modCluster_shadow (s : State) (c : Nat) (g : Cluster → Cluster) : (s.modCluster c g).shadow = s.shadow := rfl
@[simp] theorem State.modCluster_spoiled (s : State) (c : Nat) (g : Cluster → Cluster) : (s.modCluster c g).spoiled = s.spoiled := rfl
@[simp] theorem State.modCluster_pendNo (s : State) (c : Nat) (g : Cluster → Cluster) : (s.modCluster c g).pendNo = s.pendNo := rfl
@[simp] theorem State.modCluster_stamp (s : State) (c : Nat) (g : Cluster → Cluster) : (s.modCluster c g).stamp = s.stamp := rfl

-- modSlice

@[simp] theorem State.modSlice_agenda (s : State) (n : Nat) (g : Slice → Slice) : (s.modSlice n g).agenda = s.agenda := rfl
@[simp] theorem State.modSlice_cur (s : State) (n : Nat) (g : Slice → Slice) : (s.modSlice n g).cur = s.cur := rfl
@[simp] theorem State.modSlice_free (s : State) (n : Nat) (g : Slice → Slice) : (s.modSlice n g).free = s.free := rfl
@[simp] theorem State.modSlice_cycle (s : State) (n : Nat) (g : Slice → Slice) : (s.modSlice n g).cycle = s.cycle := rfl
@[simp] theorem State.modSlice_mem (s : State) (n : Nat) (g : Slice → Slice) : (s.modSlice n g).mem = s.mem := rfl
@[simp] theorem State.modSlice_bad (s : State) (n : Nat) (g : Slice → Slice) : (s.modSlice n g).bad = s.bad := rfl
@[simp] theorem State.modSlice_dev (s : State) (n : Nat) (g : Slice → Slice) : (s.modSlice n g).dev = s.dev := rfl
@[simp] theorem State.modSlice_cores (s : State) (n : Nat) (g : Slice → Slice) : (s.modSlice n g).cores = s.cores := rfl
@[simp] theorem State.modSlice_clusters (s : State) (n : Nat) (g : Slice → Slice) : (s.modSlice n g).clusters = s.clusters := rfl
@[simp] theorem State.modSlice_measures (s : State) (n : Nat) (g : Slice → Slice) : (s.modSlice n g).measures = s.measures := rfl
@[simp] theorem State.modSlice_keys (s : State) (n : Nat) (g : Slice → Slice) : (s.modSlice n g).keys = s.keys := rfl
@[simp] theorem State.modSlice_erased (s : State) (n : Nat) (g : Slice → Slice) : (s.modSlice n g).erased = s.erased := rfl
@[simp] theorem State.modSlice_vfVec (s : State) (n : Nat) (g : Slice → Slice) : (s.modSlice n g).vfVec = s.vfVec := rfl
@[simp] theorem State.modSlice_tdi (s : State) (n : Nat) (g : Slice → Slice) : (s.modSlice n g).tdi = s.tdi := rfl
@[simp] theorem State.modSlice_sessions (s : State) (n : Nat) (g : Slice → Slice) : (s.modSlice n g).sessions = s.sessions := rfl
@[simp] theorem State.modSlice_messages (s : State) (n : Nat) (g : Slice → Slice) : (s.modSlice n g).messages = s.messages := rfl
@[simp] theorem State.modSlice_irqs (s : State) (n : Nat) (g : Slice → Slice) : (s.modSlice n g).irqs = s.irqs := rfl
@[simp] theorem State.modSlice_seals (s : State) (n : Nat) (g : Slice → Slice) : (s.modSlice n g).seals = s.seals := rfl
@[simp] theorem State.modSlice_images (s : State) (n : Nat) (g : Slice → Slice) : (s.modSlice n g).images = s.images := rfl
@[simp] theorem State.modSlice_overlays (s : State) (n : Nat) (g : Slice → Slice) : (s.modSlice n g).overlays = s.overlays := rfl
@[simp] theorem State.modSlice_loads (s : State) (n : Nat) (g : Slice → Slice) : (s.modSlice n g).loads = s.loads := rfl
@[simp] theorem State.modSlice_reports (s : State) (n : Nat) (g : Slice → Slice) : (s.modSlice n g).reports = s.reports := rfl
@[simp] theorem State.modSlice_tlb (s : State) (n : Nat) (g : Slice → Slice) : (s.modSlice n g).tlb = s.tlb := rfl
@[simp] theorem State.modSlice_walks (s : State) (n : Nat) (g : Slice → Slice) : (s.modSlice n g).walks = s.walks := rfl
@[simp] theorem State.modSlice_inboxes (s : State) (n : Nat) (g : Slice → Slice) : (s.modSlice n g).inboxes = s.inboxes := rfl
@[simp] theorem State.modSlice_fromBox (s : State) (n : Nat) (g : Slice → Slice) : (s.modSlice n g).fromBox = s.fromBox := rfl
@[simp] theorem State.modSlice_lastQ (s : State) (n : Nat) (g : Slice → Slice) : (s.modSlice n g).lastQ = s.lastQ := rfl
@[simp] theorem State.modSlice_launches (s : State) (n : Nat) (g : Slice → Slice) : (s.modSlice n g).launches = s.launches := rfl
@[simp] theorem State.modSlice_succs (s : State) (n : Nat) (g : Slice → Slice) : (s.modSlice n g).succs = s.succs := rfl
@[simp] theorem State.modSlice_order (s : State) (n : Nat) (g : Slice → Slice) : (s.modSlice n g).order = s.order := rfl
@[simp] theorem State.modSlice_orderNum (s : State) (n : Nat) (g : Slice → Slice) : (s.modSlice n g).orderNum = s.orderNum := rfl
@[simp] theorem State.modSlice_placeNum (s : State) (n : Nat) (g : Slice → Slice) : (s.modSlice n g).placeNum = s.placeNum := rfl
@[simp] theorem State.modSlice_aging (s : State) (n : Nat) (g : Slice → Slice) : (s.modSlice n g).aging = s.aging := rfl
@[simp] theorem State.modSlice_held (s : State) (n : Nat) (g : Slice → Slice) : (s.modSlice n g).held = s.held := rfl
@[simp] theorem State.modSlice_logIdx (s : State) (n : Nat) (g : Slice → Slice) : (s.modSlice n g).logIdx = s.logIdx := rfl
@[simp] theorem State.modSlice_errLost (s : State) (n : Nat) (g : Slice → Slice) : (s.modSlice n g).errLost = s.errLost := rfl
@[simp] theorem State.modSlice_saves (s : State) (n : Nat) (g : Slice → Slice) : (s.modSlice n g).saves = s.saves := rfl
@[simp] theorem State.modSlice_killing (s : State) (n : Nat) (g : Slice → Slice) : (s.modSlice n g).killing = s.killing := rfl
@[simp] theorem State.modSlice_peers (s : State) (n : Nat) (g : Slice → Slice) : (s.modSlice n g).peers = s.peers := rfl
@[simp] theorem State.modSlice_slice (s : State) (n : Nat) (g : Slice → Slice) : (s.modSlice n g).slice = s.slice := rfl
@[simp] theorem State.modSlice_tivaBusy (s : State) (n : Nat) (g : Slice → Slice) : (s.modSlice n g).tivaBusy = s.tivaBusy := rfl
@[simp] theorem State.modSlice_flashK (s : State) (n : Nat) (g : Slice → Slice) : (s.modSlice n g).flashK = s.flashK := rfl
@[simp] theorem State.modSlice_nextOfs (s : State) (n : Nat) (g : Slice → Slice) : (s.modSlice n g).nextOfs = s.nextOfs := rfl
@[simp] theorem State.modSlice_tags (s : State) (n : Nat) (g : Slice → Slice) : (s.modSlice n g).tags = s.tags := rfl
@[simp] theorem State.modSlice_shadow (s : State) (n : Nat) (g : Slice → Slice) : (s.modSlice n g).shadow = s.shadow := rfl
@[simp] theorem State.modSlice_spoiled (s : State) (n : Nat) (g : Slice → Slice) : (s.modSlice n g).spoiled = s.spoiled := rfl
@[simp] theorem State.modSlice_pendNo (s : State) (n : Nat) (g : Slice → Slice) : (s.modSlice n g).pendNo = s.pendNo := rfl
@[simp] theorem State.modSlice_stamp (s : State) (n : Nat) (g : Slice → Slice) : (s.modSlice n g).stamp = s.stamp := rfl

-- draw

@[simp] theorem State.draw_agenda (s : State) : s.draw.agenda = s.agenda := rfl
@[simp] theorem State.draw_cur (s : State) : s.draw.cur = s.cur := rfl
@[simp] theorem State.draw_cycle (s : State) : s.draw.cycle = s.cycle := rfl
@[simp] theorem State.draw_mem (s : State) : s.draw.mem = s.mem := rfl
@[simp] theorem State.draw_tags (s : State) : s.draw.tags = s.tags := rfl
@[simp] theorem State.draw_shadow (s : State) : s.draw.shadow = s.shadow := rfl
@[simp] theorem State.draw_spoiled (s : State) : s.draw.spoiled = s.spoiled := rfl
@[simp] theorem State.draw_pendNo (s : State) : s.draw.pendNo = s.pendNo := rfl
@[simp] theorem State.draw_stamp (s : State) : s.draw.stamp = s.stamp := rfl
@[simp] theorem State.draw_bad (s : State) : s.draw.bad = s.bad := rfl
@[simp] theorem State.draw_dev (s : State) : s.draw.dev = s.dev := rfl
@[simp] theorem State.draw_cores (s : State) : s.draw.cores = s.cores := rfl
@[simp] theorem State.draw_clusters (s : State) : s.draw.clusters = s.clusters := rfl
@[simp] theorem State.draw_slices (s : State) : s.draw.slices = s.slices := rfl
@[simp] theorem State.draw_measures (s : State) : s.draw.measures = s.measures := rfl
@[simp] theorem State.draw_keys (s : State) : s.draw.keys = s.keys := rfl
@[simp] theorem State.draw_erased (s : State) : s.draw.erased = s.erased := rfl
@[simp] theorem State.draw_vfVec (s : State) : s.draw.vfVec = s.vfVec := rfl
@[simp] theorem State.draw_tdi (s : State) : s.draw.tdi = s.tdi := rfl
@[simp] theorem State.draw_sessions (s : State) : s.draw.sessions = s.sessions := rfl
@[simp] theorem State.draw_messages (s : State) : s.draw.messages = s.messages := rfl
@[simp] theorem State.draw_irqs (s : State) : s.draw.irqs = s.irqs := rfl
@[simp] theorem State.draw_seals (s : State) : s.draw.seals = s.seals := rfl
@[simp] theorem State.draw_images (s : State) : s.draw.images = s.images := rfl
@[simp] theorem State.draw_overlays (s : State) : s.draw.overlays = s.overlays := rfl
@[simp] theorem State.draw_loads (s : State) : s.draw.loads = s.loads := rfl
@[simp] theorem State.draw_reports (s : State) : s.draw.reports = s.reports := rfl
@[simp] theorem State.draw_tlb (s : State) : s.draw.tlb = s.tlb := rfl
@[simp] theorem State.draw_walks (s : State) : s.draw.walks = s.walks := rfl
@[simp] theorem State.draw_inboxes (s : State) : s.draw.inboxes = s.inboxes := rfl
@[simp] theorem State.draw_fromBox (s : State) : s.draw.fromBox = s.fromBox := rfl
@[simp] theorem State.draw_lastQ (s : State) : s.draw.lastQ = s.lastQ := rfl
@[simp] theorem State.draw_launches (s : State) : s.draw.launches = s.launches := rfl
@[simp] theorem State.draw_succs (s : State) : s.draw.succs = s.succs := rfl
@[simp] theorem State.draw_order (s : State) : s.draw.order = s.order := rfl
@[simp] theorem State.draw_orderNum (s : State) : s.draw.orderNum = s.orderNum := rfl
@[simp] theorem State.draw_placeNum (s : State) : s.draw.placeNum = s.placeNum := rfl
@[simp] theorem State.draw_aging (s : State) : s.draw.aging = s.aging := rfl
@[simp] theorem State.draw_held (s : State) : s.draw.held = s.held := rfl
@[simp] theorem State.draw_logIdx (s : State) : s.draw.logIdx = s.logIdx := rfl
@[simp] theorem State.draw_errLost (s : State) : s.draw.errLost = s.errLost := rfl
@[simp] theorem State.draw_saves (s : State) : s.draw.saves = s.saves := rfl
@[simp] theorem State.draw_killing (s : State) : s.draw.killing = s.killing := rfl
@[simp] theorem State.draw_peers (s : State) : s.draw.peers = s.peers := rfl
@[simp] theorem State.draw_slice (s : State) : s.draw.slice = s.slice := rfl
@[simp] theorem State.draw_tivaBusy (s : State) : s.draw.tivaBusy = s.tivaBusy := rfl
@[simp] theorem State.draw_flashK (s : State) : s.draw.flashK = s.flashK := rfl
@[simp] theorem State.draw_nextOfs (s : State) : s.draw.nextOfs = s.nextOfs := rfl

-- later

@[simp] theorem State.later_cur (s : State) (t : Turn) : (s.later t).cur = s.cur := rfl
@[simp] theorem State.later_free (s : State) (t : Turn) : (s.later t).free = s.free := rfl
@[simp] theorem State.later_cycle (s : State) (t : Turn) : (s.later t).cycle = s.cycle := rfl
@[simp] theorem State.later_mem (s : State) (t : Turn) : (s.later t).mem = s.mem := rfl
@[simp] theorem State.later_bad (s : State) (t : Turn) : (s.later t).bad = s.bad := rfl
@[simp] theorem State.later_dev (s : State) (t : Turn) : (s.later t).dev = s.dev := rfl
@[simp] theorem State.later_cores (s : State) (t : Turn) : (s.later t).cores = s.cores := rfl
@[simp] theorem State.later_clusters (s : State) (t : Turn) : (s.later t).clusters = s.clusters := rfl
@[simp] theorem State.later_slices (s : State) (t : Turn) : (s.later t).slices = s.slices := rfl
@[simp] theorem State.later_measures (s : State) (t : Turn) : (s.later t).measures = s.measures := rfl
@[simp] theorem State.later_keys (s : State) (t : Turn) : (s.later t).keys = s.keys := rfl
@[simp] theorem State.later_erased (s : State) (t : Turn) : (s.later t).erased = s.erased := rfl
@[simp] theorem State.later_vfVec (s : State) (t : Turn) : (s.later t).vfVec = s.vfVec := rfl
@[simp] theorem State.later_tdi (s : State) (t : Turn) : (s.later t).tdi = s.tdi := rfl
@[simp] theorem State.later_sessions (s : State) (t : Turn) : (s.later t).sessions = s.sessions := rfl
@[simp] theorem State.later_messages (s : State) (t : Turn) : (s.later t).messages = s.messages := rfl
@[simp] theorem State.later_irqs (s : State) (t : Turn) : (s.later t).irqs = s.irqs := rfl
@[simp] theorem State.later_seals (s : State) (t : Turn) : (s.later t).seals = s.seals := rfl
@[simp] theorem State.later_images (s : State) (t : Turn) : (s.later t).images = s.images := rfl
@[simp] theorem State.later_overlays (s : State) (t : Turn) : (s.later t).overlays = s.overlays := rfl
@[simp] theorem State.later_loads (s : State) (t : Turn) : (s.later t).loads = s.loads := rfl
@[simp] theorem State.later_reports (s : State) (t : Turn) : (s.later t).reports = s.reports := rfl
@[simp] theorem State.later_tlb (s : State) (t : Turn) : (s.later t).tlb = s.tlb := rfl
@[simp] theorem State.later_walks (s : State) (t : Turn) : (s.later t).walks = s.walks := rfl
@[simp] theorem State.later_inboxes (s : State) (t : Turn) : (s.later t).inboxes = s.inboxes := rfl
@[simp] theorem State.later_fromBox (s : State) (t : Turn) : (s.later t).fromBox = s.fromBox := rfl
@[simp] theorem State.later_lastQ (s : State) (t : Turn) : (s.later t).lastQ = s.lastQ := rfl
@[simp] theorem State.later_launches (s : State) (t : Turn) : (s.later t).launches = s.launches := rfl
@[simp] theorem State.later_succs (s : State) (t : Turn) : (s.later t).succs = s.succs := rfl
@[simp] theorem State.later_order (s : State) (t : Turn) : (s.later t).order = s.order := rfl
@[simp] theorem State.later_orderNum (s : State) (t : Turn) : (s.later t).orderNum = s.orderNum := rfl
@[simp] theorem State.later_placeNum (s : State) (t : Turn) : (s.later t).placeNum = s.placeNum := rfl
@[simp] theorem State.later_aging (s : State) (t : Turn) : (s.later t).aging = s.aging := rfl
@[simp] theorem State.later_held (s : State) (t : Turn) : (s.later t).held = s.held := rfl
@[simp] theorem State.later_logIdx (s : State) (t : Turn) : (s.later t).logIdx = s.logIdx := rfl
@[simp] theorem State.later_errLost (s : State) (t : Turn) : (s.later t).errLost = s.errLost := rfl
@[simp] theorem State.later_saves (s : State) (t : Turn) : (s.later t).saves = s.saves := rfl
@[simp] theorem State.later_killing (s : State) (t : Turn) : (s.later t).killing = s.killing := rfl
@[simp] theorem State.later_peers (s : State) (t : Turn) : (s.later t).peers = s.peers := rfl
@[simp] theorem State.later_slice (s : State) (t : Turn) : (s.later t).slice = s.slice := rfl
@[simp] theorem State.later_tivaBusy (s : State) (t : Turn) : (s.later t).tivaBusy = s.tivaBusy := rfl
@[simp] theorem State.later_flashK (s : State) (t : Turn) : (s.later t).flashK = s.flashK := rfl
@[simp] theorem State.later_nextOfs (s : State) (t : Turn) : (s.later t).nextOfs = s.nextOfs := rfl
@[simp] theorem State.later_tags (s : State) (t : Turn) : (s.later t).tags = s.tags := rfl
@[simp] theorem State.later_shadow (s : State) (t : Turn) : (s.later t).shadow = s.shadow := rfl
@[simp] theorem State.later_spoiled (s : State) (t : Turn) : (s.later t).spoiled = s.spoiled := rfl
@[simp] theorem State.later_pendNo (s : State) (t : Turn) : (s.later t).pendNo = s.pendNo := rfl
@[simp] theorem State.later_stamp (s : State) (t : Turn) : (s.later t).stamp = s.stamp := rfl

-- modBlock

@[simp] theorem State.modBlock_agenda (s : State) (c b : Nat) (g : Block → Block) : (s.modBlock c b g).agenda = s.agenda := by unfold State.modBlock; split <;> rfl
@[simp] theorem State.modBlock_cur (s : State) (c b : Nat) (g : Block → Block) : (s.modBlock c b g).cur = s.cur := by unfold State.modBlock; split <;> rfl
@[simp] theorem State.modBlock_free (s : State) (c b : Nat) (g : Block → Block) : (s.modBlock c b g).free = s.free := by unfold State.modBlock; split <;> rfl
@[simp] theorem State.modBlock_cycle (s : State) (c b : Nat) (g : Block → Block) : (s.modBlock c b g).cycle = s.cycle := by unfold State.modBlock; split <;> rfl
@[simp] theorem State.modBlock_mem (s : State) (c b : Nat) (g : Block → Block) : (s.modBlock c b g).mem = s.mem := by unfold State.modBlock; split <;> rfl
@[simp] theorem State.modBlock_bad (s : State) (c b : Nat) (g : Block → Block) : (s.modBlock c b g).bad = s.bad := by unfold State.modBlock; split <;> rfl
@[simp] theorem State.modBlock_dev (s : State) (c b : Nat) (g : Block → Block) : (s.modBlock c b g).dev = s.dev := by unfold State.modBlock; split <;> rfl
@[simp] theorem State.modBlock_clusters (s : State) (c b : Nat) (g : Block → Block) : (s.modBlock c b g).clusters = s.clusters := by unfold State.modBlock; split <;> rfl
@[simp] theorem State.modBlock_slices (s : State) (c b : Nat) (g : Block → Block) : (s.modBlock c b g).slices = s.slices := by unfold State.modBlock; split <;> rfl
@[simp] theorem State.modBlock_measures (s : State) (c b : Nat) (g : Block → Block) : (s.modBlock c b g).measures = s.measures := by unfold State.modBlock; split <;> rfl
@[simp] theorem State.modBlock_keys (s : State) (c b : Nat) (g : Block → Block) : (s.modBlock c b g).keys = s.keys := by unfold State.modBlock; split <;> rfl
@[simp] theorem State.modBlock_erased (s : State) (c b : Nat) (g : Block → Block) : (s.modBlock c b g).erased = s.erased := by unfold State.modBlock; split <;> rfl
@[simp] theorem State.modBlock_vfVec (s : State) (c b : Nat) (g : Block → Block) : (s.modBlock c b g).vfVec = s.vfVec := by unfold State.modBlock; split <;> rfl
@[simp] theorem State.modBlock_tdi (s : State) (c b : Nat) (g : Block → Block) : (s.modBlock c b g).tdi = s.tdi := by unfold State.modBlock; split <;> rfl
@[simp] theorem State.modBlock_sessions (s : State) (c b : Nat) (g : Block → Block) : (s.modBlock c b g).sessions = s.sessions := by unfold State.modBlock; split <;> rfl
@[simp] theorem State.modBlock_messages (s : State) (c b : Nat) (g : Block → Block) : (s.modBlock c b g).messages = s.messages := by unfold State.modBlock; split <;> rfl
@[simp] theorem State.modBlock_irqs (s : State) (c b : Nat) (g : Block → Block) : (s.modBlock c b g).irqs = s.irqs := by unfold State.modBlock; split <;> rfl
@[simp] theorem State.modBlock_seals (s : State) (c b : Nat) (g : Block → Block) : (s.modBlock c b g).seals = s.seals := by unfold State.modBlock; split <;> rfl
@[simp] theorem State.modBlock_images (s : State) (c b : Nat) (g : Block → Block) : (s.modBlock c b g).images = s.images := by unfold State.modBlock; split <;> rfl
@[simp] theorem State.modBlock_overlays (s : State) (c b : Nat) (g : Block → Block) : (s.modBlock c b g).overlays = s.overlays := by unfold State.modBlock; split <;> rfl
@[simp] theorem State.modBlock_loads (s : State) (c b : Nat) (g : Block → Block) : (s.modBlock c b g).loads = s.loads := by unfold State.modBlock; split <;> rfl
@[simp] theorem State.modBlock_reports (s : State) (c b : Nat) (g : Block → Block) : (s.modBlock c b g).reports = s.reports := by unfold State.modBlock; split <;> rfl
@[simp] theorem State.modBlock_tlb (s : State) (c b : Nat) (g : Block → Block) : (s.modBlock c b g).tlb = s.tlb := by unfold State.modBlock; split <;> rfl
@[simp] theorem State.modBlock_walks (s : State) (c b : Nat) (g : Block → Block) : (s.modBlock c b g).walks = s.walks := by unfold State.modBlock; split <;> rfl
@[simp] theorem State.modBlock_inboxes (s : State) (c b : Nat) (g : Block → Block) : (s.modBlock c b g).inboxes = s.inboxes := by unfold State.modBlock; split <;> rfl
@[simp] theorem State.modBlock_fromBox (s : State) (c b : Nat) (g : Block → Block) : (s.modBlock c b g).fromBox = s.fromBox := by unfold State.modBlock; split <;> rfl
@[simp] theorem State.modBlock_lastQ (s : State) (c b : Nat) (g : Block → Block) : (s.modBlock c b g).lastQ = s.lastQ := by unfold State.modBlock; split <;> rfl
@[simp] theorem State.modBlock_launches (s : State) (c b : Nat) (g : Block → Block) : (s.modBlock c b g).launches = s.launches := by unfold State.modBlock; split <;> rfl
@[simp] theorem State.modBlock_succs (s : State) (c b : Nat) (g : Block → Block) : (s.modBlock c b g).succs = s.succs := by unfold State.modBlock; split <;> rfl
@[simp] theorem State.modBlock_order (s : State) (c b : Nat) (g : Block → Block) : (s.modBlock c b g).order = s.order := by unfold State.modBlock; split <;> rfl
@[simp] theorem State.modBlock_orderNum (s : State) (c b : Nat) (g : Block → Block) : (s.modBlock c b g).orderNum = s.orderNum := by unfold State.modBlock; split <;> rfl
@[simp] theorem State.modBlock_placeNum (s : State) (c b : Nat) (g : Block → Block) : (s.modBlock c b g).placeNum = s.placeNum := by unfold State.modBlock; split <;> rfl
@[simp] theorem State.modBlock_aging (s : State) (c b : Nat) (g : Block → Block) : (s.modBlock c b g).aging = s.aging := by unfold State.modBlock; split <;> rfl
@[simp] theorem State.modBlock_held (s : State) (c b : Nat) (g : Block → Block) : (s.modBlock c b g).held = s.held := by unfold State.modBlock; split <;> rfl
@[simp] theorem State.modBlock_logIdx (s : State) (c b : Nat) (g : Block → Block) : (s.modBlock c b g).logIdx = s.logIdx := by unfold State.modBlock; split <;> rfl
@[simp] theorem State.modBlock_errLost (s : State) (c b : Nat) (g : Block → Block) : (s.modBlock c b g).errLost = s.errLost := by unfold State.modBlock; split <;> rfl
@[simp] theorem State.modBlock_saves (s : State) (c b : Nat) (g : Block → Block) : (s.modBlock c b g).saves = s.saves := by unfold State.modBlock; split <;> rfl
@[simp] theorem State.modBlock_killing (s : State) (c b : Nat) (g : Block → Block) : (s.modBlock c b g).killing = s.killing := by unfold State.modBlock; split <;> rfl
@[simp] theorem State.modBlock_peers (s : State) (c b : Nat) (g : Block → Block) : (s.modBlock c b g).peers = s.peers := by unfold State.modBlock; split <;> rfl
@[simp] theorem State.modBlock_slice (s : State) (c b : Nat) (g : Block → Block) : (s.modBlock c b g).slice = s.slice := by unfold State.modBlock; split <;> rfl
@[simp] theorem State.modBlock_tivaBusy (s : State) (c b : Nat) (g : Block → Block) : (s.modBlock c b g).tivaBusy = s.tivaBusy := by unfold State.modBlock; split <;> rfl
@[simp] theorem State.modBlock_flashK (s : State) (c b : Nat) (g : Block → Block) : (s.modBlock c b g).flashK = s.flashK := by unfold State.modBlock; split <;> rfl
@[simp] theorem State.modBlock_nextOfs (s : State) (c b : Nat) (g : Block → Block) : (s.modBlock c b g).nextOfs = s.nextOfs := by unfold State.modBlock; split <;> rfl
@[simp] theorem State.modBlock_tags (s : State) (c b : Nat) (g : Block → Block) : (s.modBlock c b g).tags = s.tags := by unfold State.modBlock; split <;> rfl
@[simp] theorem State.modBlock_shadow (s : State) (c b : Nat) (g : Block → Block) : (s.modBlock c b g).shadow = s.shadow := by unfold State.modBlock; split <;> rfl
@[simp] theorem State.modBlock_spoiled (s : State) (c b : Nat) (g : Block → Block) : (s.modBlock c b g).spoiled = s.spoiled := by unfold State.modBlock; split <;> rfl
@[simp] theorem State.modBlock_pendNo (s : State) (c b : Nat) (g : Block → Block) : (s.modBlock c b g).pendNo = s.pendNo := by unfold State.modBlock; split <;> rfl
@[simp] theorem State.modBlock_stamp (s : State) (c b : Nat) (g : Block → Block) : (s.modBlock c b g).stamp = s.stamp := by unfold State.modBlock; split <;> rfl

-- setFibre

@[simp] theorem State.setFibre_agenda (s : State) (c b f : Nat) (x : Fibre) : (s.setFibre c b f x).agenda = s.agenda := State.modBlock_agenda ..
@[simp] theorem State.setFibre_cur (s : State) (c b f : Nat) (x : Fibre) : (s.setFibre c b f x).cur = s.cur := State.modBlock_cur ..
@[simp] theorem State.setFibre_free (s : State) (c b f : Nat) (x : Fibre) : (s.setFibre c b f x).free = s.free := State.modBlock_free ..
@[simp] theorem State.setFibre_cycle (s : State) (c b f : Nat) (x : Fibre) : (s.setFibre c b f x).cycle = s.cycle := State.modBlock_cycle ..
@[simp] theorem State.setFibre_mem (s : State) (c b f : Nat) (x : Fibre) : (s.setFibre c b f x).mem = s.mem := State.modBlock_mem ..
@[simp] theorem State.setFibre_bad (s : State) (c b f : Nat) (x : Fibre) : (s.setFibre c b f x).bad = s.bad := State.modBlock_bad ..
@[simp] theorem State.setFibre_dev (s : State) (c b f : Nat) (x : Fibre) : (s.setFibre c b f x).dev = s.dev := State.modBlock_dev ..
@[simp] theorem State.setFibre_clusters (s : State) (c b f : Nat) (x : Fibre) : (s.setFibre c b f x).clusters = s.clusters := State.modBlock_clusters ..
@[simp] theorem State.setFibre_slices (s : State) (c b f : Nat) (x : Fibre) : (s.setFibre c b f x).slices = s.slices := State.modBlock_slices ..
@[simp] theorem State.setFibre_measures (s : State) (c b f : Nat) (x : Fibre) : (s.setFibre c b f x).measures = s.measures := State.modBlock_measures ..
@[simp] theorem State.setFibre_keys (s : State) (c b f : Nat) (x : Fibre) : (s.setFibre c b f x).keys = s.keys := State.modBlock_keys ..
@[simp] theorem State.setFibre_erased (s : State) (c b f : Nat) (x : Fibre) : (s.setFibre c b f x).erased = s.erased := State.modBlock_erased ..
@[simp] theorem State.setFibre_vfVec (s : State) (c b f : Nat) (x : Fibre) : (s.setFibre c b f x).vfVec = s.vfVec := State.modBlock_vfVec ..
@[simp] theorem State.setFibre_tdi (s : State) (c b f : Nat) (x : Fibre) : (s.setFibre c b f x).tdi = s.tdi := State.modBlock_tdi ..
@[simp] theorem State.setFibre_sessions (s : State) (c b f : Nat) (x : Fibre) : (s.setFibre c b f x).sessions = s.sessions := State.modBlock_sessions ..
@[simp] theorem State.setFibre_messages (s : State) (c b f : Nat) (x : Fibre) : (s.setFibre c b f x).messages = s.messages := State.modBlock_messages ..
@[simp] theorem State.setFibre_irqs (s : State) (c b f : Nat) (x : Fibre) : (s.setFibre c b f x).irqs = s.irqs := State.modBlock_irqs ..
@[simp] theorem State.setFibre_seals (s : State) (c b f : Nat) (x : Fibre) : (s.setFibre c b f x).seals = s.seals := State.modBlock_seals ..
@[simp] theorem State.setFibre_images (s : State) (c b f : Nat) (x : Fibre) : (s.setFibre c b f x).images = s.images := State.modBlock_images ..
@[simp] theorem State.setFibre_overlays (s : State) (c b f : Nat) (x : Fibre) : (s.setFibre c b f x).overlays = s.overlays := State.modBlock_overlays ..
@[simp] theorem State.setFibre_loads (s : State) (c b f : Nat) (x : Fibre) : (s.setFibre c b f x).loads = s.loads := State.modBlock_loads ..
@[simp] theorem State.setFibre_reports (s : State) (c b f : Nat) (x : Fibre) : (s.setFibre c b f x).reports = s.reports := State.modBlock_reports ..
@[simp] theorem State.setFibre_tlb (s : State) (c b f : Nat) (x : Fibre) : (s.setFibre c b f x).tlb = s.tlb := State.modBlock_tlb ..
@[simp] theorem State.setFibre_walks (s : State) (c b f : Nat) (x : Fibre) : (s.setFibre c b f x).walks = s.walks := State.modBlock_walks ..
@[simp] theorem State.setFibre_inboxes (s : State) (c b f : Nat) (x : Fibre) : (s.setFibre c b f x).inboxes = s.inboxes := State.modBlock_inboxes ..
@[simp] theorem State.setFibre_fromBox (s : State) (c b f : Nat) (x : Fibre) : (s.setFibre c b f x).fromBox = s.fromBox := State.modBlock_fromBox ..
@[simp] theorem State.setFibre_lastQ (s : State) (c b f : Nat) (x : Fibre) : (s.setFibre c b f x).lastQ = s.lastQ := State.modBlock_lastQ ..
@[simp] theorem State.setFibre_launches (s : State) (c b f : Nat) (x : Fibre) : (s.setFibre c b f x).launches = s.launches := State.modBlock_launches ..
@[simp] theorem State.setFibre_succs (s : State) (c b f : Nat) (x : Fibre) : (s.setFibre c b f x).succs = s.succs := State.modBlock_succs ..
@[simp] theorem State.setFibre_order (s : State) (c b f : Nat) (x : Fibre) : (s.setFibre c b f x).order = s.order := State.modBlock_order ..
@[simp] theorem State.setFibre_orderNum (s : State) (c b f : Nat) (x : Fibre) : (s.setFibre c b f x).orderNum = s.orderNum := State.modBlock_orderNum ..
@[simp] theorem State.setFibre_placeNum (s : State) (c b f : Nat) (x : Fibre) : (s.setFibre c b f x).placeNum = s.placeNum := State.modBlock_placeNum ..
@[simp] theorem State.setFibre_aging (s : State) (c b f : Nat) (x : Fibre) : (s.setFibre c b f x).aging = s.aging := State.modBlock_aging ..
@[simp] theorem State.setFibre_held (s : State) (c b f : Nat) (x : Fibre) : (s.setFibre c b f x).held = s.held := State.modBlock_held ..
@[simp] theorem State.setFibre_logIdx (s : State) (c b f : Nat) (x : Fibre) : (s.setFibre c b f x).logIdx = s.logIdx := State.modBlock_logIdx ..
@[simp] theorem State.setFibre_errLost (s : State) (c b f : Nat) (x : Fibre) : (s.setFibre c b f x).errLost = s.errLost := State.modBlock_errLost ..
@[simp] theorem State.setFibre_saves (s : State) (c b f : Nat) (x : Fibre) : (s.setFibre c b f x).saves = s.saves := State.modBlock_saves ..
@[simp] theorem State.setFibre_killing (s : State) (c b f : Nat) (x : Fibre) : (s.setFibre c b f x).killing = s.killing := State.modBlock_killing ..
@[simp] theorem State.setFibre_peers (s : State) (c b f : Nat) (x : Fibre) : (s.setFibre c b f x).peers = s.peers := State.modBlock_peers ..
@[simp] theorem State.setFibre_slice (s : State) (c b f : Nat) (x : Fibre) : (s.setFibre c b f x).slice = s.slice := State.modBlock_slice ..
@[simp] theorem State.setFibre_tivaBusy (s : State) (c b f : Nat) (x : Fibre) : (s.setFibre c b f x).tivaBusy = s.tivaBusy := State.modBlock_tivaBusy ..
@[simp] theorem State.setFibre_flashK (s : State) (c b f : Nat) (x : Fibre) : (s.setFibre c b f x).flashK = s.flashK := State.modBlock_flashK ..
@[simp] theorem State.setFibre_nextOfs (s : State) (c b f : Nat) (x : Fibre) : (s.setFibre c b f x).nextOfs = s.nextOfs := State.modBlock_nextOfs ..
@[simp] theorem State.setFibre_tags (s : State) (c b f : Nat) (x : Fibre) : (s.setFibre c b f x).tags = s.tags := State.modBlock_tags ..
@[simp] theorem State.setFibre_shadow (s : State) (c b f : Nat) (x : Fibre) : (s.setFibre c b f x).shadow = s.shadow := State.modBlock_shadow ..
@[simp] theorem State.setFibre_spoiled (s : State) (c b f : Nat) (x : Fibre) : (s.setFibre c b f x).spoiled = s.spoiled := State.modBlock_spoiled ..
@[simp] theorem State.setFibre_pendNo (s : State) (c b f : Nat) (x : Fibre) : (s.setFibre c b f x).pendNo = s.pendNo := State.modBlock_pendNo ..
@[simp] theorem State.setFibre_stamp (s : State) (c b f : Nat) (x : Fibre) : (s.setFibre c b f x).stamp = s.stamp := State.modBlock_stamp ..

-- modFibre

@[simp] theorem State.modFibre_agenda (s : State) (c b f : Nat) (g : Fibre → Fibre) : (s.modFibre c b f g).agenda = s.agenda := by unfold State.modFibre; split <;> simp
@[simp] theorem State.modFibre_cur (s : State) (c b f : Nat) (g : Fibre → Fibre) : (s.modFibre c b f g).cur = s.cur := by unfold State.modFibre; split <;> simp
@[simp] theorem State.modFibre_free (s : State) (c b f : Nat) (g : Fibre → Fibre) : (s.modFibre c b f g).free = s.free := by unfold State.modFibre; split <;> simp
@[simp] theorem State.modFibre_cycle (s : State) (c b f : Nat) (g : Fibre → Fibre) : (s.modFibre c b f g).cycle = s.cycle := by unfold State.modFibre; split <;> simp
@[simp] theorem State.modFibre_mem (s : State) (c b f : Nat) (g : Fibre → Fibre) : (s.modFibre c b f g).mem = s.mem := by unfold State.modFibre; split <;> simp
@[simp] theorem State.modFibre_bad (s : State) (c b f : Nat) (g : Fibre → Fibre) : (s.modFibre c b f g).bad = s.bad := by unfold State.modFibre; split <;> simp
@[simp] theorem State.modFibre_dev (s : State) (c b f : Nat) (g : Fibre → Fibre) : (s.modFibre c b f g).dev = s.dev := by unfold State.modFibre; split <;> simp
@[simp] theorem State.modFibre_clusters (s : State) (c b f : Nat) (g : Fibre → Fibre) : (s.modFibre c b f g).clusters = s.clusters := by unfold State.modFibre; split <;> simp
@[simp] theorem State.modFibre_slices (s : State) (c b f : Nat) (g : Fibre → Fibre) : (s.modFibre c b f g).slices = s.slices := by unfold State.modFibre; split <;> simp
@[simp] theorem State.modFibre_measures (s : State) (c b f : Nat) (g : Fibre → Fibre) : (s.modFibre c b f g).measures = s.measures := by unfold State.modFibre; split <;> simp
@[simp] theorem State.modFibre_keys (s : State) (c b f : Nat) (g : Fibre → Fibre) : (s.modFibre c b f g).keys = s.keys := by unfold State.modFibre; split <;> simp
@[simp] theorem State.modFibre_erased (s : State) (c b f : Nat) (g : Fibre → Fibre) : (s.modFibre c b f g).erased = s.erased := by unfold State.modFibre; split <;> simp
@[simp] theorem State.modFibre_vfVec (s : State) (c b f : Nat) (g : Fibre → Fibre) : (s.modFibre c b f g).vfVec = s.vfVec := by unfold State.modFibre; split <;> simp
@[simp] theorem State.modFibre_tdi (s : State) (c b f : Nat) (g : Fibre → Fibre) : (s.modFibre c b f g).tdi = s.tdi := by unfold State.modFibre; split <;> simp
@[simp] theorem State.modFibre_sessions (s : State) (c b f : Nat) (g : Fibre → Fibre) : (s.modFibre c b f g).sessions = s.sessions := by unfold State.modFibre; split <;> simp
@[simp] theorem State.modFibre_messages (s : State) (c b f : Nat) (g : Fibre → Fibre) : (s.modFibre c b f g).messages = s.messages := by unfold State.modFibre; split <;> simp
@[simp] theorem State.modFibre_irqs (s : State) (c b f : Nat) (g : Fibre → Fibre) : (s.modFibre c b f g).irqs = s.irqs := by unfold State.modFibre; split <;> simp
@[simp] theorem State.modFibre_seals (s : State) (c b f : Nat) (g : Fibre → Fibre) : (s.modFibre c b f g).seals = s.seals := by unfold State.modFibre; split <;> simp
@[simp] theorem State.modFibre_images (s : State) (c b f : Nat) (g : Fibre → Fibre) : (s.modFibre c b f g).images = s.images := by unfold State.modFibre; split <;> simp
@[simp] theorem State.modFibre_overlays (s : State) (c b f : Nat) (g : Fibre → Fibre) : (s.modFibre c b f g).overlays = s.overlays := by unfold State.modFibre; split <;> simp
@[simp] theorem State.modFibre_loads (s : State) (c b f : Nat) (g : Fibre → Fibre) : (s.modFibre c b f g).loads = s.loads := by unfold State.modFibre; split <;> simp
@[simp] theorem State.modFibre_reports (s : State) (c b f : Nat) (g : Fibre → Fibre) : (s.modFibre c b f g).reports = s.reports := by unfold State.modFibre; split <;> simp
@[simp] theorem State.modFibre_tlb (s : State) (c b f : Nat) (g : Fibre → Fibre) : (s.modFibre c b f g).tlb = s.tlb := by unfold State.modFibre; split <;> simp
@[simp] theorem State.modFibre_walks (s : State) (c b f : Nat) (g : Fibre → Fibre) : (s.modFibre c b f g).walks = s.walks := by unfold State.modFibre; split <;> simp
@[simp] theorem State.modFibre_inboxes (s : State) (c b f : Nat) (g : Fibre → Fibre) : (s.modFibre c b f g).inboxes = s.inboxes := by unfold State.modFibre; split <;> simp
@[simp] theorem State.modFibre_fromBox (s : State) (c b f : Nat) (g : Fibre → Fibre) : (s.modFibre c b f g).fromBox = s.fromBox := by unfold State.modFibre; split <;> simp
@[simp] theorem State.modFibre_lastQ (s : State) (c b f : Nat) (g : Fibre → Fibre) : (s.modFibre c b f g).lastQ = s.lastQ := by unfold State.modFibre; split <;> simp
@[simp] theorem State.modFibre_launches (s : State) (c b f : Nat) (g : Fibre → Fibre) : (s.modFibre c b f g).launches = s.launches := by unfold State.modFibre; split <;> simp
@[simp] theorem State.modFibre_succs (s : State) (c b f : Nat) (g : Fibre → Fibre) : (s.modFibre c b f g).succs = s.succs := by unfold State.modFibre; split <;> simp
@[simp] theorem State.modFibre_order (s : State) (c b f : Nat) (g : Fibre → Fibre) : (s.modFibre c b f g).order = s.order := by unfold State.modFibre; split <;> simp
@[simp] theorem State.modFibre_orderNum (s : State) (c b f : Nat) (g : Fibre → Fibre) : (s.modFibre c b f g).orderNum = s.orderNum := by unfold State.modFibre; split <;> simp
@[simp] theorem State.modFibre_placeNum (s : State) (c b f : Nat) (g : Fibre → Fibre) : (s.modFibre c b f g).placeNum = s.placeNum := by unfold State.modFibre; split <;> simp
@[simp] theorem State.modFibre_aging (s : State) (c b f : Nat) (g : Fibre → Fibre) : (s.modFibre c b f g).aging = s.aging := by unfold State.modFibre; split <;> simp
@[simp] theorem State.modFibre_held (s : State) (c b f : Nat) (g : Fibre → Fibre) : (s.modFibre c b f g).held = s.held := by unfold State.modFibre; split <;> simp
@[simp] theorem State.modFibre_logIdx (s : State) (c b f : Nat) (g : Fibre → Fibre) : (s.modFibre c b f g).logIdx = s.logIdx := by unfold State.modFibre; split <;> simp
@[simp] theorem State.modFibre_errLost (s : State) (c b f : Nat) (g : Fibre → Fibre) : (s.modFibre c b f g).errLost = s.errLost := by unfold State.modFibre; split <;> simp
@[simp] theorem State.modFibre_saves (s : State) (c b f : Nat) (g : Fibre → Fibre) : (s.modFibre c b f g).saves = s.saves := by unfold State.modFibre; split <;> simp
@[simp] theorem State.modFibre_killing (s : State) (c b f : Nat) (g : Fibre → Fibre) : (s.modFibre c b f g).killing = s.killing := by unfold State.modFibre; split <;> simp
@[simp] theorem State.modFibre_peers (s : State) (c b f : Nat) (g : Fibre → Fibre) : (s.modFibre c b f g).peers = s.peers := by unfold State.modFibre; split <;> simp
@[simp] theorem State.modFibre_slice (s : State) (c b f : Nat) (g : Fibre → Fibre) : (s.modFibre c b f g).slice = s.slice := by unfold State.modFibre; split <;> simp
@[simp] theorem State.modFibre_tivaBusy (s : State) (c b f : Nat) (g : Fibre → Fibre) : (s.modFibre c b f g).tivaBusy = s.tivaBusy := by unfold State.modFibre; split <;> simp
@[simp] theorem State.modFibre_flashK (s : State) (c b f : Nat) (g : Fibre → Fibre) : (s.modFibre c b f g).flashK = s.flashK := by unfold State.modFibre; split <;> simp
@[simp] theorem State.modFibre_nextOfs (s : State) (c b f : Nat) (g : Fibre → Fibre) : (s.modFibre c b f g).nextOfs = s.nextOfs := by unfold State.modFibre; split <;> simp
@[simp] theorem State.modFibre_tags (s : State) (c b f : Nat) (g : Fibre → Fibre) : (s.modFibre c b f g).tags = s.tags := by unfold State.modFibre; split <;> simp
@[simp] theorem State.modFibre_shadow (s : State) (c b f : Nat) (g : Fibre → Fibre) : (s.modFibre c b f g).shadow = s.shadow := by unfold State.modFibre; split <;> simp
@[simp] theorem State.modFibre_spoiled (s : State) (c b f : Nat) (g : Fibre → Fibre) : (s.modFibre c b f g).spoiled = s.spoiled := by unfold State.modFibre; split <;> simp
@[simp] theorem State.modFibre_pendNo (s : State) (c b f : Nat) (g : Fibre → Fibre) : (s.modFibre c b f g).pendNo = s.pendNo := by unfold State.modFibre; split <;> simp
@[simp] theorem State.modFibre_stamp (s : State) (c b f : Nat) (g : Fibre → Fibre) : (s.modFibre c b f g).stamp = s.stamp := by unfold State.modFibre; split <;> simp

-- devSet

@[simp] theorem devSet_agenda (s : State) (off : Nat) (v : BitVec 64) : (devSet s off v).agenda = s.agenda := rfl
@[simp] theorem devSet_cur (s : State) (off : Nat) (v : BitVec 64) : (devSet s off v).cur = s.cur := rfl
@[simp] theorem devSet_free (s : State) (off : Nat) (v : BitVec 64) : (devSet s off v).free = s.free := rfl
@[simp] theorem devSet_cycle (s : State) (off : Nat) (v : BitVec 64) : (devSet s off v).cycle = s.cycle := rfl
@[simp] theorem devSet_mem (s : State) (off : Nat) (v : BitVec 64) : (devSet s off v).mem = s.mem := rfl
@[simp] theorem devSet_tags (s : State) (off : Nat) (v : BitVec 64) : (devSet s off v).tags = s.tags := rfl
@[simp] theorem devSet_shadow (s : State) (off : Nat) (v : BitVec 64) : (devSet s off v).shadow = s.shadow := rfl
@[simp] theorem devSet_spoiled (s : State) (off : Nat) (v : BitVec 64) : (devSet s off v).spoiled = s.spoiled := rfl
@[simp] theorem devSet_pendNo (s : State) (off : Nat) (v : BitVec 64) : (devSet s off v).pendNo = s.pendNo := rfl
@[simp] theorem devSet_stamp (s : State) (off : Nat) (v : BitVec 64) : (devSet s off v).stamp = s.stamp := rfl
@[simp] theorem devSet_bad (s : State) (off : Nat) (v : BitVec 64) : (devSet s off v).bad = s.bad := rfl
@[simp] theorem devSet_cores (s : State) (off : Nat) (v : BitVec 64) : (devSet s off v).cores = s.cores := rfl
@[simp] theorem devSet_clusters (s : State) (off : Nat) (v : BitVec 64) : (devSet s off v).clusters = s.clusters := rfl
@[simp] theorem devSet_slices (s : State) (off : Nat) (v : BitVec 64) : (devSet s off v).slices = s.slices := rfl
@[simp] theorem devSet_measures (s : State) (off : Nat) (v : BitVec 64) : (devSet s off v).measures = s.measures := rfl
@[simp] theorem devSet_keys (s : State) (off : Nat) (v : BitVec 64) : (devSet s off v).keys = s.keys := rfl
@[simp] theorem devSet_erased (s : State) (off : Nat) (v : BitVec 64) : (devSet s off v).erased = s.erased := rfl
@[simp] theorem devSet_vfVec (s : State) (off : Nat) (v : BitVec 64) : (devSet s off v).vfVec = s.vfVec := rfl
@[simp] theorem devSet_tdi (s : State) (off : Nat) (v : BitVec 64) : (devSet s off v).tdi = s.tdi := rfl
@[simp] theorem devSet_sessions (s : State) (off : Nat) (v : BitVec 64) : (devSet s off v).sessions = s.sessions := rfl
@[simp] theorem devSet_messages (s : State) (off : Nat) (v : BitVec 64) : (devSet s off v).messages = s.messages := rfl
@[simp] theorem devSet_irqs (s : State) (off : Nat) (v : BitVec 64) : (devSet s off v).irqs = s.irqs := rfl
@[simp] theorem devSet_seals (s : State) (off : Nat) (v : BitVec 64) : (devSet s off v).seals = s.seals := rfl
@[simp] theorem devSet_images (s : State) (off : Nat) (v : BitVec 64) : (devSet s off v).images = s.images := rfl
@[simp] theorem devSet_overlays (s : State) (off : Nat) (v : BitVec 64) : (devSet s off v).overlays = s.overlays := rfl
@[simp] theorem devSet_loads (s : State) (off : Nat) (v : BitVec 64) : (devSet s off v).loads = s.loads := rfl
@[simp] theorem devSet_reports (s : State) (off : Nat) (v : BitVec 64) : (devSet s off v).reports = s.reports := rfl
@[simp] theorem devSet_tlb (s : State) (off : Nat) (v : BitVec 64) : (devSet s off v).tlb = s.tlb := rfl
@[simp] theorem devSet_walks (s : State) (off : Nat) (v : BitVec 64) : (devSet s off v).walks = s.walks := rfl
@[simp] theorem devSet_inboxes (s : State) (off : Nat) (v : BitVec 64) : (devSet s off v).inboxes = s.inboxes := rfl
@[simp] theorem devSet_fromBox (s : State) (off : Nat) (v : BitVec 64) : (devSet s off v).fromBox = s.fromBox := rfl
@[simp] theorem devSet_lastQ (s : State) (off : Nat) (v : BitVec 64) : (devSet s off v).lastQ = s.lastQ := rfl
@[simp] theorem devSet_launches (s : State) (off : Nat) (v : BitVec 64) : (devSet s off v).launches = s.launches := rfl
@[simp] theorem devSet_succs (s : State) (off : Nat) (v : BitVec 64) : (devSet s off v).succs = s.succs := rfl
@[simp] theorem devSet_order (s : State) (off : Nat) (v : BitVec 64) : (devSet s off v).order = s.order := rfl
@[simp] theorem devSet_orderNum (s : State) (off : Nat) (v : BitVec 64) : (devSet s off v).orderNum = s.orderNum := rfl
@[simp] theorem devSet_placeNum (s : State) (off : Nat) (v : BitVec 64) : (devSet s off v).placeNum = s.placeNum := rfl
@[simp] theorem devSet_aging (s : State) (off : Nat) (v : BitVec 64) : (devSet s off v).aging = s.aging := rfl
@[simp] theorem devSet_held (s : State) (off : Nat) (v : BitVec 64) : (devSet s off v).held = s.held := rfl
@[simp] theorem devSet_logIdx (s : State) (off : Nat) (v : BitVec 64) : (devSet s off v).logIdx = s.logIdx := rfl
@[simp] theorem devSet_errLost (s : State) (off : Nat) (v : BitVec 64) : (devSet s off v).errLost = s.errLost := rfl
@[simp] theorem devSet_saves (s : State) (off : Nat) (v : BitVec 64) : (devSet s off v).saves = s.saves := rfl
@[simp] theorem devSet_killing (s : State) (off : Nat) (v : BitVec 64) : (devSet s off v).killing = s.killing := rfl
@[simp] theorem devSet_peers (s : State) (off : Nat) (v : BitVec 64) : (devSet s off v).peers = s.peers := rfl
@[simp] theorem devSet_slice (s : State) (off : Nat) (v : BitVec 64) : (devSet s off v).slice = s.slice := rfl
@[simp] theorem devSet_tivaBusy (s : State) (off : Nat) (v : BitVec 64) : (devSet s off v).tivaBusy = s.tivaBusy := rfl
@[simp] theorem devSet_flashK (s : State) (off : Nat) (v : BitVec 64) : (devSet s off v).flashK = s.flashK := rfl
@[simp] theorem devSet_nextOfs (s : State) (off : Nat) (v : BitVec 64) : (devSet s off v).nextOfs = s.nextOfs := rfl

-- Cores, blocks and fibres

/-- A core after one has been replaced. -/
theorem State.core_setCore (s : State) (c d : Nat) (k : Core) : (s.setCore c k).core d = if c = d then k else s.core d := by
  simp only [State.core, State.setCore, FMap.get_set]
/-- The core that was replaced. -/
@[simp] theorem State.core_setCore_self (s : State) (c : Nat) (k : Core) : (s.setCore c k).core c = k := by
  simp [State.core_setCore]
/-- A core after one has been changed. -/
theorem State.core_modCore (s : State) (c d : Nat) (g : Core → Core) :
    (s.modCore c g).core d = if c = d then g (s.core c) else s.core d := by
  simp only [State.modCore, State.core_setCore]
/-- The core that was changed. -/
@[simp] theorem State.core_modCore_self (s : State) (c : Nat) (g : Core → Core) : (s.modCore c g).core c = g (s.core c) := by
  simp [State.core_modCore]
/-- A cluster after one has been changed. -/
theorem State.cluster_modCluster (s : State) (c d : Nat) (g : Cluster → Cluster) :
    (s.modCluster c g).cluster d = if c = d then g (s.cluster c) else s.cluster d := by
  simp only [State.cluster, State.modCluster, FMap.get_set]
/-- A slice after one has been changed. -/
theorem State.slice_modSlice (s : State) (n m : Nat) (g : Slice → Slice) :
    (s.modSlice n g).slice' m = if n = m then g (s.slice' n) else s.slice' m := by
  simp only [State.slice', State.modSlice, FMap.get_set]
/-- The slice that was changed. -/
@[simp] theorem State.slice_modSlice_self (s : State) (n : Nat) (g : Slice → Slice) : (s.modSlice n g).slice' n = g (s.slice' n) := by
  simp [State.slice_modSlice]
/-- A block after one has been replaced. -/
theorem State.block_setBlock (s : State) (c b d e : Nat) (x : Block) :
    (s.setBlock c b x).block d e = if c = d ∧ b = e then some x else s.block d e := by
  simp only [State.block, State.setBlock, State.core_modCore]
  by_cases h : c = d
  · subst h; simp [FMap.find?_set]
  · simp [h]
/-- The block that was replaced. -/
@[simp] theorem State.block_setBlock_self (s : State) (c b : Nat) (x : Block) : (s.setBlock c b x).block c b = some x := by
  simp [State.block_setBlock]
/-- A change of a block that is there. -/
theorem State.modBlock_some {s : State} {c b : Nat} {x : Block} (h : s.block c b = some x) (g : Block → Block) :
    s.modBlock c b g = s.setBlock c b (g x) := by simp [State.modBlock, h]
/-- A fibre replaced in a block that is there. -/
theorem State.setFibre_some {s : State} {c b : Nat} {k : Block} (h : s.block c b = some k) (f : Nat) (x : Fibre) :
    s.setFibre c b f x = s.setBlock c b { k with fibres := k.fibres.set f x } := State.modBlock_some h _
/-- A change of a fibre that is there. -/
theorem State.modFibre_some {s : State} {c b f : Nat} {x : Fibre} (h : s.fibre c b f = some x) (g : Fibre → Fibre) :
    s.modFibre c b f g = s.setFibre c b f (g x) := by simp [State.modFibre, h]
/-- The block of a fibre that was replaced. -/
theorem State.block_setFibre {s : State} {c b : Nat} {k : Block} (h : s.block c b = some k) (f : Nat) (x : Fibre) :
    (s.setFibre c b f x).block c b = some { k with fibres := k.fibres.set f x } := by
  rw [State.setFibre_some h, State.block_setBlock_self]
/-- The fibre that was replaced. -/
theorem State.fibre_setFibre {s : State} {c b : Nat} {k : Block} (h : s.block c b = some k) (f : Nat) (x : Fibre) :
    (s.setFibre c b f x).fibre c b f = some x := by
  simp [State.fibre, State.block_setFibre h]
/-- Every other fibre stays. -/
theorem State.fibre_setFibre_ne (s : State) {c b f d e g : Nat} (x : Fibre) (n : (d, e, g) ≠ (c, b, f)) :
    (s.setFibre c b f x).fibre d e g = s.fibre d e g := by
  unfold State.setFibre State.modBlock
  split
  · rename_i k h
    simp only [State.fibre, State.block_setBlock]
    split
    · rename_i h'
      obtain ⟨rfl, rfl⟩ := h'
      have : f ≠ g := by rintro rfl; exact n rfl
      simp [h, FMap.find?_set_ne _ _ this]
    · rfl
  · rfl
/-- A core after a fibre has been replaced: its blocks alone change. -/
theorem State.core_setFibre {s : State} {c b : Nat} {k : Block} (h : s.block c b = some k) (f : Nat) (x : Fibre) (d : Nat) :
    (s.setFibre c b f x).core d =
      if c = d then { s.core c with blocks := (s.core c).blocks.set b { k with fibres := k.fibres.set f x } } else s.core d := by
  rw [State.setFibre_some h, State.setBlock, State.core_modCore]

end Sys2Proof.Machine
end

