-- ==== Sys2Proof/Laws/Fibre.lean ====
section
/-!
SUPPORT. The updates of a fibre field by field, and what registers and predicates read after a write (R18, R139, R152, R153).
-/
namespace Sys2Proof.Machine

@[simp] theorem Fibre.setReg_pc (x : Fibre) (win n : Nat) (v : Word) : (x.setReg win n v).pc = x.pc := by unfold Fibre.setReg; split <;> rfl
@[simp] theorem Fibre.setReg_preds (x : Fibre) (win n : Nat) (v : Word) : (x.setReg win n v).preds = x.preds := by unfold Fibre.setReg; split <;> rfl
@[simp] theorem Fibre.setReg_join (x : Fibre) (win n : Nat) (v : Word) : (x.setReg win n v).join = x.join := by unfold Fibre.setReg; split <;> rfl
@[simp] theorem Fibre.setReg_sig (x : Fibre) (win n : Nat) (v : Word) : (x.setReg win n v).sig = x.sig := by unfold Fibre.setReg; split <;> rfl
@[simp] theorem Fibre.setReg_depth (x : Fibre) (win n : Nat) (v : Word) : (x.setReg win n v).depth = x.depth := by unfold Fibre.setReg; split <;> rfl
@[simp] theorem Fibre.setReg_frame (x : Fibre) (win n : Nat) (v : Word) : (x.setReg win n v).frame = x.frame := by unfold Fibre.setReg; split <;> rfl
@[simp] theorem Fibre.setReg_frames (x : Fibre) (win n : Nat) (v : Word) : (x.setReg win n v).frames = x.frames := by unfold Fibre.setReg; split <;> rfl
@[simp] theorem Fibre.setReg_pending (x : Fibre) (win n : Nat) (v : Word) : (x.setReg win n v).pending = x.pending := by unfold Fibre.setReg; split <;> rfl
@[simp] theorem Fibre.setReg_tagCtr (x : Fibre) (win n : Nat) (v : Word) : (x.setReg win n v).tagCtr = x.tagCtr := by unfold Fibre.setReg; split <;> rfl
@[simp] theorem Fibre.setReg_hold (x : Fibre) (win n : Nat) (v : Word) : (x.setReg win n v).hold = x.hold := by unfold Fibre.setReg; split <;> rfl
@[simp] theorem Fibre.setReg_status (x : Fibre) (win n : Nat) (v : Word) : (x.setReg win n v).status = x.status := by unfold Fibre.setReg; split <;> rfl
@[simp] theorem Fibre.setReg_xcopies (x : Fibre) (win n : Nat) (v : Word) : (x.setReg win n v).xcopies = x.xcopies := by unfold Fibre.setReg; split <;> rfl
@[simp] theorem Fibre.setReg_readyAt (x : Fibre) (win n : Nat) (v : Word) : (x.setReg win n v).readyAt = x.readyAt := by unfold Fibre.setReg; split <;> rfl
@[simp] theorem Fibre.setReg_urgentAt (x : Fibre) (win n : Nat) (v : Word) : (x.setReg win n v).urgentAt = x.urgentAt := by unfold Fibre.setReg; split <;> rfl
@[simp] theorem Fibre.setReg_acqTime (x : Fibre) (win n : Nat) (v : Word) : (x.setReg win n v).acqTime = x.acqTime := by unfold Fibre.setReg; split <;> rfl
@[simp] theorem Fibre.setReg_bsynced (x : Fibre) (win n : Nat) (v : Word) : (x.setReg win n v).bsynced = x.bsynced := by unfold Fibre.setReg; split <;> rfl

@[simp] theorem Fibre.setPair_pc (x : Fibre) (win n : Nat) (v : DWord) : (x.setPair win n v).pc = x.pc := by unfold Fibre.setPair; split <;> simp
@[simp] theorem Fibre.setPair_preds (x : Fibre) (win n : Nat) (v : DWord) : (x.setPair win n v).preds = x.preds := by unfold Fibre.setPair; split <;> simp
@[simp] theorem Fibre.setPair_join (x : Fibre) (win n : Nat) (v : DWord) : (x.setPair win n v).join = x.join := by unfold Fibre.setPair; split <;> simp
@[simp] theorem Fibre.setPair_sig (x : Fibre) (win n : Nat) (v : DWord) : (x.setPair win n v).sig = x.sig := by unfold Fibre.setPair; split <;> simp
@[simp] theorem Fibre.setPair_depth (x : Fibre) (win n : Nat) (v : DWord) : (x.setPair win n v).depth = x.depth := by unfold Fibre.setPair; split <;> simp
@[simp] theorem Fibre.setPair_frame (x : Fibre) (win n : Nat) (v : DWord) : (x.setPair win n v).frame = x.frame := by unfold Fibre.setPair; split <;> simp
@[simp] theorem Fibre.setPair_frames (x : Fibre) (win n : Nat) (v : DWord) : (x.setPair win n v).frames = x.frames := by unfold Fibre.setPair; split <;> simp
@[simp] theorem Fibre.setPair_pending (x : Fibre) (win n : Nat) (v : DWord) : (x.setPair win n v).pending = x.pending := by unfold Fibre.setPair; split <;> simp
@[simp] theorem Fibre.setPair_tagCtr (x : Fibre) (win n : Nat) (v : DWord) : (x.setPair win n v).tagCtr = x.tagCtr := by unfold Fibre.setPair; split <;> simp
@[simp] theorem Fibre.setPair_hold (x : Fibre) (win n : Nat) (v : DWord) : (x.setPair win n v).hold = x.hold := by unfold Fibre.setPair; split <;> simp
@[simp] theorem Fibre.setPair_status (x : Fibre) (win n : Nat) (v : DWord) : (x.setPair win n v).status = x.status := by unfold Fibre.setPair; split <;> simp
@[simp] theorem Fibre.setPair_xcopies (x : Fibre) (win n : Nat) (v : DWord) : (x.setPair win n v).xcopies = x.xcopies := by unfold Fibre.setPair; split <;> simp
@[simp] theorem Fibre.setPair_readyAt (x : Fibre) (win n : Nat) (v : DWord) : (x.setPair win n v).readyAt = x.readyAt := by unfold Fibre.setPair; split <;> simp
@[simp] theorem Fibre.setPair_urgentAt (x : Fibre) (win n : Nat) (v : DWord) : (x.setPair win n v).urgentAt = x.urgentAt := by unfold Fibre.setPair; split <;> simp
@[simp] theorem Fibre.setPair_acqTime (x : Fibre) (win n : Nat) (v : DWord) : (x.setPair win n v).acqTime = x.acqTime := by unfold Fibre.setPair; split <;> simp
@[simp] theorem Fibre.setPair_bsynced (x : Fibre) (win n : Nat) (v : DWord) : (x.setPair win n v).bsynced = x.bsynced := by unfold Fibre.setPair; split <;> simp

@[simp] theorem Fibre.setPred_pc (x : Fibre) (n : Nat) (v : Bool) : (x.setPred n v).pc = x.pc := by unfold Fibre.setPred; split <;> rfl
@[simp] theorem Fibre.setPred_regs (x : Fibre) (n : Nat) (v : Bool) : (x.setPred n v).regs = x.regs := by unfold Fibre.setPred; split <;> rfl
@[simp] theorem Fibre.setPred_join (x : Fibre) (n : Nat) (v : Bool) : (x.setPred n v).join = x.join := by unfold Fibre.setPred; split <;> rfl
@[simp] theorem Fibre.setPred_sig (x : Fibre) (n : Nat) (v : Bool) : (x.setPred n v).sig = x.sig := by unfold Fibre.setPred; split <;> rfl
@[simp] theorem Fibre.setPred_depth (x : Fibre) (n : Nat) (v : Bool) : (x.setPred n v).depth = x.depth := by unfold Fibre.setPred; split <;> rfl
@[simp] theorem Fibre.setPred_frame (x : Fibre) (n : Nat) (v : Bool) : (x.setPred n v).frame = x.frame := by unfold Fibre.setPred; split <;> rfl
@[simp] theorem Fibre.setPred_frames (x : Fibre) (n : Nat) (v : Bool) : (x.setPred n v).frames = x.frames := by unfold Fibre.setPred; split <;> rfl
@[simp] theorem Fibre.setPred_pending (x : Fibre) (n : Nat) (v : Bool) : (x.setPred n v).pending = x.pending := by unfold Fibre.setPred; split <;> rfl
@[simp] theorem Fibre.setPred_tagCtr (x : Fibre) (n : Nat) (v : Bool) : (x.setPred n v).tagCtr = x.tagCtr := by unfold Fibre.setPred; split <;> rfl
@[simp] theorem Fibre.setPred_hold (x : Fibre) (n : Nat) (v : Bool) : (x.setPred n v).hold = x.hold := by unfold Fibre.setPred; split <;> rfl
@[simp] theorem Fibre.setPred_status (x : Fibre) (n : Nat) (v : Bool) : (x.setPred n v).status = x.status := by unfold Fibre.setPred; split <;> rfl
@[simp] theorem Fibre.setPred_xcopies (x : Fibre) (n : Nat) (v : Bool) : (x.setPred n v).xcopies = x.xcopies := by unfold Fibre.setPred; split <;> rfl
@[simp] theorem Fibre.setPred_readyAt (x : Fibre) (n : Nat) (v : Bool) : (x.setPred n v).readyAt = x.readyAt := by unfold Fibre.setPred; split <;> rfl
@[simp] theorem Fibre.setPred_urgentAt (x : Fibre) (n : Nat) (v : Bool) : (x.setPred n v).urgentAt = x.urgentAt := by unfold Fibre.setPred; split <;> rfl
@[simp] theorem Fibre.setPred_acqTime (x : Fibre) (n : Nat) (v : Bool) : (x.setPred n v).acqTime = x.acqTime := by unfold Fibre.setPred; split <;> rfl
@[simp] theorem Fibre.setPred_bsynced (x : Fibre) (n : Nat) (v : Bool) : (x.setPred n v).bsynced = x.bsynced := by unfold Fibre.setPred; split <;> rfl

@[simp] theorem Fibre.holdKey_pc (x : Fibre) (n t : Nat) : (x.holdKey n t).pc = x.pc := by unfold Fibre.holdKey; split <;> rfl
@[simp] theorem Fibre.holdKey_preds (x : Fibre) (n t : Nat) : (x.holdKey n t).preds = x.preds := by unfold Fibre.holdKey; split <;> rfl
@[simp] theorem Fibre.holdKey_regs (x : Fibre) (n t : Nat) : (x.holdKey n t).regs = x.regs := by unfold Fibre.holdKey; split <;> rfl
@[simp] theorem Fibre.holdKey_join (x : Fibre) (n t : Nat) : (x.holdKey n t).join = x.join := by unfold Fibre.holdKey; split <;> rfl
@[simp] theorem Fibre.holdKey_sig (x : Fibre) (n t : Nat) : (x.holdKey n t).sig = x.sig := by unfold Fibre.holdKey; split <;> rfl
@[simp] theorem Fibre.holdKey_depth (x : Fibre) (n t : Nat) : (x.holdKey n t).depth = x.depth := by unfold Fibre.holdKey; split <;> rfl
@[simp] theorem Fibre.holdKey_frame (x : Fibre) (n t : Nat) : (x.holdKey n t).frame = x.frame := by unfold Fibre.holdKey; split <;> rfl
@[simp] theorem Fibre.holdKey_frames (x : Fibre) (n t : Nat) : (x.holdKey n t).frames = x.frames := by unfold Fibre.holdKey; split <;> rfl
@[simp] theorem Fibre.holdKey_pending (x : Fibre) (n t : Nat) : (x.holdKey n t).pending = x.pending := by unfold Fibre.holdKey; split <;> rfl
@[simp] theorem Fibre.holdKey_tagCtr (x : Fibre) (n t : Nat) : (x.holdKey n t).tagCtr = x.tagCtr := by unfold Fibre.holdKey; split <;> rfl
@[simp] theorem Fibre.holdKey_status (x : Fibre) (n t : Nat) : (x.holdKey n t).status = x.status := by unfold Fibre.holdKey; split <;> rfl
@[simp] theorem Fibre.holdKey_xcopies (x : Fibre) (n t : Nat) : (x.holdKey n t).xcopies = x.xcopies := by unfold Fibre.holdKey; split <;> rfl
@[simp] theorem Fibre.holdKey_readyAt (x : Fibre) (n t : Nat) : (x.holdKey n t).readyAt = x.readyAt := by unfold Fibre.holdKey; split <;> rfl
@[simp] theorem Fibre.holdKey_urgentAt (x : Fibre) (n t : Nat) : (x.holdKey n t).urgentAt = x.urgentAt := by unfold Fibre.holdKey; split <;> rfl
@[simp] theorem Fibre.holdKey_acqTime (x : Fibre) (n t : Nat) : (x.holdKey n t).acqTime = x.acqTime := by unfold Fibre.holdKey; split <;> rfl
@[simp] theorem Fibre.holdKey_bsynced (x : Fibre) (n t : Nat) : (x.holdKey n t).bsynced = x.bsynced := by unfold Fibre.holdKey; split <;> rfl

@[simp] theorem Fibre.issued_preds (x : Fibre) (t : Nat) : (x.issued t).preds = x.preds := rfl
@[simp] theorem Fibre.issued_regs (x : Fibre) (t : Nat) : (x.issued t).regs = x.regs := rfl
@[simp] theorem Fibre.issued_join (x : Fibre) (t : Nat) : (x.issued t).join = x.join := rfl
@[simp] theorem Fibre.issued_sig (x : Fibre) (t : Nat) : (x.issued t).sig = x.sig := rfl
@[simp] theorem Fibre.issued_depth (x : Fibre) (t : Nat) : (x.issued t).depth = x.depth := rfl
@[simp] theorem Fibre.issued_frame (x : Fibre) (t : Nat) : (x.issued t).frame = x.frame := rfl
@[simp] theorem Fibre.issued_frames (x : Fibre) (t : Nat) : (x.issued t).frames = x.frames := rfl
@[simp] theorem Fibre.issued_pending (x : Fibre) (t : Nat) : (x.issued t).pending = x.pending := rfl
@[simp] theorem Fibre.issued_tagCtr (x : Fibre) (t : Nat) : (x.issued t).tagCtr = x.tagCtr := rfl
@[simp] theorem Fibre.issued_hold (x : Fibre) (t : Nat) : (x.issued t).hold = x.hold := rfl
@[simp] theorem Fibre.issued_xcopies (x : Fibre) (t : Nat) : (x.issued t).xcopies = x.xcopies := rfl
@[simp] theorem Fibre.issued_acqTime (x : Fibre) (t : Nat) : (x.issued t).acqTime = x.acqTime := rfl
@[simp] theorem Fibre.issued_bsynced (x : Fibre) (t : Nat) : (x.issued t).bsynced = x.bsynced := rfl

@[simp] theorem Fibre.acquire_pc (x : Fibre) (t : Nat) : (x.acquire t).pc = x.pc := rfl
@[simp] theorem Fibre.acquire_preds (x : Fibre) (t : Nat) : (x.acquire t).preds = x.preds := rfl
@[simp] theorem Fibre.acquire_regs (x : Fibre) (t : Nat) : (x.acquire t).regs = x.regs := rfl
@[simp] theorem Fibre.acquire_join (x : Fibre) (t : Nat) : (x.acquire t).join = x.join := rfl
@[simp] theorem Fibre.acquire_sig (x : Fibre) (t : Nat) : (x.acquire t).sig = x.sig := rfl
@[simp] theorem Fibre.acquire_depth (x : Fibre) (t : Nat) : (x.acquire t).depth = x.depth := rfl
@[simp] theorem Fibre.acquire_frame (x : Fibre) (t : Nat) : (x.acquire t).frame = x.frame := rfl
@[simp] theorem Fibre.acquire_frames (x : Fibre) (t : Nat) : (x.acquire t).frames = x.frames := rfl
@[simp] theorem Fibre.acquire_pending (x : Fibre) (t : Nat) : (x.acquire t).pending = x.pending := rfl
@[simp] theorem Fibre.acquire_tagCtr (x : Fibre) (t : Nat) : (x.acquire t).tagCtr = x.tagCtr := rfl
@[simp] theorem Fibre.acquire_hold (x : Fibre) (t : Nat) : (x.acquire t).hold = x.hold := rfl
@[simp] theorem Fibre.acquire_status (x : Fibre) (t : Nat) : (x.acquire t).status = x.status := rfl
@[simp] theorem Fibre.acquire_xcopies (x : Fibre) (t : Nat) : (x.acquire t).xcopies = x.xcopies := rfl
@[simp] theorem Fibre.acquire_readyAt (x : Fibre) (t : Nat) : (x.acquire t).readyAt = x.readyAt := rfl
@[simp] theorem Fibre.acquire_urgentAt (x : Fibre) (t : Nat) : (x.acquire t).urgentAt = x.urgentAt := rfl
@[simp] theorem Fibre.acquire_bsynced (x : Fibre) (t : Nat) : (x.acquire t).bsynced = x.bsynced := rfl

@[simp] theorem Fibre.setRegs_pc (x : Fibre) (win d : Nat) (l : List Word) : (x.setRegs win d l).pc = x.pc := by
  induction l generalizing x d with
  | nil => rfl
  | cons v t ih => simp [Fibre.setRegs, ih]
@[simp] theorem Fibre.setRegs_preds (x : Fibre) (win d : Nat) (l : List Word) : (x.setRegs win d l).preds = x.preds := by
  induction l generalizing x d with
  | nil => rfl
  | cons v t ih => simp [Fibre.setRegs, ih]
@[simp] theorem Fibre.setRegs_join (x : Fibre) (win d : Nat) (l : List Word) : (x.setRegs win d l).join = x.join := by
  induction l generalizing x d with
  | nil => rfl
  | cons v t ih => simp [Fibre.setRegs, ih]
@[simp] theorem Fibre.setRegs_sig (x : Fibre) (win d : Nat) (l : List Word) : (x.setRegs win d l).sig = x.sig := by
  induction l generalizing x d with
  | nil => rfl
  | cons v t ih => simp [Fibre.setRegs, ih]
@[simp] theorem Fibre.setRegs_depth (x : Fibre) (win d : Nat) (l : List Word) : (x.setRegs win d l).depth = x.depth := by
  induction l generalizing x d with
  | nil => rfl
  | cons v t ih => simp [Fibre.setRegs, ih]
@[simp] theorem Fibre.setRegs_frame (x : Fibre) (win d : Nat) (l : List Word) : (x.setRegs win d l).frame = x.frame := by
  induction l generalizing x d with
  | nil => rfl
  | cons v t ih => simp [Fibre.setRegs, ih]
@[simp] theorem Fibre.setRegs_frames (x : Fibre) (win d : Nat) (l : List Word) : (x.setRegs win d l).frames = x.frames := by
  induction l generalizing x d with
  | nil => rfl
  | cons v t ih => simp [Fibre.setRegs, ih]
@[simp] theorem Fibre.setRegs_pending (x : Fibre) (win d : Nat) (l : List Word) : (x.setRegs win d l).pending = x.pending := by
  induction l generalizing x d with
  | nil => rfl
  | cons v t ih => simp [Fibre.setRegs, ih]
@[simp] theorem Fibre.setRegs_tagCtr (x : Fibre) (win d : Nat) (l : List Word) : (x.setRegs win d l).tagCtr = x.tagCtr := by
  induction l generalizing x d with
  | nil => rfl
  | cons v t ih => simp [Fibre.setRegs, ih]
@[simp] theorem Fibre.setRegs_hold (x : Fibre) (win d : Nat) (l : List Word) : (x.setRegs win d l).hold = x.hold := by
  induction l generalizing x d with
  | nil => rfl
  | cons v t ih => simp [Fibre.setRegs, ih]
@[simp] theorem Fibre.setRegs_status (x : Fibre) (win d : Nat) (l : List Word) : (x.setRegs win d l).status = x.status := by
  induction l generalizing x d with
  | nil => rfl
  | cons v t ih => simp [Fibre.setRegs, ih]
@[simp] theorem Fibre.setRegs_xcopies (x : Fibre) (win d : Nat) (l : List Word) : (x.setRegs win d l).xcopies = x.xcopies := by
  induction l generalizing x d with
  | nil => rfl
  | cons v t ih => simp [Fibre.setRegs, ih]
@[simp] theorem Fibre.setRegs_readyAt (x : Fibre) (win d : Nat) (l : List Word) : (x.setRegs win d l).readyAt = x.readyAt := by
  induction l generalizing x d with
  | nil => rfl
  | cons v t ih => simp [Fibre.setRegs, ih]
@[simp] theorem Fibre.setRegs_urgentAt (x : Fibre) (win d : Nat) (l : List Word) : (x.setRegs win d l).urgentAt = x.urgentAt := by
  induction l generalizing x d with
  | nil => rfl
  | cons v t ih => simp [Fibre.setRegs, ih]
@[simp] theorem Fibre.setRegs_acqTime (x : Fibre) (win d : Nat) (l : List Word) : (x.setRegs win d l).acqTime = x.acqTime := by
  induction l generalizing x d with
  | nil => rfl
  | cons v t ih => simp [Fibre.setRegs, ih]
@[simp] theorem Fibre.setRegs_bsynced (x : Fibre) (win d : Nat) (l : List Word) : (x.setRegs win d l).bsynced = x.bsynced := by
  induction l generalizing x d with
  | nil => rfl
  | cons v t ih => simp [Fibre.setRegs, ih]

@[simp] theorem Fibre.markEmpty_pc (x : Fibre) (win d : Nat) (tag : BitVec 16) (k : Nat) : (x.markEmpty win d tag k).pc = x.pc := by
  induction k generalizing x d with
  | zero => rfl
  | succ k ih =>
    unfold Fibre.markEmpty
    split
    · rfl
    · exact (ih ..).trans (by split <;> rfl)
@[simp] theorem Fibre.markEmpty_preds (x : Fibre) (win d : Nat) (tag : BitVec 16) (k : Nat) : (x.markEmpty win d tag k).preds = x.preds := by
  induction k generalizing x d with
  | zero => rfl
  | succ k ih =>
    unfold Fibre.markEmpty
    split
    · rfl
    · exact (ih ..).trans (by split <;> rfl)
@[simp] theorem Fibre.markEmpty_join (x : Fibre) (win d : Nat) (tag : BitVec 16) (k : Nat) : (x.markEmpty win d tag k).join = x.join := by
  induction k generalizing x d with
  | zero => rfl
  | succ k ih =>
    unfold Fibre.markEmpty
    split
    · rfl
    · exact (ih ..).trans (by split <;> rfl)
@[simp] theorem Fibre.markEmpty_sig (x : Fibre) (win d : Nat) (tag : BitVec 16) (k : Nat) : (x.markEmpty win d tag k).sig = x.sig := by
  induction k generalizing x d with
  | zero => rfl
  | succ k ih =>
    unfold Fibre.markEmpty
    split
    · rfl
    · exact (ih ..).trans (by split <;> rfl)
@[simp] theorem Fibre.markEmpty_depth (x : Fibre) (win d : Nat) (tag : BitVec 16) (k : Nat) : (x.markEmpty win d tag k).depth = x.depth := by
  induction k generalizing x d with
  | zero => rfl
  | succ k ih =>
    unfold Fibre.markEmpty
    split
    · rfl
    · exact (ih ..).trans (by split <;> rfl)
@[simp] theorem Fibre.markEmpty_frame (x : Fibre) (win d : Nat) (tag : BitVec 16) (k : Nat) : (x.markEmpty win d tag k).frame = x.frame := by
  induction k generalizing x d with
  | zero => rfl
  | succ k ih =>
    unfold Fibre.markEmpty
    split
    · rfl
    · exact (ih ..).trans (by split <;> rfl)
@[simp] theorem Fibre.markEmpty_frames (x : Fibre) (win d : Nat) (tag : BitVec 16) (k : Nat) : (x.markEmpty win d tag k).frames = x.frames := by
  induction k generalizing x d with
  | zero => rfl
  | succ k ih =>
    unfold Fibre.markEmpty
    split
    · rfl
    · exact (ih ..).trans (by split <;> rfl)
@[simp] theorem Fibre.markEmpty_pending (x : Fibre) (win d : Nat) (tag : BitVec 16) (k : Nat) : (x.markEmpty win d tag k).pending = x.pending := by
  induction k generalizing x d with
  | zero => rfl
  | succ k ih =>
    unfold Fibre.markEmpty
    split
    · rfl
    · exact (ih ..).trans (by split <;> rfl)
@[simp] theorem Fibre.markEmpty_tagCtr (x : Fibre) (win d : Nat) (tag : BitVec 16) (k : Nat) : (x.markEmpty win d tag k).tagCtr = x.tagCtr := by
  induction k generalizing x d with
  | zero => rfl
  | succ k ih =>
    unfold Fibre.markEmpty
    split
    · rfl
    · exact (ih ..).trans (by split <;> rfl)
@[simp] theorem Fibre.markEmpty_hold (x : Fibre) (win d : Nat) (tag : BitVec 16) (k : Nat) : (x.markEmpty win d tag k).hold = x.hold := by
  induction k generalizing x d with
  | zero => rfl
  | succ k ih =>
    unfold Fibre.markEmpty
    split
    · rfl
    · exact (ih ..).trans (by split <;> rfl)
@[simp] theorem Fibre.markEmpty_status (x : Fibre) (win d : Nat) (tag : BitVec 16) (k : Nat) : (x.markEmpty win d tag k).status = x.status := by
  induction k generalizing x d with
  | zero => rfl
  | succ k ih =>
    unfold Fibre.markEmpty
    split
    · rfl
    · exact (ih ..).trans (by split <;> rfl)
@[simp] theorem Fibre.markEmpty_xcopies (x : Fibre) (win d : Nat) (tag : BitVec 16) (k : Nat) : (x.markEmpty win d tag k).xcopies = x.xcopies := by
  induction k generalizing x d with
  | zero => rfl
  | succ k ih =>
    unfold Fibre.markEmpty
    split
    · rfl
    · exact (ih ..).trans (by split <;> rfl)
@[simp] theorem Fibre.markEmpty_readyAt (x : Fibre) (win d : Nat) (tag : BitVec 16) (k : Nat) : (x.markEmpty win d tag k).readyAt = x.readyAt := by
  induction k generalizing x d with
  | zero => rfl
  | succ k ih =>
    unfold Fibre.markEmpty
    split
    · rfl
    · exact (ih ..).trans (by split <;> rfl)
@[simp] theorem Fibre.markEmpty_urgentAt (x : Fibre) (win d : Nat) (tag : BitVec 16) (k : Nat) : (x.markEmpty win d tag k).urgentAt = x.urgentAt := by
  induction k generalizing x d with
  | zero => rfl
  | succ k ih =>
    unfold Fibre.markEmpty
    split
    · rfl
    · exact (ih ..).trans (by split <;> rfl)
@[simp] theorem Fibre.markEmpty_acqTime (x : Fibre) (win d : Nat) (tag : BitVec 16) (k : Nat) : (x.markEmpty win d tag k).acqTime = x.acqTime := by
  induction k generalizing x d with
  | zero => rfl
  | succ k ih =>
    unfold Fibre.markEmpty
    split
    · rfl
    · exact (ih ..).trans (by split <;> rfl)
@[simp] theorem Fibre.markEmpty_bsynced (x : Fibre) (win d : Nat) (tag : BitVec 16) (k : Nat) : (x.markEmpty win d tag k).bsynced = x.bsynced := by
  induction k generalizing x d with
  | zero => rfl
  | succ k ih =>
    unfold Fibre.markEmpty
    split
    · rfl
    · exact (ih ..).trans (by split <;> rfl)

@[simp] theorem Fibre.issued_pc (x : Fibre) (t : Nat) : (x.issued t).pc = x.pc + 8 := rfl
@[simp] theorem Fibre.issued_status (x : Fibre) (t : Nat) : (x.issued t).status = .ready := rfl
@[simp] theorem Fibre.reg_issued (x : Fibre) (t win n : Nat) : (x.issued t).reg win n = x.reg win n := rfl
@[simp] theorem Fibre.reg_holdKey (x : Fibre) (k t win n : Nat) : (x.holdKey k t).reg win n = x.reg win n := by
  unfold Fibre.holdKey; split <;> rfl
@[simp] theorem Fibre.reg_setPred (x : Fibre) (p : Nat) (v : Bool) (win n : Nat) : (x.setPred p v).reg win n = x.reg win n := by
  unfold Fibre.setPred; split <;> rfl
@[simp] theorem Fibre.pred_issued (x : Fibre) (t n : Nat) : (x.issued t).pred n = x.pred n := rfl
@[simp] theorem Fibre.pred_holdKey (x : Fibre) (k t n : Nat) : (x.holdKey k t).pred n = x.pred n := by
  unfold Fibre.holdKey; split <;> rfl
@[simp] theorem Fibre.pred_setReg (x : Fibre) (win d n : Nat) (v : Word) : (x.setReg win d v).pred n = x.pred n := by
  unfold Fibre.setReg; split <;> rfl

/-- A register after the write of one: g0 and registers outside the window are not written (R152). -/
theorem Fibre.reg_setReg (x : Fibre) (win d n : Nat) (v : Word) :
    (x.setReg win d v).reg win n = if n = d ∧ d ≠ 0 ∧ d < win then { val := v } else x.reg win n := by
  unfold Fibre.setReg
  by_cases h : d = 0 ∨ win ≤ d
  · rw [if_pos h, if_neg (by omega)]
  · rw [if_neg h]
    by_cases e : n = d
    · subst e
      rw [if_pos (by omega), Fibre.reg, if_neg h, FMap.get_set_self]
    · rw [if_neg (fun c => e c.1), Fibre.reg, Fibre.reg, FMap.get_set, if_neg (Ne.symm e)]

/-- A register after the write of a pair (R152). -/
theorem Fibre.reg_setPair (x : Fibre) (win d n : Nat) (v : DWord) :
    (x.setPair win d v).reg win n =
      if n = d ∧ d ≠ 0 ∧ d < win then { val := lo32 v }
      else if n = d + 1 ∧ d ≠ 0 ∧ d + 1 < win then { val := hi32 v } else x.reg win n := by
  unfold Fibre.setPair
  by_cases h : d = 0
  · simp [h]
  · by_cases e : n = d
    · subst e; simp [h, Fibre.reg_setReg]
    · simp [h, Fibre.reg_setReg, e]

/-- A predicate after the write of one: p0 is not written (R152). -/
theorem Fibre.pred_setPred (x : Fibre) (p n : Nat) (v : Bool) :
    (x.setPred p v).pred n = if n = p ∧ p ≠ 0 ∧ p < 16 then v else x.pred n := by
  unfold Fibre.setPred
  by_cases h : p = 0 ∨ 16 ≤ p
  · rw [if_pos h, if_neg (by omega)]
  · obtain ⟨h0, h1⟩ : p ≠ 0 ∧ p < 16 := by omega
    rw [if_neg h]
    by_cases e : n = p
    · subst e
      cases v <;> simp [Fibre.pred, h0, h1]
    · have h2 : n < 16 → (1#16 <<< p).getLsbD n = false := by
        intro h2
        simp only [BitVec.getLsbD_shiftLeft, BitVec.getLsbD_one]
        have : ¬(p ≤ n ∧ n - p = 0) := by omega
        grind
      have h3 : n < 16 ∨ x.preds.getLsbD n = false := (Nat.lt_or_ge n 16).imp_right (BitVec.getLsbD_of_ge _ _)
      cases v <;> simp only [Fibre.pred, e, false_and, if_false, if_true, BitVec.getLsbD_or, BitVec.getLsbD_and, BitVec.getLsbD_not] <;>
        grind

/-- What an advance of the issuing fibre leaves: every other fibre. -/
theorem FCtx.retire_others (q : FCtx) (s : State) (y : Fibre) {c b f : Nat} (h : (c, b, f) ≠ (q.c, q.b, q.f)) :
    (q.retire s y).fibre c b f = s.fibre c b f := State.fibre_setFibre_ne s _ h
/-- The fibre after its advance. -/
theorem FCtx.retire_fibre {q : FCtx} {s : State} (h : s.block q.c q.b = some q.k) (y : Fibre) :
    (q.retire s y).fibre q.c q.b q.f = some (y.issued s.cycle) := State.fibre_setFibre h q.f _
/-- The cores after an advance: the blocks of the issuer's core alone change. -/
theorem FCtx.retire_core {q : FCtx} {s : State} (h : s.block q.c q.b = some q.k) (y : Fibre) (c : Nat) :
    (q.retire s y).core c = if q.c = c
      then { s.core q.c with blocks := (s.core q.c).blocks.set q.b { q.k with fibres := q.k.fibres.set q.f (y.issued s.cycle) } }
      else s.core c := State.core_setFibre h q.f _ c

end Sys2Proof.Machine
end

