-- ==== Sys2Proof/Laws/Gangs.lean ====
section
/-!
SUPPORT. What a fibre's turn to issue does around its instruction: the gang that it joins, and the cycle from which a fibre that was
held back is ready.
-/
namespace Sys2Proof.Machine

@[simp] theorem joinGang_mem (s : State) (c b f pc : Nat) : (joinGang s c b f pc).mem = s.mem := rfl
@[simp] theorem joinGang_cycle (s : State) (c b f pc : Nat) : (joinGang s c b f pc).cycle = s.cycle := rfl
@[simp] theorem joinGang_tlb (s : State) (c b f pc : Nat) : (joinGang s c b f pc).tlb = s.tlb := rfl
@[simp] theorem joinGang_dev (s : State) (c b f pc : Nat) : (joinGang s c b f pc).dev = s.dev := rfl
@[simp] theorem joinGang_cur (s : State) (c b f pc : Nat) : (joinGang s c b f pc).cur = s.cur := rfl
@[simp] theorem joinGang_agenda (s : State) (c b f pc : Nat) : (joinGang s c b f pc).agenda = s.agenda := rfl

/-- Joining a gang changes no block. -/
@[simp] theorem joinGang_block (s : State) (c b f pc d e : Nat) : (joinGang s c b f pc).block d e = s.block d e := by
  unfold joinGang State.block
  rw [State.core_modCore]
  split
  · next h => subst h; rfl
  · rfl

/-- Joining a gang changes no fibre. -/
@[simp] theorem joinGang_fibre (s : State) (c b f pc d e g : Nat) : (joinGang s c b f pc).fibre d e g = s.fibre d e g := by
  unfold State.fibre
  rw [joinGang_block]

/-- A fibre's turn leaves memory as its instruction left it. -/
@[simp] theorem holdReady_mem (c b f : Nat) (s t : State) : (holdReady c b f s t).mem = t.mem := by
  unfold holdReady
  split
  · split <;> simp
  · rfl

/-- A turn without a gang leaves memory. -/
@[simp] theorem denyIssue_mem (c b f : Nat) (s : State) : (denyIssue c b f s).mem = s.mem := by simp [denyIssue]

end Sys2Proof.Machine
end

