-- ==== Sys2Proof/Laws/Issue.lean ====
section
/-!
SUPPORT. What the shared issue of a fibre instruction does (R138), said once: the conditions under which an instruction runs,
and its effect when they hold.
-/
namespace Sys2Proof.Machine
open Sys2Proof.Safety

/-- No trap is due to a fibre without pending traps in a block without pending traps (R356). -/
theorem duePending_none (k : Block) (x : Fibre) (f : Nat) (hx : x.pending = []) (hk : k.pending = []) :
    duePending k x f = none := by
  simp [duePending, hx, hk]

/-- A full source is not empty. -/
theorem Src.empty_false {r : Src} {x : Fibre} {win : Nat} (h : ∀ n ∈ r.regs, (x.reg win n).full = true) :
    r.empty x win = false := by
  simpa [Src.empty] using h

/-- A clean source names no poisoned register. -/
theorem Src.poisoned_none {r : Src} {x : Fibre} {win : Nat} (h : ∀ n ∈ r.regs, (x.reg win n).poison = false) :
    r.poisoned x win = none := by
  simpa [Src.poisoned, List.find?_eq_none] using h

/-- The operand steps of R138 when the operands are ready. -/
theorem issueActive_ready {s : State} {q : FCtx} {y : FSem} (hr : Readable s q y.srcs y.psrcs)
    (hw : dstEmpty y.dsts q.x q.k.win = false) : issueActive q y s = y.act q s := by
  have h1 : emptyTrap q y.srcs = none := by
    have e : (y.srcs.any fun r => eBit q.h r.field && r.empty q.x q.k.win) = false := by
      rw [List.any_eq_false]
      intro r m
      simp [Src.empty_false (hr.full r m)]
    simp [emptyTrap, e]
  have h2 : (y.srcs.any fun r => r.empty q.x q.k.win) = false := by
    rw [List.any_eq_false]
    intro r m
    simp [Src.empty_false (hr.full r m)]
  have h3 : (y.srcs.findSome? fun r => r.poisoned q.x q.k.win) = none := by
    rw [List.findSome?_eq_none_iff]
    intro r m
    exact Src.poisoned_none (hr.clean r m)
  simp [issueActive, FSem.keys, hr.free, h1, h2, h3, hw]

/-- The steps of R138 for an issuer whose turn it is and whose guard holds. -/
theorem issueSteps_turn {s : State} {h : FHdr} {q : FCtx} {y : FSem} (t : FibreTurn s h q) (g : q.guard = true) :
    issueSteps q y s = issueActive q y s := by
  have hm : q.h.m = 0 := by rw [t.hdr]; exact t.hint
  have hf : heldBack q.x s.cycle [256 + q.h.gp.toNat] = false := by rw [t.hdr]; exact t.free
  simp [issueSteps, duePending_none _ _ _ t.own t.shared, hm, t.unmarked, hf, g]

/-- A fibre instruction at the turn of its issuer goes through the steps of R138 and ends in a next state. -/
theorem fibreExec_turn {s : State} {h : FHdr} {q : FCtx} {y : FSem} (t : FibreTurn s h q) :
    fibreExec h y s = .next (issueSteps q y s) := by
  have hq : (⟨q.c, q.b, q.f, q.k, q.x, h, guardOf h q.x⟩ : FCtx) = q := by
    rw [← t.guardIs, ← t.hdr]
  simp only [fibreExec, t.cur, t.block, t.fibre, t.can, if_true, hq]

/-- An instruction that issues has its own effect and nothing else. -/
theorem fibreExec_issues {s : State} {h : FHdr} {q : FCtx} {y : FSem} (i : Issues s h q y.srcs y.psrcs y.dsts) :
    fibreExec h y s = .next (y.act q s) := by
  rw [fibreExec_turn i.turn, issueSteps_turn i.turn i.guard, issueActive_ready i.read i.write]

/-- A fixed-latency instruction with a 32-bit result, when its operands are ready. -/
theorem fix32_issues {s : State} {h : FHdr} {q : FCtx} {srcs : List Src} {d : BitVec 8} {lat : Nat} {v : FCtx → Word} {w : Word}
    (i : Issues s h q srcs [] [(d.toNat, 1)]) (e : v q = w) :
    fibreExec h (fix32 srcs d lat v) s = .next (q.putReg s d.toNat w lat) := by
  rw [← e]
  exact fibreExec_issues (y := fix32 srcs d lat v) i

/-- A fixed-latency instruction with a 64-bit result, when its operands are ready. -/
theorem fix64_issues {s : State} {h : FHdr} {q : FCtx} {srcs : List Src} {d : BitVec 8} {lat : Nat} {v : FCtx → DWord} {w : DWord}
    (i : Issues s h q srcs [] [(d.toNat, 2)]) (e : v q = w) :
    fibreExec h (fix64 srcs d lat v) s = .next (q.putPair s d.toNat w lat) := by
  rw [← e]
  exact fibreExec_issues (y := fix64 srcs d lat v) i

/-- A fixed-latency instruction with a predicate result, when its operands are ready. -/
theorem fixPred_issues {s : State} {h : FHdr} {q : FCtx} {srcs : List Src} {ps : List Nat} {p : BitVec 8} {lat : Nat}
    {v : FCtx → Bool} {w : Bool} (i : Issues s h q srcs ps []) (e : v q = w) :
    fibreExec h (fixPred srcs ps p lat v) s = .next (q.putPred s p.toNat w lat) := by
  rw [← e]
  exact fibreExec_issues (y := fixPred srcs ps p lat v) i

/-- An instruction whose guard is false, and that is no rendezvous, only advances (R138 step 2). -/
theorem fibreExec_unguarded {s : State} {h : FHdr} {q : FCtx} {y : FSem} (t : FibreTurn s h q) (g : q.guard = false)
    (r : y.rendezvous = false) : fibreExec h y s = .next (q.retire s q.x) := by
  have hm : q.h.m = 0 := by rw [t.hdr]; exact t.hint
  have hf : heldBack q.x s.cycle [256 + q.h.gp.toNat] = false := by rw [t.hdr]; exact t.free
  rw [fibreExec_turn t]
  simp [issueSteps, duePending_none _ _ _ t.own t.shared, hm, t.unmarked, hf, g, r]

end Sys2Proof.Machine
end

