-- ==== Sys2Proof/Laws/Memory.lean ====
section
/-!
SUPPORT. Memory: every operation keeps the canonical form, and a byte reads as it was last written.
-/
namespace Sys2Proof.Machine

/-- Whether every address of a list lies above a bound. -/
def above : Option Nat → Nat → Prop
  | none, _ => True
  | some lo, a => lo < a

/-- The canonical form of a list with a first cell. -/
theorem memWfFrom_cons (lo : Option Nat) (k : Nat) (v : Byte) (t : List Host.Cell) :
    memWfFrom lo ((k, v) :: t) = true ↔ above lo k ∧ v ≠ 0 ∧ memWfFrom (some k) t = true := by
  cases lo <;> simp [memWfFrom, above]

/-- The canonical form holds above every lower bound. -/
theorem memWfFrom_weaken {lo : Option Nat} {k : Nat} {t : List Host.Cell} (h : memWfFrom (some k) t = true) (hk : above lo k) :
    memWfFrom lo t = true := by
  cases t with
  | nil => cases lo <;> rfl
  | cons p t =>
    obtain ⟨j, v⟩ := p
    rw [memWfFrom_cons] at h ⊢
    refine ⟨?_, h.2⟩
    cases lo with
    | none => trivial
    | some l => exact Nat.lt_trans hk h.1

/-- Nothing is listed at or below the bound. -/
theorem memGet_below {k : Nat} {m : List Host.Cell} (h : memWfFrom (some k) m = true) {a : Nat} (ha : a ≤ k) : memGet m a = 0 := by
  cases m with
  | nil => rfl
  | cons p t =>
    obtain ⟨j, v⟩ := p
    rw [memWfFrom_cons] at h
    have hj : k < j := h.1
    simp only [memGet]
    rw [if_neg (by omega), if_pos (by omega)]

/-- Setting a byte keeps the canonical form. -/
theorem memSet_wfFrom {lo : Option Nat} {m : List Host.Cell} (h : memWfFrom lo m = true) {a : Nat} (v : Byte) (ha : above lo a) :
    memWfFrom lo (memSet m a v) = true := by
  induction m generalizing lo with
  | nil =>
    simp only [memSet]
    split
    · cases lo <;> rfl
    · rw [memWfFrom_cons]; exact ⟨ha, ‹_›, rfl⟩
  | cons p t ih =>
    obtain ⟨k, w⟩ := p
    have h' := h
    rw [memWfFrom_cons] at h'
    obtain ⟨hk, hw, ht⟩ := h'
    simp only [memSet]
    split
    · rw [memWfFrom_cons]; exact ⟨hk, hw, ih ht ‹_›⟩
    · split
      · split
        · exact memWfFrom_weaken ht hk
        · rw [memWfFrom_cons]; exact ⟨hk, ‹_›, ht⟩
      · split
        · exact h
        · rw [memWfFrom_cons]
          refine ⟨ha, ‹_›, ?_⟩
          rw [memWfFrom_cons]
          exact ⟨show a < k by omega, hw, ht⟩

/-- Setting a byte keeps the canonical form of memory. -/
theorem memSet_wf {m : List Host.Cell} (h : Memory.wf m = true) (a : Nat) (v : Byte) : Memory.wf (memSet m a v) = true :=
  memSet_wfFrom h v trivial

/-- Writing bytes keeps the canonical form of memory. -/
theorem memPut_wf {m : List Host.Cell} (h : Memory.wf m = true) (a : Nat) (l : List Byte) : Memory.wf (memPut m a l) = true := by
  induction l generalizing m a with
  | nil => exact h
  | cons b t ih => exact ih (memSet_wf h a b) (a + 1)

/-- A byte after one has been set. -/
theorem memGet_memSet_from {lo : Option Nat} {m : List Host.Cell} (h : memWfFrom lo m = true) (a b : Nat) (v : Byte) :
    memGet (memSet m a v) b = if b = a then v else memGet m b := by
  induction m generalizing lo with
  | nil =>
    simp only [memSet]
    split
    · subst_vars; simp [memGet]
    · simp only [memGet]
      by_cases e : a = b
      · simp [e]
      · simp [e, Ne.symm e]
  | cons p t ih =>
    obtain ⟨k, w⟩ := p
    rw [memWfFrom_cons] at h
    obtain ⟨-, -, ht⟩ := h
    simp only [memSet]
    split
    · simp only [memGet, ih ht]
      repeat' split
      all_goals first | rfl | omega
    · split
      · subst_vars
        split
        · subst_vars
          simp only [memGet]
          repeat' split
          all_goals first | rfl | omega | exact memGet_below ht (by omega)
        · simp only [memGet]
          repeat' split
          all_goals first | rfl | omega
      · split
        · subst_vars
          simp only [memGet]
          repeat' split
          all_goals first | rfl | omega
        · simp only [memGet]
          repeat' split
          all_goals first | rfl | omega

/-- A byte after one has been set. -/
theorem memGet_memSet {m : List Host.Cell} (h : Memory.wf m = true) (a b : Nat) (v : Byte) :
    memGet (memSet m a v) b = if b = a then v else memGet m b := memGet_memSet_from h a b v

/-- A byte after bytes have been written. -/
theorem memGet_memPut {m : List Host.Cell} (h : Memory.wf m = true) (a b : Nat) (l : List Byte) :
    memGet (memPut m a l) b = if a ≤ b ∧ b < a + l.length then l.getD (b - a) 0 else memGet m b := by
  induction l generalizing m a with
  | nil => rw [if_neg (by intro h; simp only [List.length_nil] at h; omega)]; rfl
  | cons x t ih =>
    simp only [memPut, ih (memSet_wf h a x), memGet_memSet h, List.length_cons]
    by_cases h1 : b = a
    · subst h1
      rw [if_neg (by omega), if_pos rfl, if_pos (by omega)]
      simp
    · by_cases h2 : a + 1 ≤ b ∧ b < a + 1 + t.length
      · rw [if_pos h2, if_pos (by omega)]
        obtain ⟨n, hn⟩ : ∃ n, b - a = n + 1 := ⟨b - a - 1, by omega⟩
        rw [hn, List.getD_cons_succ]
        congr 1; omega
      · rw [if_neg h2, if_neg h1, if_neg (by omega)]

/-- Bytes that a write does not touch. -/
theorem memBytes_memPut_disjoint {m : List Host.Cell} (h : Memory.wf m = true) (a b n : Nat) (l : List Byte)
    (d : b + n ≤ a ∨ a + l.length ≤ b) : memBytes (memPut m a l) b n = memBytes m b n := by
  induction n generalizing b with
  | zero => rfl
  | succ n ih =>
    simp only [memBytes]
    rw [ih (b + 1) (by omega), memGet_memPut h, if_neg (by omega)]

/-- The bytes that were written. -/
theorem memBytes_memPut {m : List Host.Cell} (h : Memory.wf m = true) (a : Nat) (l : List Byte) :
    memBytes (memPut m a l) a l.length = l := by
  have key : ∀ (j n : Nat), j + n = l.length → memBytes (memPut m a l) (a + j) n = l.drop j := by
    intro j n
    induction n generalizing j with
    | zero => intro e; simp [memBytes]; omega
    | succ n ih =>
      intro e
      simp only [memBytes]
      rw [memGet_memPut h, if_pos (by omega)]
      have := ih (j + 1) (by omega)
      rw [show a + (j + 1) = a + j + 1 from by omega] at this
      rw [this]
      have hj : j < l.length := by omega
      rw [List.drop_eq_getElem_cons hj]
      simp [hj, List.getD_eq_getElem?_getD]
  have := key 0 l.length (by omega)
  simpa using this

/-- The reset state's memory is canonical. -/
theorem reset_mem_wf : Memory.wf State.reset.mem = true := rfl

/-- The views of format windows leave the L2: memory stays. -/
@[simp] theorem dropViews_mem (s : State) (st w : Nat) (g : Option Nat) : (dropViews s st w g).mem = s.mem := rfl

/-- Views leaving the L2 one after another leave memory as it was. -/
theorem foldl_dropViews_mem (l : List (Nat × Nat × Nat)) (s : State) :
    (l.foldl (fun s (p : Nat × Nat × Nat) => dropViews s p.1 p.2.1 (some p.2.2)) s).mem = s.mem := by
  induction l generalizing s with
  | nil => rfl
  | cons p t ih => rw [List.foldl_cons, ih, dropViews_mem]

/-- Memory after bytes have been stored. -/
@[simp] theorem storeBytes_mem (s : State) (key pa : Nat) (l : List Byte) : (storeBytes s key pa l).mem = memPut s.mem pa l := by
  simp [storeBytes, foldl_dropViews_mem]

/-- An error-ring entry keeps memory canonical. -/
theorem errorEntry_wf {s : State} (h : Memory.wf s.mem = true) (kind ctx unit count pa : Nat) :
    Memory.wf (errorEntry s kind ctx unit count pa).mem = true := by
  unfold errorEntry
  simp only
  split
  · exact h
  · split <;> simp [memPut_wf h, h]

/-- A write at a physical address keeps memory canonical. -/
theorem physWrite_wf {s : State} (h : Memory.wf s.mem = true) (ctx key pa : Nat) (l : List Byte) :
    Memory.wf (physWrite s ctx key pa l).mem = true := by
  unfold physWrite
  split
  · exact errorEntry_wf h ..
  · split
    · exact errorEntry_wf h ..
    · split
      · exact errorEntry_wf h ..
      · split
        · exact h
        · simp [memPut_wf h]

/-- Memory after a write to backed memory under a key that is there. -/
theorem physWrite_mem {s : State} {ctx key pa : Nat} {l : List Byte} (b : backed pa = true) (e : backed (pa + l.length - 1) = true)
    (k : keyGone s key = false) : (physWrite s ctx key pa l).mem = memPut s.mem pa l := by
  have hp : pa < aliasBase := by
    simp only [backed, Bool.and_eq_true, decide_eq_true_eq] at b
    simp only [aliasBase]; omega
  simp [physWrite, Nat.not_le.mpr hp, b, e, k]

/-- Writing at virtual addresses keeps memory canonical. -/
theorem writeVirtGo_wf {s : State} (h : Memory.wf s.mem = true) (ctx fuel va : Nat) (l : List Byte) :
    Memory.wf (writeVirtGo s ctx fuel va l).mem = true := by
  induction fuel generalizing s va l with
  | zero => exact h
  | succ n ih =>
    simp only [writeVirtGo]
    split
    · exact h
    · apply ih
      split
      · exact physWrite_wf h ..
      · exact h

/-- Writing at virtual addresses keeps memory canonical. -/
theorem writeVirt_wf {s : State} (h : Memory.wf s.mem = true) (ctx va : Nat) (l : List Byte) :
    Memory.wf (writeVirt s ctx va l).mem = true := writeVirtGo_wf h ..

end Sys2Proof.Machine
end

