-- ==== Sys2Proof/Laws/Tile.lean ====
section
/-!
SUPPORT. What the shared issue of a tile bundle does (R220), said once for a slot operation alone in its bundle, and what a
stream word does (R282, R287).
-/
namespace Sys2Proof.Machine
open Sys2Proof.Safety

/-- The running program that a core's tile context describes is that core's. -/
theorem tileCtx_core {s : State} {c : Nat} {q : TCtx} (h : tileCtx s c = some q) : q.c = c ∧ q.q = s.core c ∧ q.pc = (s.core c).tsq.pc := by
  unfold tileCtx at h
  split at h
  · exact absurd h (by simp)
  · split at h
    · exact absurd h (by simp)
    · split at h
      · cases h; exact ⟨rfl, rfl, rfl⟩
      · exact absurd h (by simp)

/-- A bundle at the turn of its program goes through the steps of R220. -/
theorem tileExec_turn {s : State} {c : Nat} {q : TCtx} (t : TileTurn s c q) (l : TCtx → List SlotSem) (rot : Bool) :
    tileExec l rot s = .next (issueSlots q (l q) rot s) := by
  simp [tileExec, t.cur, t.ctx, t.may, t.own, t.unmarked]

/-- Where no row of the core holds an error, a slot's effects are as its operation gives them. -/
theorem run_sound {q : TCtx} (h : q.q.acmBad = []) (x : SlotSem) (s : State) : x.run q s = x.commit q s := by
  simp [SlotSem.run, Core.rowBad, unitBad, h]

/-- A slot operation whose guard holds, and that neither waits nor fails, has its effects and what follows them. -/
theorem slotExec_issues {s : State} {c : Nat} {q : TCtx} {g : SGuard} {x : SlotSem} (t : TileTurn s c q)
    (hg : guardHolds q.q.tsq g = true) (hw : x.wait q s = none) (hc : x.check q s = none) :
    slotExec g x s = .next (x.after q (x.commit q (bundleIssued q s))) := by
  rw [← run_sound t.sound]
  simp only [slotExec, tileExec_turn t, hg, if_true, issueSlots, List.findSome?_cons, List.findSome?_nil, hw, hc]
  rfl

/-- A slot operation whose guard is false does nothing but let the program go on. -/
theorem slotExec_unguarded {s : State} {c : Nat} {q : TCtx} {g : SGuard} {x : SlotSem} (t : TileTurn s c q)
    (hg : guardHolds q.q.tsq g = false) : slotExec g x s = .next (bundleIssued q s) := by
  simp only [slotExec, tileExec_turn t, hg]
  rfl

/-- A slot operation that fails a check takes its trap. -/
theorem slotExec_traps {s : State} {c : Nat} {q : TCtx} {g : SGuard} {x : SlotSem} {e : TTrap} (t : TileTurn s c q)
    (hg : guardHolds q.q.tsq g = true) (hw : x.wait q s = none) (hc : x.check q s = some e) :
    slotExec g x s = .next (q.trap s e) := by
  simp only [slotExec, tileExec_turn t, hg, if_true, issueSlots, List.findSome?_cons, List.findSome?_nil, hw, hc]

/-- A slot operation that waits at issue leaves its program waiting. -/
theorem slotExec_waits {s : State} {c : Nat} {q : TCtx} {g : SGuard} {x : SlotSem} {w : Wait} (t : TileTurn s c q)
    (hg : guardHolds q.q.tsq g = true) (hw : x.wait q s = some w) :
    slotExec g x s = .next (s.modCore q.c fun k => { k with tsq := { k.tsq with wait := some w } }) := by
  simp only [slotExec, tileExec_turn t, hg, if_true, issueSlots, List.findSome?_cons, hw]

/-- A slot operation that neither waits nor fails leaves the state that its effects give. -/
theorem Tile.of {s : State} {c : Nat} {q : TCtx} {g : SGuard} {i : Instr} {t : State} {x : SlotSem}
    (e : exec i s = slotExec g x s) (hw : x.wait q s = none) (hc : x.check q s = none)
    (ht : x.after q (x.commit q (bundleIssued q s)) = t) : Tile s c q g i t :=
  fun h => ⟨fun hg => by rw [e, slotExec_issues h hg hw hc, ht], fun hg => by rw [e, slotExec_unguarded h hg]⟩

/-- A slot operation that fails a check takes its trap. -/
theorem TileTraps.of {s : State} {c : Nat} {q : TCtx} {g : SGuard} {i : Instr} {t : TTrap} {x : SlotSem}
    (e : exec i s = slotExec g x s) (hw : x.wait q s = none) (hc : x.check q s = some t) : TileTraps s c q g i t :=
  fun h hg => by rw [e, slotExec_traps h hg hw hc]

/-- A slot operation that waits. -/
theorem TileWaits.of {s : State} {c : Nat} {q : TCtx} {g : SGuard} {i : Instr} {w : Wait} {x : SlotSem}
    (e : exec i s = slotExec g x s) (hw : x.wait q s = some w) : TileWaits s c q g i w :=
  fun h hg => by rw [e, slotExec_waits h hg hw]

end Sys2Proof.Machine
end

