-- ==== Sys2Proof/Laws/Writes.lean ====
section
/-!
SUPPORT. What a write to memory leaves: the cores, the clusters and everything else of the hub but the error ring.
-/
namespace Sys2Proof.Machine

/-- A field that the loss of cached views leaves stays through all of them. -/
theorem foldl_dropViews {α : Type} (g : State → α) (hg : ∀ (s : State) (m : FMap Slice), g { s with slices := m } = g s)
    (l : List (Nat × Nat × Nat)) (s : State) : g (l.foldl (fun s (p : Nat × Nat × Nat) => dropViews s p.1 p.2.1 (some p.2.2)) s) = g s := by
  induction l generalizing s with
  | nil => rfl
  | cons p t ih => rw [List.foldl_cons, ih]; exact hg s _

/-- A field that a store leaves. -/
theorem storeBytes_keeps {α : Type} (g : State → α)
    (hg : ∀ (s : State) m tg sl se b, g { s with mem := m, tags := tg, slices := sl, seals := se, bad := b } = g s)
    (s : State) (key pa : Nat) (l : List Byte) : g (storeBytes s key pa l) = g s :=
  (hg _ _ _ _ _ _).trans (foldl_dropViews g (fun s m => hg s s.mem s.tags m s.seals s.bad) _ s)

/-- Under which key a byte counts as written after bytes have been written under one (R381). -/
theorem find?_tagPut (m : FMap Nat) (t a n x : Nat) :
    (tagPut m (some t) a n).find? x = if a ≤ x ∧ x < a + n then some t else m.find? x := by
  induction n generalizing m a with
  | zero => rw [if_neg (by omega)]; rfl
  | succ n ih =>
    simp only [tagPut, ih, FMap.find?_set]
    split
    · rw [if_pos (by omega)]
    · split
      · rw [if_pos (by omega)]
      · rw [if_neg (by omega)]

/-- A byte read under the key under which a store wrote it is the byte stored (R381). -/
theorem plainByte_storeBytes {s : State} (h : Memory.wf s.mem = true) {key : Nat} (hk : key < 64) (pa x : Nat) (l : List Byte)
    (hx : pa ≤ x) (hl : x < pa + l.length) : plainByte (storeBytes s key pa l) key x = l.getD (x - pa) 0 := by
  have ht : (storeBytes s key pa l).tags.find? x = some (keyTag s key) := by
    have ho : ((viewsOf s pa l.length).foldl (fun s (p : Nat × Nat × Nat) => dropViews s p.1 p.2.1 (some p.2.2)) s).keys = s.keys :=
      foldl_dropViews (·.keys) (fun _ _ => rfl) _ s
    show (tagPut _ (writeTag _ key) pa l.length).find? x = _
    rw [writeTag, if_pos hk, find?_tagPut, if_pos ⟨hx, hl⟩]
    exact congrArg some (by simp only [keyTag]; rw [ho])
  have hkey : keyTag (storeBytes s key pa l) key = keyTag s key := storeBytes_keeps (keyTag · key) (fun _ _ _ _ _ _ => rfl) s key pa l
  have hm : (storeBytes s key pa l).mem = memPut s.mem pa l := by
    show memPut _ pa l = _
    rw [foldl_dropViews (·.mem) (fun _ _ => rfl)]
  simp only [plainByte, ht, hkey, if_true, hm]
  rw [memGet_memPut h, if_pos ⟨hx, hl⟩]

/-- A field that an error-ring entry leaves. -/
theorem errorEntry_keeps {α : Type} (g : State → α)
    (hg : ∀ (s : State) m tg sl se b d e, g { s with mem := m, tags := tg, slices := sl, seals := se, bad := b, dev := d, errLost := e } = g s)
    (s : State) (kind ctx unit count pa : Nat) : g (errorEntry s kind ctx unit count pa) = g s := by
  have hd (t : State) (o : Nat) (v : BitVec 64) (e : Nat) : g (devSet { t with errLost := e } o v) = g t :=
    hg t t.mem t.tags t.slices t.seals t.bad _ e
  unfold errorEntry
  dsimp only
  split
  · exact hg s s.mem s.tags s.slices s.seals s.bad s.dev _
  · rw [hd]
    split
    · exact storeBytes_keeps g (fun s m tg sl se b => hg s m tg sl se b s.dev s.errLost) s _ _ _
    · rfl

/-- A field that a write at a physical address leaves. -/
theorem physWrite_keeps {α : Type} (g : State → α)
    (hg : ∀ (s : State) m tg sl se b d e, g { s with mem := m, tags := tg, slices := sl, seals := se, bad := b, dev := d, errLost := e } = g s)
    (s : State) (ctx key pa : Nat) (l : List Byte) : g (physWrite s ctx key pa l) = g s := by
  unfold physWrite
  split
  · exact errorEntry_keeps g hg ..
  · split
    · exact errorEntry_keeps g hg ..
    · split
      · exact errorEntry_keeps g hg ..
      · split
        · rfl
        · exact storeBytes_keeps g (fun s m tg sl se b => hg s m tg sl se b s.dev s.errLost) s _ _ _

/-- A field that writes at virtual addresses leave. -/
theorem writeVirt_keeps {α : Type} (g : State → α)
    (hg : ∀ (s : State) m tg sl se b d e, g { s with mem := m, tags := tg, slices := sl, seals := se, bad := b, dev := d, errLost := e } = g s)
    (s : State) (ctx va : Nat) (l : List Byte) : g (writeVirt s ctx va l) = g s := by
  have (fuel : Nat) : ∀ (s : State) va l, g (writeVirtGo s ctx fuel va l) = g s := by
    induction fuel with
    | zero => intros; rfl
    | succ n ih =>
      intro s va l
      simp only [writeVirtGo]
      split
      · rfl
      · rw [ih]
        split
        · exact physWrite_keeps g hg ..
        · rfl
  exact this _ s va l

/-- A field that a fault-log entry leaves. -/
theorem faultLog_keeps {α : Type} (g : State → α)
    (hg : ∀ (s : State) m tg sl se b d e q l, g { s with mem := m, tags := tg, slices := sl, seals := se, bad := b, dev := d, errLost := e, irqs := q, logIdx := l } = g s)
    (s : State) (ctx kind core fib slot frame : Nat) (info stop : List Byte) : g (faultLog s ctx kind core fib slot frame info stop) = g s := by
  have hl (t : State) (l : FMap Nat) : g { t with logIdx := l } = g t := hg t t.mem t.tags t.slices t.seals t.bad t.dev t.errLost t.irqs l
  have hr (t : State) (v : Nat) : g (raiseIrq t ctx v) = g t := by
    unfold raiseIrq
    split <;> exact hg t t.mem t.tags t.slices t.seals t.bad t.dev t.errLost _ t.logIdx
  unfold faultLog
  dsimp only
  rw [hr, hl]
  exact writeVirt_keeps g (fun s m tg sl se b d e => hg s m tg sl se b d e s.irqs s.logIdx) ..

/-- A fault-log entry advances the log of its context (R369). -/
theorem faultLog_logIdx (s : State) (ctx kind core fib slot frame : Nat) (info stop : List Byte) :
    (faultLog s ctx kind core fib slot frame info stop).logIdx = s.logIdx.set ctx (s.logIdx.get ctx 0 + 1) := by
  have hr (t : State) (v : Nat) : (raiseIrq t ctx v).logIdx = t.logIdx := by unfold raiseIrq; split <;> rfl
  unfold faultLog
  dsimp only
  rw [hr]
  exact congrArg (fun l => FMap.set l ctx (s.logIdx.get ctx 0 + 1)) (writeVirt_keeps (·.logIdx) (by intros; rfl) ..)

@[simp] theorem storeBytes_agenda (s : State) (key pa : Nat) (l : List Byte) : (storeBytes s key pa l).agenda = s.agenda :=
  storeBytes_keeps (·.agenda) (by intros; rfl) ..
@[simp] theorem storeBytes_cur (s : State) (key pa : Nat) (l : List Byte) : (storeBytes s key pa l).cur = s.cur :=
  storeBytes_keeps (·.cur) (by intros; rfl) ..
@[simp] theorem storeBytes_free (s : State) (key pa : Nat) (l : List Byte) : (storeBytes s key pa l).free = s.free :=
  storeBytes_keeps (·.free) (by intros; rfl) ..
@[simp] theorem storeBytes_cycle (s : State) (key pa : Nat) (l : List Byte) : (storeBytes s key pa l).cycle = s.cycle :=
  storeBytes_keeps (·.cycle) (by intros; rfl) ..
@[simp] theorem storeBytes_dev (s : State) (key pa : Nat) (l : List Byte) : (storeBytes s key pa l).dev = s.dev :=
  storeBytes_keeps (·.dev) (by intros; rfl) ..
@[simp] theorem storeBytes_cores (s : State) (key pa : Nat) (l : List Byte) : (storeBytes s key pa l).cores = s.cores :=
  storeBytes_keeps (·.cores) (by intros; rfl) ..
@[simp] theorem storeBytes_clusters (s : State) (key pa : Nat) (l : List Byte) : (storeBytes s key pa l).clusters = s.clusters :=
  storeBytes_keeps (·.clusters) (by intros; rfl) ..
@[simp] theorem storeBytes_irqs (s : State) (key pa : Nat) (l : List Byte) : (storeBytes s key pa l).irqs = s.irqs :=
  storeBytes_keeps (·.irqs) (by intros; rfl) ..
@[simp] theorem storeBytes_images (s : State) (key pa : Nat) (l : List Byte) : (storeBytes s key pa l).images = s.images :=
  storeBytes_keeps (·.images) (by intros; rfl) ..
@[simp] theorem storeBytes_loads (s : State) (key pa : Nat) (l : List Byte) : (storeBytes s key pa l).loads = s.loads :=
  storeBytes_keeps (·.loads) (by intros; rfl) ..
@[simp] theorem storeBytes_tlb (s : State) (key pa : Nat) (l : List Byte) : (storeBytes s key pa l).tlb = s.tlb :=
  storeBytes_keeps (·.tlb) (by intros; rfl) ..
@[simp] theorem storeBytes_walks (s : State) (key pa : Nat) (l : List Byte) : (storeBytes s key pa l).walks = s.walks :=
  storeBytes_keeps (·.walks) (by intros; rfl) ..
@[simp] theorem storeBytes_launches (s : State) (key pa : Nat) (l : List Byte) : (storeBytes s key pa l).launches = s.launches :=
  storeBytes_keeps (·.launches) (by intros; rfl) ..
@[simp] theorem storeBytes_order (s : State) (key pa : Nat) (l : List Byte) : (storeBytes s key pa l).order = s.order :=
  storeBytes_keeps (·.order) (by intros; rfl) ..
@[simp] theorem storeBytes_logIdx (s : State) (key pa : Nat) (l : List Byte) : (storeBytes s key pa l).logIdx = s.logIdx :=
  storeBytes_keeps (·.logIdx) (by intros; rfl) ..
@[simp] theorem storeBytes_errLost (s : State) (key pa : Nat) (l : List Byte) : (storeBytes s key pa l).errLost = s.errLost :=
  storeBytes_keeps (·.errLost) (by intros; rfl) ..
@[simp] theorem storeBytes_saves (s : State) (key pa : Nat) (l : List Byte) : (storeBytes s key pa l).saves = s.saves :=
  storeBytes_keeps (·.saves) (by intros; rfl) ..
@[simp] theorem storeBytes_core (s : State) (key pa : Nat) (l : List Byte) (c : Nat) : (storeBytes s key pa l).core c = s.core c :=
  storeBytes_keeps (·.core c) (by intros; rfl) ..
@[simp] theorem storeBytes_block (s : State) (key pa : Nat) (l : List Byte) (c k : Nat) : (storeBytes s key pa l).block c k = s.block c k :=
  storeBytes_keeps (·.block c k) (by intros; rfl) ..
@[simp] theorem storeBytes_fibre (s : State) (key pa : Nat) (l : List Byte) (c k f : Nat) : (storeBytes s key pa l).fibre c k f = s.fibre c k f :=
  storeBytes_keeps (·.fibre c k f) (by intros; rfl) ..

@[simp] theorem errorEntry_agenda (s : State) (kind ctx unit count pa : Nat) : (errorEntry s kind ctx unit count pa).agenda = s.agenda :=
  errorEntry_keeps (·.agenda) (by intros; rfl) ..
@[simp] theorem errorEntry_cur (s : State) (kind ctx unit count pa : Nat) : (errorEntry s kind ctx unit count pa).cur = s.cur :=
  errorEntry_keeps (·.cur) (by intros; rfl) ..
@[simp] theorem errorEntry_free (s : State) (kind ctx unit count pa : Nat) : (errorEntry s kind ctx unit count pa).free = s.free :=
  errorEntry_keeps (·.free) (by intros; rfl) ..
@[simp] theorem errorEntry_cycle (s : State) (kind ctx unit count pa : Nat) : (errorEntry s kind ctx unit count pa).cycle = s.cycle :=
  errorEntry_keeps (·.cycle) (by intros; rfl) ..
@[simp] theorem errorEntry_cores (s : State) (kind ctx unit count pa : Nat) : (errorEntry s kind ctx unit count pa).cores = s.cores :=
  errorEntry_keeps (·.cores) (by intros; rfl) ..
@[simp] theorem errorEntry_clusters (s : State) (kind ctx unit count pa : Nat) : (errorEntry s kind ctx unit count pa).clusters = s.clusters :=
  errorEntry_keeps (·.clusters) (by intros; rfl) ..
@[simp] theorem errorEntry_irqs (s : State) (kind ctx unit count pa : Nat) : (errorEntry s kind ctx unit count pa).irqs = s.irqs :=
  errorEntry_keeps (·.irqs) (by intros; rfl) ..
@[simp] theorem errorEntry_images (s : State) (kind ctx unit count pa : Nat) : (errorEntry s kind ctx unit count pa).images = s.images :=
  errorEntry_keeps (·.images) (by intros; rfl) ..
@[simp] theorem errorEntry_loads (s : State) (kind ctx unit count pa : Nat) : (errorEntry s kind ctx unit count pa).loads = s.loads :=
  errorEntry_keeps (·.loads) (by intros; rfl) ..
@[simp] theorem errorEntry_tlb (s : State) (kind ctx unit count pa : Nat) : (errorEntry s kind ctx unit count pa).tlb = s.tlb :=
  errorEntry_keeps (·.tlb) (by intros; rfl) ..
@[simp] theorem errorEntry_walks (s : State) (kind ctx unit count pa : Nat) : (errorEntry s kind ctx unit count pa).walks = s.walks :=
  errorEntry_keeps (·.walks) (by intros; rfl) ..
@[simp] theorem errorEntry_launches (s : State) (kind ctx unit count pa : Nat) : (errorEntry s kind ctx unit count pa).launches = s.launches :=
  errorEntry_keeps (·.launches) (by intros; rfl) ..
@[simp] theorem errorEntry_order (s : State) (kind ctx unit count pa : Nat) : (errorEntry s kind ctx unit count pa).order = s.order :=
  errorEntry_keeps (·.order) (by intros; rfl) ..
@[simp] theorem errorEntry_logIdx (s : State) (kind ctx unit count pa : Nat) : (errorEntry s kind ctx unit count pa).logIdx = s.logIdx :=
  errorEntry_keeps (·.logIdx) (by intros; rfl) ..
@[simp] theorem errorEntry_saves (s : State) (kind ctx unit count pa : Nat) : (errorEntry s kind ctx unit count pa).saves = s.saves :=
  errorEntry_keeps (·.saves) (by intros; rfl) ..
@[simp] theorem errorEntry_core (s : State) (kind ctx unit count pa : Nat) (c : Nat) : (errorEntry s kind ctx unit count pa).core c = s.core c :=
  errorEntry_keeps (·.core c) (by intros; rfl) ..
@[simp] theorem errorEntry_block (s : State) (kind ctx unit count pa : Nat) (c k : Nat) : (errorEntry s kind ctx unit count pa).block c k = s.block c k :=
  errorEntry_keeps (·.block c k) (by intros; rfl) ..
@[simp] theorem errorEntry_fibre (s : State) (kind ctx unit count pa : Nat) (c k f : Nat) : (errorEntry s kind ctx unit count pa).fibre c k f = s.fibre c k f :=
  errorEntry_keeps (·.fibre c k f) (by intros; rfl) ..

@[simp] theorem physWrite_agenda (s : State) (ctx key pa : Nat) (l : List Byte) : (physWrite s ctx key pa l).agenda = s.agenda :=
  physWrite_keeps (·.agenda) (by intros; rfl) ..
@[simp] theorem physWrite_cur (s : State) (ctx key pa : Nat) (l : List Byte) : (physWrite s ctx key pa l).cur = s.cur :=
  physWrite_keeps (·.cur) (by intros; rfl) ..
@[simp] theorem physWrite_free (s : State) (ctx key pa : Nat) (l : List Byte) : (physWrite s ctx key pa l).free = s.free :=
  physWrite_keeps (·.free) (by intros; rfl) ..
@[simp] theorem physWrite_cycle (s : State) (ctx key pa : Nat) (l : List Byte) : (physWrite s ctx key pa l).cycle = s.cycle :=
  physWrite_keeps (·.cycle) (by intros; rfl) ..
@[simp] theorem physWrite_cores (s : State) (ctx key pa : Nat) (l : List Byte) : (physWrite s ctx key pa l).cores = s.cores :=
  physWrite_keeps (·.cores) (by intros; rfl) ..
@[simp] theorem physWrite_clusters (s : State) (ctx key pa : Nat) (l : List Byte) : (physWrite s ctx key pa l).clusters = s.clusters :=
  physWrite_keeps (·.clusters) (by intros; rfl) ..
@[simp] theorem physWrite_irqs (s : State) (ctx key pa : Nat) (l : List Byte) : (physWrite s ctx key pa l).irqs = s.irqs :=
  physWrite_keeps (·.irqs) (by intros; rfl) ..
@[simp] theorem physWrite_images (s : State) (ctx key pa : Nat) (l : List Byte) : (physWrite s ctx key pa l).images = s.images :=
  physWrite_keeps (·.images) (by intros; rfl) ..
@[simp] theorem physWrite_loads (s : State) (ctx key pa : Nat) (l : List Byte) : (physWrite s ctx key pa l).loads = s.loads :=
  physWrite_keeps (·.loads) (by intros; rfl) ..
@[simp] theorem physWrite_tlb (s : State) (ctx key pa : Nat) (l : List Byte) : (physWrite s ctx key pa l).tlb = s.tlb :=
  physWrite_keeps (·.tlb) (by intros; rfl) ..
@[simp] theorem physWrite_walks (s : State) (ctx key pa : Nat) (l : List Byte) : (physWrite s ctx key pa l).walks = s.walks :=
  physWrite_keeps (·.walks) (by intros; rfl) ..
@[simp] theorem physWrite_launches (s : State) (ctx key pa : Nat) (l : List Byte) : (physWrite s ctx key pa l).launches = s.launches :=
  physWrite_keeps (·.launches) (by intros; rfl) ..
@[simp] theorem physWrite_order (s : State) (ctx key pa : Nat) (l : List Byte) : (physWrite s ctx key pa l).order = s.order :=
  physWrite_keeps (·.order) (by intros; rfl) ..
@[simp] theorem physWrite_logIdx (s : State) (ctx key pa : Nat) (l : List Byte) : (physWrite s ctx key pa l).logIdx = s.logIdx :=
  physWrite_keeps (·.logIdx) (by intros; rfl) ..
@[simp] theorem physWrite_saves (s : State) (ctx key pa : Nat) (l : List Byte) : (physWrite s ctx key pa l).saves = s.saves :=
  physWrite_keeps (·.saves) (by intros; rfl) ..
@[simp] theorem physWrite_core (s : State) (ctx key pa : Nat) (l : List Byte) (c : Nat) : (physWrite s ctx key pa l).core c = s.core c :=
  physWrite_keeps (·.core c) (by intros; rfl) ..
@[simp] theorem physWrite_block (s : State) (ctx key pa : Nat) (l : List Byte) (c k : Nat) : (physWrite s ctx key pa l).block c k = s.block c k :=
  physWrite_keeps (·.block c k) (by intros; rfl) ..
@[simp] theorem physWrite_fibre (s : State) (ctx key pa : Nat) (l : List Byte) (c k f : Nat) : (physWrite s ctx key pa l).fibre c k f = s.fibre c k f :=
  physWrite_keeps (·.fibre c k f) (by intros; rfl) ..

@[simp] theorem writeVirt_agenda (s : State) (ctx va : Nat) (l : List Byte) : (writeVirt s ctx va l).agenda = s.agenda :=
  writeVirt_keeps (·.agenda) (by intros; rfl) ..
@[simp] theorem writeVirt_cur (s : State) (ctx va : Nat) (l : List Byte) : (writeVirt s ctx va l).cur = s.cur :=
  writeVirt_keeps (·.cur) (by intros; rfl) ..
@[simp] theorem writeVirt_free (s : State) (ctx va : Nat) (l : List Byte) : (writeVirt s ctx va l).free = s.free :=
  writeVirt_keeps (·.free) (by intros; rfl) ..
@[simp] theorem writeVirt_cycle (s : State) (ctx va : Nat) (l : List Byte) : (writeVirt s ctx va l).cycle = s.cycle :=
  writeVirt_keeps (·.cycle) (by intros; rfl) ..
@[simp] theorem writeVirt_cores (s : State) (ctx va : Nat) (l : List Byte) : (writeVirt s ctx va l).cores = s.cores :=
  writeVirt_keeps (·.cores) (by intros; rfl) ..
@[simp] theorem writeVirt_clusters (s : State) (ctx va : Nat) (l : List Byte) : (writeVirt s ctx va l).clusters = s.clusters :=
  writeVirt_keeps (·.clusters) (by intros; rfl) ..
@[simp] theorem writeVirt_irqs (s : State) (ctx va : Nat) (l : List Byte) : (writeVirt s ctx va l).irqs = s.irqs :=
  writeVirt_keeps (·.irqs) (by intros; rfl) ..
@[simp] theorem writeVirt_images (s : State) (ctx va : Nat) (l : List Byte) : (writeVirt s ctx va l).images = s.images :=
  writeVirt_keeps (·.images) (by intros; rfl) ..
@[simp] theorem writeVirt_loads (s : State) (ctx va : Nat) (l : List Byte) : (writeVirt s ctx va l).loads = s.loads :=
  writeVirt_keeps (·.loads) (by intros; rfl) ..
@[simp] theorem writeVirt_tlb (s : State) (ctx va : Nat) (l : List Byte) : (writeVirt s ctx va l).tlb = s.tlb :=
  writeVirt_keeps (·.tlb) (by intros; rfl) ..
@[simp] theorem writeVirt_walks (s : State) (ctx va : Nat) (l : List Byte) : (writeVirt s ctx va l).walks = s.walks :=
  writeVirt_keeps (·.walks) (by intros; rfl) ..
@[simp] theorem writeVirt_launches (s : State) (ctx va : Nat) (l : List Byte) : (writeVirt s ctx va l).launches = s.launches :=
  writeVirt_keeps (·.launches) (by intros; rfl) ..
@[simp] theorem writeVirt_order (s : State) (ctx va : Nat) (l : List Byte) : (writeVirt s ctx va l).order = s.order :=
  writeVirt_keeps (·.order) (by intros; rfl) ..
@[simp] theorem writeVirt_logIdx (s : State) (ctx va : Nat) (l : List Byte) : (writeVirt s ctx va l).logIdx = s.logIdx :=
  writeVirt_keeps (·.logIdx) (by intros; rfl) ..
@[simp] theorem writeVirt_saves (s : State) (ctx va : Nat) (l : List Byte) : (writeVirt s ctx va l).saves = s.saves :=
  writeVirt_keeps (·.saves) (by intros; rfl) ..
@[simp] theorem writeVirt_core (s : State) (ctx va : Nat) (l : List Byte) (c : Nat) : (writeVirt s ctx va l).core c = s.core c :=
  writeVirt_keeps (·.core c) (by intros; rfl) ..
@[simp] theorem writeVirt_block (s : State) (ctx va : Nat) (l : List Byte) (c k : Nat) : (writeVirt s ctx va l).block c k = s.block c k :=
  writeVirt_keeps (·.block c k) (by intros; rfl) ..
@[simp] theorem writeVirt_fibre (s : State) (ctx va : Nat) (l : List Byte) (c k f : Nat) : (writeVirt s ctx va l).fibre c k f = s.fibre c k f :=
  writeVirt_keeps (·.fibre c k f) (by intros; rfl) ..

@[simp] theorem faultLog_agenda (s : State) (ctx kind core fib slot frame : Nat) (info stop : List Byte) : (faultLog s ctx kind core fib slot frame info stop).agenda = s.agenda :=
  faultLog_keeps (·.agenda) (by intros; rfl) ..
@[simp] theorem faultLog_cur (s : State) (ctx kind core fib slot frame : Nat) (info stop : List Byte) : (faultLog s ctx kind core fib slot frame info stop).cur = s.cur :=
  faultLog_keeps (·.cur) (by intros; rfl) ..
@[simp] theorem faultLog_free (s : State) (ctx kind core fib slot frame : Nat) (info stop : List Byte) : (faultLog s ctx kind core fib slot frame info stop).free = s.free :=
  faultLog_keeps (·.free) (by intros; rfl) ..
@[simp] theorem faultLog_cycle (s : State) (ctx kind core fib slot frame : Nat) (info stop : List Byte) : (faultLog s ctx kind core fib slot frame info stop).cycle = s.cycle :=
  faultLog_keeps (·.cycle) (by intros; rfl) ..
@[simp] theorem faultLog_cores (s : State) (ctx kind core fib slot frame : Nat) (info stop : List Byte) : (faultLog s ctx kind core fib slot frame info stop).cores = s.cores :=
  faultLog_keeps (·.cores) (by intros; rfl) ..
@[simp] theorem faultLog_clusters (s : State) (ctx kind core fib slot frame : Nat) (info stop : List Byte) : (faultLog s ctx kind core fib slot frame info stop).clusters = s.clusters :=
  faultLog_keeps (·.clusters) (by intros; rfl) ..
@[simp] theorem faultLog_images (s : State) (ctx kind core fib slot frame : Nat) (info stop : List Byte) : (faultLog s ctx kind core fib slot frame info stop).images = s.images :=
  faultLog_keeps (·.images) (by intros; rfl) ..
@[simp] theorem faultLog_loads (s : State) (ctx kind core fib slot frame : Nat) (info stop : List Byte) : (faultLog s ctx kind core fib slot frame info stop).loads = s.loads :=
  faultLog_keeps (·.loads) (by intros; rfl) ..
@[simp] theorem faultLog_tlb (s : State) (ctx kind core fib slot frame : Nat) (info stop : List Byte) : (faultLog s ctx kind core fib slot frame info stop).tlb = s.tlb :=
  faultLog_keeps (·.tlb) (by intros; rfl) ..
@[simp] theorem faultLog_walks (s : State) (ctx kind core fib slot frame : Nat) (info stop : List Byte) : (faultLog s ctx kind core fib slot frame info stop).walks = s.walks :=
  faultLog_keeps (·.walks) (by intros; rfl) ..
@[simp] theorem faultLog_launches (s : State) (ctx kind core fib slot frame : Nat) (info stop : List Byte) : (faultLog s ctx kind core fib slot frame info stop).launches = s.launches :=
  faultLog_keeps (·.launches) (by intros; rfl) ..
@[simp] theorem faultLog_order (s : State) (ctx kind core fib slot frame : Nat) (info stop : List Byte) : (faultLog s ctx kind core fib slot frame info stop).order = s.order :=
  faultLog_keeps (·.order) (by intros; rfl) ..
@[simp] theorem faultLog_saves (s : State) (ctx kind core fib slot frame : Nat) (info stop : List Byte) : (faultLog s ctx kind core fib slot frame info stop).saves = s.saves :=
  faultLog_keeps (·.saves) (by intros; rfl) ..
@[simp] theorem faultLog_core (s : State) (ctx kind core fib slot frame : Nat) (info stop : List Byte) (c : Nat) : (faultLog s ctx kind core fib slot frame info stop).core c = s.core c :=
  faultLog_keeps (·.core c) (by intros; rfl) ..
@[simp] theorem faultLog_block (s : State) (ctx kind core fib slot frame : Nat) (info stop : List Byte) (c k : Nat) : (faultLog s ctx kind core fib slot frame info stop).block c k = s.block c k :=
  faultLog_keeps (·.block c k) (by intros; rfl) ..
@[simp] theorem faultLog_fibre (s : State) (ctx kind core fib slot frame : Nat) (info stop : List Byte) (c k f : Nat) : (faultLog s ctx kind core fib slot frame info stop).fibre c k f = s.fibre c k f :=
  faultLog_keeps (·.fibre c k f) (by intros; rfl) ..

end Sys2Proof.Machine
end

