-- ==== Sys2Proof/Tests/Slice0.lean ====
section
/-!
SUPPORT. Tests of the model: words written out from the spec's encoding tables, terms that are not well formed, one step on small
states, the worked values of the spec, and for every statement with hypotheses a state and operands that meet them.
-/
namespace Sys2Proof.Tests
open Sys2Proof.Machine Sys2Proof.Safety

set_option Elab.async false

-- Decoding: one word for every instruction, each field at a value of its own (R136 to R148)

/-- R142: header bits NEST (6) and REP (5) of a bundle; bit 7 is reserved. -/
theorem test_decode_bundles : decodeTableWord 256 0 = some (.bundleIssue 0) ∧ decodeTableWord 256 0x40 = some (.loopNestBundle 0x40) ∧
    decodeTableWord 256 0x20 = some (.repeatPrefix 0x20) ∧ (decodeTableWord 256 0x80).isNone = true := ⟨by rfl, by rfl, by rfl, by rfl⟩

theorem test_decode_fibre_major_00 :
    Decode.decodeFibre 0x0009_0000_0000_0000 = .ok (.nop ⟨9, 0, 0, 0, 0⟩ ) ∧
    Decode.decodeFibre 0x0019_0000_00AB_CDEF = .ok (.trap ⟨9, 0, 0, 0, 0⟩ 11259375) ∧
    Decode.decodeFibre 0x0029_0000_0012_3456 = .ok (.bkpt ⟨9, 0, 0, 0, 0⟩ 1193046) ∧
    Decode.decodeFibre 0x0039_0000_0000_0000 = .ok (.eret ⟨9, 0, 0, 0, 0⟩ ) ∧
    Decode.decodeFibre 0x0049_0028_0000_0027 = .ok (.rdsr ⟨9, 0, 0, 0, 0⟩ 40 39) ∧
    Decode.decodeFibre 0x0059_1000_1400_0021 = .ok (.wrsr ⟨9, 0, 1, 0, 0⟩ 20 33) ∧
    Decode.decodeFibre 0x0069_0028_0000_0000 = .ok (.rdcyc ⟨9, 0, 0, 0, 0⟩ 40) ∧
    Decode.decodeFibre 0x0079_0000_0000_0000 = .ok (.fend ⟨9, 0, 0, 0, 0⟩ ) ∧
    Decode.decodeFibre 0x0089_1000_1400_0000 = .ok (.sleep ⟨9, 0, 1, 0, 0⟩ 20) :=
  by and_intros <;> rfl

theorem test_decode_fibre_major_01 :
    Decode.decodeFibre 0x0405_B028_1424_0001 = .ok (.add ⟨5, 1, 3, 0, 0⟩ 40 20 36 1) ∧
    Decode.decodeFibre 0x0415_B028_1424_0001 = .ok (.sub ⟨5, 1, 3, 0, 0⟩ 40 20 36 1) ∧
    Decode.decodeFibre 0x0425_B028_1424_0000 = .ok (.mul ⟨5, 1, 3, 0, 0⟩ 40 20 36) ∧
    Decode.decodeFibre 0x0435_B028_1424_0000 = .ok (.mulhi ⟨5, 1, 3, 0, 0⟩ 40 20 36) ∧
    Decode.decodeFibre 0x0445_B028_1424_0000 = .ok (.mulhiu ⟨5, 1, 3, 0, 0⟩ 40 20 36) ∧
    Decode.decodeFibre 0x0455_F028_1424_1C01 = .ok (.mad ⟨5, 1, 7, 0, 0⟩ 40 20 36 28 1) ∧
    Decode.decodeFibre 0x0465_B028_1424_0000 = .ok (.div ⟨5, 1, 3, 0, 0⟩ 40 20 36) ∧
    Decode.decodeFibre 0x0475_B028_1424_0000 = .ok (.divu ⟨5, 1, 3, 0, 0⟩ 40 20 36) ∧
    Decode.decodeFibre 0x0485_B028_1424_0000 = .ok (.rem ⟨5, 1, 3, 0, 0⟩ 40 20 36) ∧
    Decode.decodeFibre 0x0495_B028_1424_0000 = .ok (.remu ⟨5, 1, 3, 0, 0⟩ 40 20 36) ∧
    Decode.decodeFibre 0x04A5_B028_1424_0000 = .ok (.min ⟨5, 1, 3, 0, 0⟩ 40 20 36) ∧
    Decode.decodeFibre 0x04B5_B028_1424_0000 = .ok (.max ⟨5, 1, 3, 0, 0⟩ 40 20 36) ∧
    Decode.decodeFibre 0x04C5_B028_1424_0000 = .ok (.minu ⟨5, 1, 3, 0, 0⟩ 40 20 36) ∧
    Decode.decodeFibre 0x04D5_B028_1424_0000 = .ok (.maxu ⟨5, 1, 3, 0, 0⟩ 40 20 36) ∧
    Decode.decodeFibre 0x04E5_9028_1400_0001 = .ok (.abs ⟨5, 1, 1, 0, 0⟩ 40 20 1) ∧
    Decode.decodeFibre 0x04F5_9028_1400_0001 = .ok (.neg ⟨5, 1, 1, 0, 0⟩ 40 20 1) :=
  by and_intros <;> rfl

theorem test_decode_fibre_major_02 :
    Decode.decodeFibre 0x0809_1028_1400_FFF0 = .ok (.addi ⟨9, 0, 1, 0, 0⟩ 40 20 65520) ∧
    Decode.decodeFibre 0x0819_1028_1400_FFF1 = .ok (.muli ⟨9, 0, 1, 0, 0⟩ 40 20 65521) ∧
    Decode.decodeFibre 0x0829_1028_1400_FFF2 = .ok (.mini ⟨9, 0, 1, 0, 0⟩ 40 20 65522) ∧
    Decode.decodeFibre 0x0839_1028_1400_FFF3 = .ok (.maxi ⟨9, 0, 1, 0, 0⟩ 40 20 65523) :=
  ⟨rfl, rfl, rfl, rfl⟩

theorem test_decode_fibre_major_03 :
    Decode.decodeFibre 0x0C05_B028_1424_0000 = .ok (.and ⟨5, 1, 3, 0, 0⟩ 40 20 36) ∧
    Decode.decodeFibre 0x0C15_B028_1424_0000 = .ok (.or ⟨5, 1, 3, 0, 0⟩ 40 20 36) ∧
    Decode.decodeFibre 0x0C25_B028_1424_0000 = .ok (.xor ⟨5, 1, 3, 0, 0⟩ 40 20 36) ∧
    Decode.decodeFibre 0x0C35_B028_1424_0000 = .ok (.andn ⟨5, 1, 3, 0, 0⟩ 40 20 36) ∧
    Decode.decodeFibre 0x0C45_9028_1400_0000 = .ok (.not ⟨5, 1, 1, 0, 0⟩ 40 20) ∧
    Decode.decodeFibre 0x0C55_B028_1424_0000 = .ok (.shl ⟨5, 1, 3, 0, 0⟩ 40 20 36) ∧
    Decode.decodeFibre 0x0C65_B028_1424_0000 = .ok (.shr ⟨5, 1, 3, 0, 0⟩ 40 20 36) ∧
    Decode.decodeFibre 0x0C75_B028_1424_0000 = .ok (.sar ⟨5, 1, 3, 0, 0⟩ 40 20 36) ∧
    Decode.decodeFibre 0x0C85_B028_1424_0000 = .ok (.rotl ⟨5, 1, 3, 0, 0⟩ 40 20 36) ∧
    Decode.decodeFibre 0x0C95_B028_1424_0000 = .ok (.rotr ⟨5, 1, 3, 0, 0⟩ 40 20 36) ∧
    Decode.decodeFibre 0x0CA5_9028_1400_0000 = .ok (.popc ⟨5, 1, 1, 0, 0⟩ 40 20) ∧
    Decode.decodeFibre 0x0CB5_9028_1400_0000 = .ok (.clz ⟨5, 1, 1, 0, 0⟩ 40 20) ∧
    Decode.decodeFibre 0x0CC5_9028_1400_0000 = .ok (.ctz ⟨5, 1, 1, 0, 0⟩ 40 20) ∧
    Decode.decodeFibre 0x0CD5_9028_1400_0000 = .ok (.brev ⟨5, 1, 1, 0, 0⟩ 40 20) ∧
    Decode.decodeFibre 0x0CE5_B028_1424_0001 = .ok (.bfe ⟨5, 1, 3, 0, 0⟩ 40 20 36 1) ∧
    Decode.decodeFibre 0x0CF5_F028_1424_1C00 = .ok (.bfi ⟨5, 1, 7, 0, 0⟩ 40 20 36 28) ∧
    Decode.decodeFibre 0x0D05_F028_1424_1C00 = .ok (.bpick ⟨5, 1, 7, 0, 0⟩ 40 20 36 28) ∧
    Decode.decodeFibre 0x0D15_F028_1424_1CE8 = .ok (.blut3 ⟨5, 1, 7, 0, 0⟩ 40 20 36 28 232) ∧
    Decode.decodeFibre 0x0E05_9028_1400_8001 = .ok (.andi ⟨5, 1, 1, 0, 0⟩ 40 20 32769) ∧
    Decode.decodeFibre 0x0E15_9028_1400_8002 = .ok (.ori ⟨5, 1, 1, 0, 0⟩ 40 20 32770) ∧
    Decode.decodeFibre 0x0E25_9028_1400_8003 = .ok (.xori ⟨5, 1, 1, 0, 0⟩ 40 20 32771) ∧
    Decode.decodeFibre 0x0E35_9028_1400_001D = .ok (.shli ⟨5, 1, 1, 0, 0⟩ 40 20 29) ∧
    Decode.decodeFibre 0x0E45_9028_1400_001E = .ok (.shri ⟨5, 1, 1, 0, 0⟩ 40 20 30) ∧
    Decode.decodeFibre 0x0E55_9028_1400_001F = .ok (.sari ⟨5, 1, 1, 0, 0⟩ 40 20 31) :=
  by and_intros <;> rfl

theorem test_decode_fibre_major_04 :
    Decode.decodeFibre 0x1009_3028_1424_0000 = .ok (.add64 ⟨9, 0, 3, 0, 0⟩ 40 20 36) ∧
    Decode.decodeFibre 0x1019_3028_1424_0000 = .ok (.sub64 ⟨9, 0, 3, 0, 0⟩ 40 20 36) ∧
    Decode.decodeFibre 0x1029_3028_1424_0000 = .ok (.mul64 ⟨9, 0, 3, 0, 0⟩ 40 20 36) ∧
    Decode.decodeFibre 0x1039_3028_1424_0000 = .ok (.mulw ⟨9, 0, 3, 0, 0⟩ 40 20 36) ∧
    Decode.decodeFibre 0x1049_3028_1424_0000 = .ok (.mulwu ⟨9, 0, 3, 0, 0⟩ 40 20 36) ∧
    Decode.decodeFibre 0x1059_3028_1424_0000 = .ok (.shl64 ⟨9, 0, 3, 0, 0⟩ 40 20 36) ∧
    Decode.decodeFibre 0x1069_3028_1424_0000 = .ok (.shr64 ⟨9, 0, 3, 0, 0⟩ 40 20 36) ∧
    Decode.decodeFibre 0x1079_3028_1424_0000 = .ok (.sar64 ⟨9, 0, 3, 0, 0⟩ 40 20 36) ∧
    Decode.decodeFibre 0x1089_3028_1424_0000 = .ok (.min64 ⟨9, 0, 3, 0, 0⟩ 40 20 36) ∧
    Decode.decodeFibre 0x1099_3028_1424_0000 = .ok (.max64 ⟨9, 0, 3, 0, 0⟩ 40 20 36) ∧
    Decode.decodeFibre 0x1109_1028_1400_8002 = .ok (.addi64 ⟨9, 0, 1, 0, 0⟩ 40 20 32770) ∧
    Decode.decodeFibre 0x1119_3028_1424_000D = .ok (.lea ⟨9, 0, 3, 0, 0⟩ 40 20 36 5 1) :=
  by and_intros <;> rfl

theorem test_decode_fibre_major_05 :
    Decode.decodeFibre 0x1405_9028_1400_0001 = .ok (.mov ⟨5, 1, 1, 0, 0⟩ 40 20 1) ∧
    Decode.decodeFibre 0x1415_8028_89AB_CDEF = .ok (.movi ⟨5, 1, 0, 0, 0⟩ 40 2309737967) ∧
    Decode.decodeFibre 0x1425_B007_1424_001D = .ok (.setp ⟨5, 1, 3, 0, 0⟩ 7 20 36 5 3) ∧
    Decode.decodeFibre 0x1435_B028_1424_0B01 = .ok (.sel ⟨5, 1, 3, 0, 0⟩ 40 20 36 11 1) ∧
    Decode.decodeFibre 0x1445_9007_140C_8003 = .ok (.setpi ⟨5, 1, 1, 0, 0⟩ 7 20 4 1 32771) :=
  by and_intros <;> rfl

theorem test_decode_fibre_major_06 :
    Decode.decodeFibre 0x1809_0007_0809_0A96 = .ok (.plut3 ⟨9, 0, 0, 0, 0⟩ 7 8 9 10 150) ∧
    Decode.decodeFibre 0x1819_0028_0000_0000 = .ok (.p2g ⟨9, 0, 0, 0, 0⟩ 40) ∧
    Decode.decodeFibre 0x1829_3000_1424_0000 = .ok (.g2p ⟨9, 0, 3, 0, 0⟩ 20 36) :=
  ⟨rfl, rfl, rfl⟩

theorem test_decode_fibre_major_07 :
    Decode.decodeFibre 0x1C05_B028_1424_0001 = .ok (.fadd ⟨5, 1, 3, 0, 0⟩ 40 20 36 1) ∧
    Decode.decodeFibre 0x1C15_B028_1424_0002 = .ok (.fsub ⟨5, 1, 3, 0, 0⟩ 40 20 36 2) ∧
    Decode.decodeFibre 0x1C25_B028_1424_0003 = .ok (.fmul ⟨5, 1, 3, 0, 0⟩ 40 20 36 3) ∧
    Decode.decodeFibre 0x1C35_F028_1424_1C01 = .ok (.ffma ⟨5, 1, 7, 0, 0⟩ 40 20 36 28 1) ∧
    Decode.decodeFibre 0x1C45_B028_1424_0000 = .ok (.fmin ⟨5, 1, 3, 0, 0⟩ 40 20 36) ∧
    Decode.decodeFibre 0x1C55_B028_1424_0000 = .ok (.fmax ⟨5, 1, 3, 0, 0⟩ 40 20 36) ∧
    Decode.decodeFibre 0x1C65_9028_1400_0000 = .ok (.fabs ⟨5, 1, 1, 0, 0⟩ 40 20) ∧
    Decode.decodeFibre 0x1C75_9028_1400_0000 = .ok (.fneg ⟨5, 1, 1, 0, 0⟩ 40 20) ∧
    Decode.decodeFibre 0x1C85_B028_1424_0003 = .ok (.fdiv ⟨5, 1, 3, 0, 0⟩ 40 20 36 3) :=
  by and_intros <;> rfl

theorem test_decode_fibre_major_08 :
    Decode.decodeFibre 0x2009_3028_1424_0007 = .ok (.hadd2 ⟨9, 0, 3, 0, 0⟩ 40 20 36 1 3) ∧
    Decode.decodeFibre 0x2019_3028_1424_0007 = .ok (.hsub2 ⟨9, 0, 3, 0, 0⟩ 40 20 36 1 3) ∧
    Decode.decodeFibre 0x2029_3028_1424_0007 = .ok (.hmul2 ⟨9, 0, 3, 0, 0⟩ 40 20 36 1 3) ∧
    Decode.decodeFibre 0x2039_7028_1424_1C07 = .ok (.hfma2 ⟨9, 0, 7, 0, 0⟩ 40 20 36 28 1 3) ∧
    Decode.decodeFibre 0x2049_3028_1424_0004 = .ok (.hmin2 ⟨9, 0, 3, 0, 0⟩ 40 20 36 1) ∧
    Decode.decodeFibre 0x2059_3028_1424_0004 = .ok (.hmax2 ⟨9, 0, 3, 0, 0⟩ 40 20 36 1) :=
  by and_intros <;> rfl

theorem test_decode_fibre_major_09 :
    Decode.decodeFibre 0x2405_B028_1424_0002 = .ok (.dadd ⟨5, 1, 3, 0, 0⟩ 40 20 36 2) ∧
    Decode.decodeFibre 0x2415_B028_1424_0002 = .ok (.dsub ⟨5, 1, 3, 0, 0⟩ 40 20 36 2) ∧
    Decode.decodeFibre 0x2425_B028_1424_0002 = .ok (.dmul ⟨5, 1, 3, 0, 0⟩ 40 20 36 2) ∧
    Decode.decodeFibre 0x2435_F028_1424_1C02 = .ok (.dfma ⟨5, 1, 7, 0, 0⟩ 40 20 36 28 2) ∧
    Decode.decodeFibre 0x2445_B028_1424_0000 = .ok (.dmin ⟨5, 1, 3, 0, 0⟩ 40 20 36) ∧
    Decode.decodeFibre 0x2455_B028_1424_0000 = .ok (.dmax ⟨5, 1, 3, 0, 0⟩ 40 20 36) ∧
    Decode.decodeFibre 0x2465_B028_1424_0002 = .ok (.ddiv ⟨5, 1, 3, 0, 0⟩ 40 20 36 2) ∧
    Decode.decodeFibre 0x2475_9028_1400_0002 = .ok (.dsqrt ⟨5, 1, 1, 0, 0⟩ 40 20 2) :=
  by and_intros <;> rfl

theorem test_decode_fibre_major_0A :
    Decode.decodeFibre 0x2809_1028_1400_0000 = .ok (.rcp ⟨9, 0, 1, 0, 0⟩ 40 20) ∧
    Decode.decodeFibre 0x2819_1028_1400_0000 = .ok (.rsq ⟨9, 0, 1, 0, 0⟩ 40 20) ∧
    Decode.decodeFibre 0x2829_1028_1400_0000 = .ok (.sqrt ⟨9, 0, 1, 0, 0⟩ 40 20) ∧
    Decode.decodeFibre 0x2839_1028_1400_0000 = .ok (.exp2 ⟨9, 0, 1, 0, 0⟩ 40 20) ∧
    Decode.decodeFibre 0x2849_1028_1400_0000 = .ok (.log2 ⟨9, 0, 1, 0, 0⟩ 40 20) ∧
    Decode.decodeFibre 0x2859_1028_1400_0000 = .ok (.sin ⟨9, 0, 1, 0, 0⟩ 40 20) ∧
    Decode.decodeFibre 0x2869_1028_1400_0000 = .ok (.cos ⟨9, 0, 1, 0, 0⟩ 40 20) ∧
    Decode.decodeFibre 0x2879_1028_1400_0000 = .ok (.tanh ⟨9, 0, 1, 0, 0⟩ 40 20) :=
  by and_intros <;> rfl

theorem test_decode_fibre_major_0B :
    Decode.decodeFibre 0x2C05_9028_1400_148D = .ok (.cvt ⟨5, 1, 1, 0, 0⟩ 40 20 20 17 1 1) ∧
    Decode.decodeFibre 0x2C15_B028_1424_3102 = .ok (.cvts ⟨5, 1, 3, 0, 0⟩ 40 20 36 1 17 0 0 2) ∧
    Decode.decodeFibre 0x2C25_F028_1424_1CA7 = .ok (.cvtpk ⟨5, 1, 7, 0, 0⟩ 40 20 36 28 20 1 3) ∧
    Decode.decodeFibre 0x2C35_9028_1400_00AB = .ok (.cvtupk ⟨5, 1, 1, 0, 0⟩ 40 20 21 3) :=
  ⟨rfl, rfl, rfl, rfl⟩

theorem test_decode_fibre_major_0C :
    Decode.decodeFibre 0x3009_0000_FFFF_FFF0 = .ok (.bra ⟨9, 0, 0, 0, 0⟩ 4294967280) ∧
    Decode.decodeFibre 0x3019_1000_1400_0000 = .ok (.brx ⟨9, 0, 1, 0, 0⟩ 20) ∧
    Decode.decodeFibre 0x3029_0028_0000_0010 = .ok (.call ⟨9, 0, 0, 0, 0⟩ 40 16) ∧
    Decode.decodeFibre 0x3039_1028_1400_0000 = .ok (.callx ⟨9, 0, 1, 0, 0⟩ 40 20) ∧
    Decode.decodeFibre 0x3049_1000_1400_0000 = .ok (.ret ⟨9, 0, 1, 0, 0⟩ 20) :=
  by and_intros <;> rfl

theorem test_decode_fibre_major_0D :
    Decode.decodeFibre 0x3405_8000_0000_0D00 = .ok (.enrol ⟨5, 1, 0, 0, 0⟩ 13) ∧
    Decode.decodeFibre 0x3415_8000_0000_0D00 = .ok (.strike ⟨5, 1, 0, 0, 0⟩ 13) ∧
    Decode.decodeFibre 0x3425_8000_0000_0D00 = .ok (.park ⟨5, 1, 0, 0, 0⟩ 13) ∧
    Decode.decodeFibre 0x3435_B028_1424_0D01 = .ok (.xread ⟨5, 1, 3, 0, 0⟩ 40 20 36 13 1) ∧
    Decode.decodeFibre 0x3445_8028_0600_0D03 = .ok (.xvote ⟨5, 1, 0, 0, 0⟩ 40 6 13 3) ∧
    Decode.decodeFibre 0x3455_9028_1400_0D0C = .ok (.xred ⟨5, 1, 1, 0, 0⟩ 40 20 13 0 3) ∧
    Decode.decodeFibre 0x3465_9028_1400_0D01 = .ok (.matchw ⟨5, 1, 1, 0, 0⟩ 40 20 13 1) ∧
    Decode.decodeFibre 0x3475_9028_1400_0D00 = .ok (.matchf ⟨5, 1, 1, 0, 0⟩ 40 20 13) ∧
    Decode.decodeFibre 0x3485_8006_0000_0D00 = .ok (.elect ⟨5, 1, 0, 0, 0⟩ 6 13) :=
  by and_intros <;> rfl

theorem test_decode_fibre_major_0E :
    Decode.decodeFibre 0x3809_7000_1424_1C06 = .ok (.spawn ⟨9, 0, 7, 0, 0⟩ 20 36 28 6) ∧
    Decode.decodeFibre 0x3819_1000_1400_0000 = .ok (.waitj ⟨9, 0, 1, 0, 0⟩ 20) ∧
    Decode.decodeFibre 0x3829_1028_1400_0055 = .ok (.launch ⟨9, 0, 1, 0, 0⟩ 40 20 85) :=
  ⟨rfl, rfl, rfl⟩

theorem test_decode_fibre_major_0F :
    Decode.decodeFibre 0x3C05_9028_141A_FFF8 = .ok (.ldGI8 ⟨5, 1, 1, 0, 0⟩ 40 20 2 3 65528) ∧
    Decode.decodeFibre 0x3C15_9028_141A_FFF8 = .ok (.ldGUi8 ⟨5, 1, 1, 0, 0⟩ 40 20 2 3 65528) ∧
    Decode.decodeFibre 0x3C25_9028_141A_FFF8 = .ok (.ldGI16 ⟨5, 1, 1, 0, 0⟩ 40 20 2 3 65528) ∧
    Decode.decodeFibre 0x3C35_9028_141A_FFF8 = .ok (.ldGUi16 ⟨5, 1, 1, 0, 0⟩ 40 20 2 3 65528) ∧
    Decode.decodeFibre 0x3C45_9028_141A_FFF8 = .ok (.ldGB32 ⟨5, 1, 1, 0, 0⟩ 40 20 2 3 65528) ∧
    Decode.decodeFibre 0x3C55_9028_141A_FFF8 = .ok (.ldGB64 ⟨5, 1, 1, 0, 0⟩ 40 20 2 3 65528) ∧
    Decode.decodeFibre 0x3C65_9028_141A_FFF8 = .ok (.ldGB128 ⟨5, 1, 1, 0, 0⟩ 40 20 2 3 65528) :=
  by and_intros <;> rfl

theorem test_decode_fibre_major_10 :
    Decode.decodeFibre 0x4009_3028_1423_0010 = .ok (.stGB8 ⟨9, 0, 3, 0, 0⟩ 40 20 3 4 16) ∧
    Decode.decodeFibre 0x4019_3028_1423_0010 = .ok (.stGB16 ⟨9, 0, 3, 0, 0⟩ 40 20 3 4 16) ∧
    Decode.decodeFibre 0x4029_3028_1423_0010 = .ok (.stGB32 ⟨9, 0, 3, 0, 0⟩ 40 20 3 4 16) ∧
    Decode.decodeFibre 0x4039_3028_1423_0010 = .ok (.stGB64 ⟨9, 0, 3, 0, 0⟩ 40 20 3 4 16) ∧
    Decode.decodeFibre 0x4049_3028_1423_0010 = .ok (.stGB128 ⟨9, 0, 3, 0, 0⟩ 40 20 3 4 16) :=
  by and_intros <;> rfl

theorem test_decode_fibre_major_11 :
    Decode.decodeFibre 0x4405_9028_1494_7FF0 = .ok (.ldSI8 ⟨5, 1, 1, 0, 0⟩ 40 20 9 2 1 16368) ∧
    Decode.decodeFibre 0x4415_9028_1494_7FF0 = .ok (.ldSUi8 ⟨5, 1, 1, 0, 0⟩ 40 20 9 2 1 16368) ∧
    Decode.decodeFibre 0x4425_9028_1494_7FF0 = .ok (.ldSI16 ⟨5, 1, 1, 0, 0⟩ 40 20 9 2 1 16368) ∧
    Decode.decodeFibre 0x4435_9028_1494_7FF0 = .ok (.ldSUi16 ⟨5, 1, 1, 0, 0⟩ 40 20 9 2 1 16368) ∧
    Decode.decodeFibre 0x4445_9028_1494_7FF0 = .ok (.ldSB32 ⟨5, 1, 1, 0, 0⟩ 40 20 9 2 1 16368) ∧
    Decode.decodeFibre 0x4455_9028_1494_7FF0 = .ok (.ldSB64 ⟨5, 1, 1, 0, 0⟩ 40 20 9 2 1 16368) ∧
    Decode.decodeFibre 0x4465_9028_1494_7FF0 = .ok (.ldSB128 ⟨5, 1, 1, 0, 0⟩ 40 20 9 2 1 16368) :=
  by and_intros <;> rfl

theorem test_decode_fibre_major_12 :
    Decode.decodeFibre 0x4809_3028_1496_8020 = .ok (.stSB8 ⟨9, 0, 3, 0, 0⟩ 40 20 9 3 2 32) ∧
    Decode.decodeFibre 0x4819_3028_1496_8020 = .ok (.stSB16 ⟨9, 0, 3, 0, 0⟩ 40 20 9 3 2 32) ∧
    Decode.decodeFibre 0x4829_3028_1496_8020 = .ok (.stSB32 ⟨9, 0, 3, 0, 0⟩ 40 20 9 3 2 32) ∧
    Decode.decodeFibre 0x4839_3028_1496_8020 = .ok (.stSB64 ⟨9, 0, 3, 0, 0⟩ 40 20 9 3 2 32) ∧
    Decode.decodeFibre 0x4849_3028_1496_8020 = .ok (.stSB128 ⟨9, 0, 3, 0, 0⟩ 40 20 9 3 2 32) :=
  by and_intros <;> rfl

theorem test_decode_fibre_major_13 :
    Decode.decodeFibre 0x4C05_B028_1424_001C = .ok (.atomAddI32 ⟨5, 1, 3, 0, 0⟩ 40 20 36 4 3) ∧
    Decode.decodeFibre 0x4C15_B028_1424_001C = .ok (.atomAddI64 ⟨5, 1, 3, 0, 0⟩ 40 20 36 4 3) ∧
    Decode.decodeFibre 0x4C25_B028_1424_001C = .ok (.atomAndB32 ⟨5, 1, 3, 0, 0⟩ 40 20 36 4 3) ∧
    Decode.decodeFibre 0x4C35_B028_1424_001C = .ok (.atomOrB32 ⟨5, 1, 3, 0, 0⟩ 40 20 36 4 3) ∧
    Decode.decodeFibre 0x4C45_B028_1424_001C = .ok (.atomXorB32 ⟨5, 1, 3, 0, 0⟩ 40 20 36 4 3) ∧
    Decode.decodeFibre 0x4C55_B028_1424_001C = .ok (.atomMinI32 ⟨5, 1, 3, 0, 0⟩ 40 20 36 4 3) ∧
    Decode.decodeFibre 0x4C65_B028_1424_001C = .ok (.atomMaxI32 ⟨5, 1, 3, 0, 0⟩ 40 20 36 4 3) ∧
    Decode.decodeFibre 0x4C75_B028_1424_001C = .ok (.atomMinUi32 ⟨5, 1, 3, 0, 0⟩ 40 20 36 4 3) ∧
    Decode.decodeFibre 0x4C85_B028_1424_001C = .ok (.atomMaxUi32 ⟨5, 1, 3, 0, 0⟩ 40 20 36 4 3) ∧
    Decode.decodeFibre 0x4C95_B028_1424_001C = .ok (.atomExchB32 ⟨5, 1, 3, 0, 0⟩ 40 20 36 4 3) ∧
    Decode.decodeFibre 0x4CA5_B028_1424_001C = .ok (.atomExchB64 ⟨5, 1, 3, 0, 0⟩ 40 20 36 4 3) ∧
    Decode.decodeFibre 0x4CB5_F028_1424_1C1C = .ok (.atomCasB32 ⟨5, 1, 7, 0, 0⟩ 40 20 36 28 4 3) ∧
    Decode.decodeFibre 0x4CC5_F028_1424_1C1C = .ok (.atomCasB64 ⟨5, 1, 7, 0, 0⟩ 40 20 36 28 4 3) ∧
    Decode.decodeFibre 0x4CD5_B028_1424_001C = .ok (.atomAddF32 ⟨5, 1, 3, 0, 0⟩ 40 20 36 4 3) ∧
    Decode.decodeFibre 0x4CE5_B028_1424_001C = .ok (.atomMinF32 ⟨5, 1, 3, 0, 0⟩ 40 20 36 4 3) ∧
    Decode.decodeFibre 0x4CF5_B028_1424_001C = .ok (.atomMaxF32 ⟨5, 1, 3, 0, 0⟩ 40 20 36 4 3) :=
  by and_intros <;> rfl

theorem test_decode_fibre_major_14 :
    Decode.decodeFibre 0x5009_3028_1424_0096 = .ok (.atomsAddI32 ⟨9, 0, 3, 0, 0⟩ 40 20 36 9 1 2) ∧
    Decode.decodeFibre 0x5019_3028_1424_0096 = .ok (.atomsAddI64 ⟨9, 0, 3, 0, 0⟩ 40 20 36 9 1 2) ∧
    Decode.decodeFibre 0x5029_3028_1424_0096 = .ok (.atomsAndB32 ⟨9, 0, 3, 0, 0⟩ 40 20 36 9 1 2) ∧
    Decode.decodeFibre 0x5039_3028_1424_0096 = .ok (.atomsOrB32 ⟨9, 0, 3, 0, 0⟩ 40 20 36 9 1 2) ∧
    Decode.decodeFibre 0x5049_3028_1424_0096 = .ok (.atomsXorB32 ⟨9, 0, 3, 0, 0⟩ 40 20 36 9 1 2) ∧
    Decode.decodeFibre 0x5059_3028_1424_0096 = .ok (.atomsMinI32 ⟨9, 0, 3, 0, 0⟩ 40 20 36 9 1 2) ∧
    Decode.decodeFibre 0x5069_3028_1424_0096 = .ok (.atomsMaxI32 ⟨9, 0, 3, 0, 0⟩ 40 20 36 9 1 2) ∧
    Decode.decodeFibre 0x5079_3028_1424_0096 = .ok (.atomsMinUi32 ⟨9, 0, 3, 0, 0⟩ 40 20 36 9 1 2) ∧
    Decode.decodeFibre 0x5089_3028_1424_0096 = .ok (.atomsMaxUi32 ⟨9, 0, 3, 0, 0⟩ 40 20 36 9 1 2) ∧
    Decode.decodeFibre 0x5099_3028_1424_0096 = .ok (.atomsExchB32 ⟨9, 0, 3, 0, 0⟩ 40 20 36 9 1 2) ∧
    Decode.decodeFibre 0x50A9_3028_1424_0096 = .ok (.atomsExchB64 ⟨9, 0, 3, 0, 0⟩ 40 20 36 9 1 2) ∧
    Decode.decodeFibre 0x50B9_7028_1424_1C96 = .ok (.atomsCasB32 ⟨9, 0, 7, 0, 0⟩ 40 20 36 28 9 1 2) ∧
    Decode.decodeFibre 0x50C9_7028_1424_1C96 = .ok (.atomsCasB64 ⟨9, 0, 7, 0, 0⟩ 40 20 36 28 9 1 2) ∧
    Decode.decodeFibre 0x50D9_3028_1424_0096 = .ok (.atomsAddF32 ⟨9, 0, 3, 0, 0⟩ 40 20 36 9 1 2) ∧
    Decode.decodeFibre 0x50E9_3028_1424_0096 = .ok (.atomsMinF32 ⟨9, 0, 3, 0, 0⟩ 40 20 36 9 1 2) ∧
    Decode.decodeFibre 0x50F9_3028_1424_0096 = .ok (.atomsMaxF32 ⟨9, 0, 3, 0, 0⟩ 40 20 36 9 1 2) :=
  by and_intros <;> rfl

theorem test_decode_fibre_major_15 :
    Decode.decodeFibre 0x5405_8000_0000_0012 = .ok (.fence ⟨5, 1, 0, 0, 0⟩ 2 4) ∧
    Decode.decodeFibre 0x5415_9000_1400_0000 = .ok (.pref ⟨5, 1, 1, 0, 0⟩ 20) ∧
    Decode.decodeFibre 0x5425_9000_1400_0000 = .ok (.ldrop ⟨5, 1, 1, 0, 0⟩ 20) :=
  ⟨rfl, rfl, rfl⟩

theorem test_decode_fibre_major_16 :
    Decode.decodeFibre 0x5809_0028_060B_0000 = .ok (.qpop ⟨9, 0, 0, 0, 0⟩ 40 6 11) ∧
    Decode.decodeFibre 0x5819_3028_1424_004F = .ok (.lmsg ⟨9, 0, 3, 0, 0⟩ 40 20 36 7 9) ∧
    Decode.decodeFibre 0x5829_2000_0C24_BEEF = .ok (.hgive ⟨9, 0, 2, 0, 0⟩ 12 36 48879) ∧
    Decode.decodeFibre 0x5839_0000_0C00_BEEF = .ok (.htake ⟨9, 0, 0, 0, 0⟩ 12 48879) :=
  ⟨rfl, rfl, rfl, rfl⟩

theorem test_decode_fibre_major_17 :
    Decode.decodeFibre 0x5C05_8028_0000_0E00 = .ok (.barv ⟨5, 1, 0, 0, 0⟩ 40 14) ∧
    Decode.decodeFibre 0x5C15_9000_1400_0E00 = .ok (.bwait ⟨5, 1, 1, 0, 0⟩ 14 20) ∧
    Decode.decodeFibre 0x5C25_8000_0000_0E00 = .ok (.bsync ⟨5, 1, 0, 0, 0⟩ 14) ∧
    Decode.decodeFibre 0x5C35_8028_0000_0E00 = .ok (.bsign ⟨5, 1, 0, 0, 0⟩ 40 14) ∧
    Decode.decodeFibre 0x5C45_9000_1400_0E00 = .ok (.bexp ⟨5, 1, 1, 0, 0⟩ 14 20) ∧
    Decode.decodeFibre 0x5C55_9000_1400_0E0B = .ok (.batt ⟨5, 1, 1, 0, 0⟩ 14 20 11) :=
  by and_intros <;> rfl

theorem test_decode_fibre_major_18 :
    Decode.decodeFibre 0x6009_0000_0000_0ABC = .ok (.gate ⟨9, 0, 0, 0, 0⟩ 2748) ∧
    Decode.decodeFibre 0x6019_1028_1400_0E05 = .ok (.xcopy ⟨9, 0, 1, 0, 0⟩ 40 20 14 1 0 1) ∧
    Decode.decodeFibre 0x6029_3000_1424_0000 = .ok (.publish ⟨9, 0, 3, 0, 0⟩ 20 36) :=
  ⟨rfl, rfl, rfl⟩

theorem test_decode_fibre_major_19 :
    Decode.decodeFibre 0x6405_B028_1424_0000 = .ok (.fmnx ⟨5, 1, 3, 0, 0⟩ 40 20 36) ∧
    Decode.decodeFibre 0x6415_9028_1400_0000 = .ok (.cvtf8 ⟨5, 1, 1, 0, 0⟩ 40 20) ∧
    Decode.decodeFibre 0x6425_8028_0000_0000 = .ok (.rdcycl ⟨5, 1, 0, 0, 0⟩ 40) :=
  ⟨rfl, rfl, rfl⟩

theorem test_decode_stream :
    Decode.decodeStream 0x0000_0000 = .ok (.pnop) ∧
    Decode.decodeStream 0x076A_BCDE = .ok (.pli 13 2800862) ∧
    Decode.decodeStream 0x0B6D_C000 = .ok (.padd 13 11 7) ∧
    Decode.decodeStream 0x0F6D_C000 = .ok (.psub 13 11 7) ∧
    Decode.decodeStream 0x136D_C000 = .ok (.pand 13 11 7) ∧
    Decode.decodeStream 0x176D_C000 = .ok (.por 13 11 7) ∧
    Decode.decodeStream 0x1B6D_C000 = .ok (.pshl 13 11 7) ∧
    Decode.decodeStream 0x1F6D_C000 = .ok (.pshr 13 11 7) ∧
    Decode.decodeStream 0x236C_3FFE = .ok (.paddi 13 11 16382) ∧
    Decode.decodeStream 0x283F_FFF0 = .ok (.pjmp 4194288) ∧
    Decode.decodeStream 0x2C2C_3FF0 = .ok (.pbnz 11 16368) ∧
    Decode.decodeStream 0x302D_C010 = .ok (.pbeq 11 7 16) ∧
    Decode.decodeStream 0x4340_0000 = .ok (.pchunk 13) ∧
    Decode.decodeStream 0x4740_0020 = .ok (.pbits 13 32) ∧
    Decode.decodeStream 0x4800_0009 = .ok (.ptab 9) ∧
    Decode.decodeStream 0x4F40_0009 = .ok (.psym 13 9) ∧
    Decode.decodeStream 0x5000_0123 = .ok (.plit 0 291) ∧
    Decode.decodeStream 0x542D_C000 = .ok (.pbref 11 7) ∧
    Decode.decodeStream 0x5800_0000 = .ok (.palign) ∧
    Decode.decodeStream 0x6000_0018 = .ok (.pplane 8 1) ∧
    Decode.decodeStream 0x642C_0620 = .ok (.pcvt 11 0 17 1 0) ∧
    Decode.decodeStream 0x682D_F27A = .ok (.pscale 11 7 26 19 0 1 1) ∧
    Decode.decodeStream 0x7000_0005 = .ok (.ppush 5) ∧
    Decode.decodeStream 0x7400_00A5 = .ok (.peos 165) ∧
    Decode.decodeStream 0x7800_007F = .ok (.pmode 1 63) ∧
    Decode.decodeStream 0x7F40_0000 = .ok (.pscout 13) ∧
    Decode.decodeStream 0x8000_0000 = .ok (.pend) :=
    by and_intros <;> rfl

theorem test_decode_slot_S :
    Decode.decodeS 0x000_0000_0000_0000 = .ok (.snop) ∧
    Decode.decodeS 0x000_0000_0019_B4C1 = .ok (.addk 19 22 0 25 0) ∧
    Decode.decodeS 0xFFF_FFF0_1020_B4C2 = .ok (.subk 19 22 1 0 4294967041) ∧
    Decode.decodeS 0x000_0000_0019_B4C3 = .ok (.mulk 19 22 0 25 0) ∧
    Decode.decodeS 0xFFF_FFF0_3020_B4C4 = .ok (.andk 19 22 1 0 4294967043) ∧
    Decode.decodeS 0x000_0000_0019_B4C5 = .ok (.ork 19 22 0 25 0) ∧
    Decode.decodeS 0xFFF_FFF0_5020_B4C6 = .ok (.xork 19 22 1 0 4294967045) ∧
    Decode.decodeS 0x000_0000_0019_B4C7 = .ok (.shlk 19 22 0 25 0) ∧
    Decode.decodeS 0xFFF_FFF0_7020_B4C8 = .ok (.shrk 19 22 1 0 4294967047) ∧
    Decode.decodeS 0x000_0000_0019_B4C9 = .ok (.sark 19 22 0 25 0) ∧
    Decode.decodeS 0xFFF_FFF0_9020_B4CA = .ok (.mink 19 22 1 0 4294967049) ∧
    Decode.decodeS 0x000_0000_0019_B4CB = .ok (.maxk 19 22 0 25 0) ∧
    Decode.decodeS 0xFFF_FFF0_B020_B4CC = .ok (.sltk 19 22 1 0 4294967051) ∧
    Decode.decodeS 0x000_0000_0019_B4CD = .ok (.sltku 19 22 0 25 0) ∧
    Decode.decodeS 0xFFF_FFF0_D020_B4CE = .ok (.seqk 19 22 1 0 4294967053) ∧
    Decode.decodeS 0x000_0000_0020_B4D0 = .ok (.movk 19 1 22 0) ∧
    Decode.decodeS 0x123_4567_8000_04D1 = .ok (.movhk 19 305419896) ∧
    Decode.decodeS 0xFFF_FFFF_E000_B4D2 = .ok (.addik 19 22 4294967294) ∧
    Decode.decodeS 0x000_0004_0BC0_B4D8 = .ok (.ldk 19 22 2 1 11 64) ∧
    Decode.decodeS 0xFFF_FFFC_0B79_B019 = .ok (.stk 22 25 3 11 4294967232) ∧
    Decode.decodeS 0xFFF_FFFF_D000_0020 = .ok (.brk 4294967293) ∧
    Decode.decodeS 0x000_0000_3000_B021 = .ok (.bnzk 22 3) ∧
    Decode.decodeS 0x077_7002_0000_00E2 = .ok (.loop 3 0 0 32 1911) ∧
    Decode.decodeS 0x000_0002_0000_00E3 = .ok (.lend 3 32) ∧
    Decode.decodeS 0x123_456A_5000_0028 = .ok (.setst 0 0 165 1193046) ∧
    Decode.decodeS 0x000_0040_0000_0329 = .ok (.setbd 12 0 0 1024) ∧
    Decode.decodeS 0x000_0FF0_0000_B32A = .ok (.setad 12 22 65280) ∧
    Decode.decodeS 0x000_0008_0B00_B4EB = .ok (.setd 19 22 11 128) ∧
    Decode.decodeS 0x000_0001_3000_04EC = .ok (.rdsrk 19 19) ∧
    Decode.decodeS 0x000_0001_0000_B02D = .ok (.wrsrk 22 16) ∧
    Decode.decodeS 0x000_0000_01C0_04F0 = .ok (.arrk 19 14) ∧
    Decode.decodeS 0x000_0000_01C0_B031 = .ok (.waitk 14 22) ∧
    Decode.decodeS 0x000_0000_0000_B032 = .ok (.sleepk 22) ∧
    Decode.decodeS 0x000_0000_0000_0033 = .ok (.gret) :=
    by and_intros <;> rfl

theorem test_decode_slot_V :
    Decode.decodeV 0x0000_0000_0000_02C0 = .ok (.vnop ⟨1, 5⟩) ∧
    Decode.decodeV 0x0000_2C40_67CD_96C1 = .ok (.vadd ⟨1, 5⟩ 101 102 103 17 1 1) ∧
    Decode.decodeV 0x0000_1480_67CD_96C2 = .ok (.vsub ⟨1, 5⟩ 101 102 103 18 2 0) ∧
    Decode.decodeV 0x0000_3CC0_67CD_96C3 = .ok (.vmul ⟨1, 5⟩ 101 102 103 19 3 1) ∧
    Decode.decodeV 0x0000_0D34_67CD_96C4 = .ok (.vfma ⟨1, 5⟩ 101 102 103 104 20 1 0) ∧
    Decode.decodeV 0x0000_00C0_67CD_96C5 = .ok (.vmin ⟨1, 5⟩ 101 102 103 3) ∧
    Decode.decodeV 0x0000_0000_67CD_96C6 = .ok (.vmax ⟨1, 5⟩ 101 102 103 0) ∧
    Decode.decodeV 0x0000_20C0_00CD_96C7 = .ok (.vabs ⟨1, 5⟩ 101 102 3 1) ∧
    Decode.decodeV 0x0000_2000_00CD_96C8 = .ok (.vneg ⟨1, 5⟩ 101 102 0 1) ∧
    Decode.decodeV 0x0000_0000_67CD_96C9 = .ok (.vand ⟨1, 5⟩ 101 102 103) ∧
    Decode.decodeV 0x0000_0000_67CD_96CA = .ok (.vor ⟨1, 5⟩ 101 102 103) ∧
    Decode.decodeV 0x0000_0000_67CD_96CB = .ok (.vxor ⟨1, 5⟩ 101 102 103) ∧
    Decode.decodeV 0x0000_00C0_67CD_96CC = .ok (.vshl ⟨1, 5⟩ 101 102 103 3) ∧
    Decode.decodeV 0x0000_0000_67CD_96CD = .ok (.vshr ⟨1, 5⟩ 101 102 103 0) ∧
    Decode.decodeV 0x0000_00C0_67CD_96CE = .ok (.vsar ⟨1, 5⟩ 101 102 103 3) ∧
    Decode.decodeV 0x0001_8440_67CD_96D0 = .ok (.vcmp ⟨1, 5⟩ 101 102 103 17 6) ∧
    Decode.decodeV 0x0000_0474_67CD_96D1 = .ok (.vsel ⟨1, 5⟩ 101 102 103 104 17) ∧
    Decode.decodeV 0x0000_0C40_00CD_96D4 = .ok (.vrcp ⟨1, 5⟩ 101 102 17 1 0) ∧
    Decode.decodeV 0x0000_3480_00CD_96D5 = .ok (.vrsq ⟨1, 5⟩ 101 102 18 2 1) ∧
    Decode.decodeV 0x0000_1CC0_00CD_96D6 = .ok (.vexp2 ⟨1, 5⟩ 101 102 19 3 0) ∧
    Decode.decodeV 0x0000_2500_00CD_96D7 = .ok (.vlog2 ⟨1, 5⟩ 101 102 20 0 1) ∧
    Decode.decodeV 0x0010_2C40_00CD_96D8 = .ok (.vcvt ⟨1, 5⟩ 101 102 17 0 2 1 1) ∧
    Decode.decodeV 0x017C_5680_67CD_96D9 = .ok (.vscale ⟨1, 5⟩ 101 102 103 26 17 3 1 5 2 0) ∧
    Decode.decodeV 0x0000_4440_00CD_96DC = .ok (.vredl ⟨1, 5⟩ 101 102 17 1 0 0) ∧
    Decode.decodeV 0x001F_80C0_00CD_96DD = .ok (.vredr ⟨1, 5⟩ 101 102 3 2 31 0 0) ∧
    Decode.decodeV 0xAAF6_C000_0001_96E0 = .ok (.vld ⟨1, 5⟩ 101 11 13 1 341) ∧
    Decode.decodeV 0x5576_C000_00CC_02E1 = .ok (.vst ⟨1, 5⟩ 102 11 13 1 170) ∧
    Decode.decodeV 0x4006_C440_0001_96E2 = .ok (.vbcast ⟨1, 5⟩ 101 0 17 1 27) ∧
    Decode.decodeV 0x0000_0000_00CD_96E3 = .ok (.vmov ⟨1, 5⟩ 101 102) ∧
    Decode.decodeV 0x0001_4000_0001_96E4 = .ok (.vqpop ⟨1, 5⟩ 101 5) :=
    by and_intros <;> rfl

theorem test_decode_slot_M :
    Decode.decodeM 0x0000_0000_0160 = .ok (.mnop ⟨1, 5⟩) ∧
    Decode.decodeM 0x02AF_90CD_0B61 = .ok (.mma ⟨1, 5⟩ 133 102 72 15 10 1 0 0) ∧
    Decode.decodeM 0xEC07_900D_0B62 = .ok (.mmaq ⟨1, 5⟩ 133 6 72 7 0 0 1 29) ∧
    Decode.decodeM 0x0000_2A66_9163 = .ok (.bload ⟨1, 5⟩ 72 102 10 1 0) ∧
    Decode.decodeM 0x0000_5406_9164 = .ok (.bloadq ⟨1, 5⟩ 72 6 20 0 1) ∧
    Decode.decodeM 0x0000_007F_0B65 = .ok (.mclr ⟨1, 5⟩ 133 63 0) :=
  by and_intros <;> rfl

theorem test_decode_slot_C :
    Decode.decodeC 0x0000_0000_0160 = .ok (.cnop ⟨1, 5⟩) ∧
    Decode.decodeC 0x00EF_3AED_AB61 = .ok (.copy ⟨1, 5⟩ 21 22 13 1 10 1 9 1 27 1) ∧
    Decode.decodeC 0x00EF_3AED_AB62 = .ok (.copyp ⟨1, 5⟩ 21 22 13 1 10 1 9 1 27 1) ∧
    Decode.decodeC 0xC8EF_3AED_AB63 = .ok (.cpack ⟨1, 5⟩ 21 22 13 1 10 1 9 1 27 1 200) ∧
    Decode.decodeC 0x64EF_3AED_AB64 = .ok (.cunpk ⟨1, 5⟩ 21 22 13 1 10 1 9 1 27 1 100) ∧
    Decode.decodeC 0x00EF_2005_AB65 = .ok (.pub ⟨1, 5⟩ 21 22 9 1 27 1) :=
  by and_intros <;> rfl

theorem test_decode_slot_X :
    Decode.decodeX 0x00_00B0 = .ok (.xnop ⟨1, 5⟩) ∧
    Decode.decodeX 0x66_85B1 = .ok (.xpose ⟨1, 5⟩ 133 102) ∧
    Decode.decodeX 0x36_D5B2 = .ok (.chain ⟨1, 5⟩ 21 22 13) ∧
    Decode.decodeX 0x7F_75B3 = .ok (.chord ⟨1, 5⟩ 21 11 63) ∧
    Decode.decodeX 0x06_7FB4 = .ok (.chstep ⟨1, 5⟩ 63 9 1) ∧
    Decode.decodeX 0x00_15B5 = .ok (.chend ⟨1, 5⟩ 21) :=
  by and_intros <;> rfl

-- Well-formedness: an ill-formed term for each check, refused under the code of R319

/-- R136, R149: guard p0 with sense 1, and an E bit of a field that is not read. -/
theorem test_wf_guard : WellFormed.check (.nop ⟨0, 1, 0, 0, 0⟩) = some .guard ∧
    WellFormed.check (.fend ⟨0, 1, 0, 0, 0⟩) = some .guard ∧ WellFormed.check (.nop ⟨3, 1, 0, 0, 0⟩) = none := by decide
theorem test_wf_ebit : WellFormed.check (.nop ⟨0, 0, 1, 0, 0⟩) = some .reserved ∧
    WellFormed.check (.add ⟨0, 0, 4, 0, 0⟩ 1 2 3 0) = some .reserved ∧ WellFormed.check (.add ⟨0, 0, 3, 0, 0⟩ 1 2 3 0) = none ∧
    WellFormed.check (.cvtpk ⟨0, 0, 4, 0, 0⟩ 1 2 3 0 0x12 0 0) = some .reserved ∧
    WellFormed.check (.spawn ⟨0, 0, 2, 0, 0⟩ 2 0 4 0) = some .reserved := by decide
/-- R139: odd pairs, quads that are no multiple of 4, and names outside their range (R133). -/
theorem test_wf_register : WellFormed.check (.add64 {} 1 2 4) = some .register ∧ WellFormed.check (.add64 {} 2 3 4) = some .register ∧
    WellFormed.check (.add64 {} 2 4 5) = some .register ∧ WellFormed.check (.ldGB128 {} 6 2 0 0 0) = some .register ∧
    WellFormed.check (.ldGB32 {} 1 3 0 0 0) = some .register ∧ WellFormed.check (.mov {} 1 2 1) = some .register ∧
    WellFormed.check (.setp {} 16 2 3 0 0) = some .register ∧ WellFormed.check (.park {} 16) = some .register ∧
    WellFormed.check (.qpop {} 8 0 16) = some .register ∧ WellFormed.check (.qpop {} 8 8 1) = some .register ∧
    WellFormed.check (.hgive {} 16 1 0) = some .register ∧ WellFormed.check (.barv {} 1 16) = some .register ∧
    WellFormed.check (.dadd {} 2 4 7 0) = some .register ∧ WellFormed.check (.rdcyc {} 3) = some .register ∧
    WellFormed.check (.cvt {} 3 4 0x10 0x11 0 0) = some .register ∧ WellFormed.check (.rdsr {} 3 6) = some .register := by decide
/-- R134: special registers that are reserved or may not be written. -/
theorem test_wf_special : WellFormed.check (.rdsr {} 2 0x12) = some .special ∧ WellFormed.check (.rdsr {} 2 0x28) = some .special ∧
    WellFormed.check (.wrsr {} 2 0x22) = some .special ∧ WellFormed.check (.wrsr {} 2 0x21) = none ∧
    WellFormed.checkS (.rdsrk 1 0) = some .special ∧ WellFormed.checkS (.wrsrk 1 0x06) = some .special ∧
    WellFormed.checkS (.wrsrk 1 0x14) = some .special := by decide
/-- R106, R170, R172: formats. -/
theorem test_wf_format : WellFormed.check (.cvt {} 2 4 0x16 0x11 0 0) = some .format ∧
    WellFormed.check (.cvts {} 2 4 6 0 0x10 0x11 0 0) = some .format ∧ WellFormed.check (.cvtpk {} 2 4 6 8 0x11 0 0) = some .format ∧
    WellFormed.check (.cvtupk {} 2 4 0x03 0) = some .format ∧ WellFormed.checkV (.vadd {} 1 2 3 0x02 0 0) = some .format ∧
    WellFormed.checkV (.vshl {} 1 2 3 0x11) = some .format ∧ WellFormed.checkV (.vcvt {} 1 2 0x10 0x11 0 0 0) = some .format ∧
    WellFormed.checkM (.mma {} 0 0 0 0 0x11 0 0 0) = some .format ∧ WellFormed.checkM (.bload {} 0 0 0x03 0 0) = some .format ∧
    WellFormed.check (.pcvt 1 0x10 0x11 0 0) = some .format := by decide
/-- R84, R137: kinds and scopes. -/
theorem test_wf_order : WellFormed.check (.ldGB32 {} 1 2 3 3 0) = some .order ∧ WellFormed.check (.ldGB32 {} 1 2 0 1 0) = some .order ∧
    WellFormed.check (.ldGB32 {} 1 2 1 5 0) = some .order ∧ WellFormed.check (.stGB32 {} 1 2 2 3 0) = some .order ∧
    WellFormed.check (.stSB8 {} 1 2 0 4 3 0) = some .order ∧ WellFormed.check (.atomAddI32 {} 1 2 3 0 0) = some .order ∧
    WellFormed.check (.fence {} 3 5) = some .order ∧
    WellFormed.check (.ldGB32 {} 1 2 2 4 0) = none := by decide
/-- R149: reserved codes of assigned fields. -/
theorem test_wf_field : WellFormed.check (.setp {} 1 2 3 6 0) = some .field ∧ WellFormed.check (.setp {} 1 2 3 0 6) = some .field ∧
    WellFormed.check (.setpi {} 1 2 6 0 0) = some .field ∧ WellFormed.check (.cvt {} 2 4 0x11 0x11 0 0) = some .field ∧
    WellFormed.check (.cvtupk {} 2 4 0x12 2) = some .field ∧ WellFormed.check (.cvtpk {} 2 4 6 8 0x12 0 0) = some .field ∧
    WellFormed.check (.xred {} 2 4 1 3 0) = some .field ∧ WellFormed.check (.spawn {} 2 4 6 7) = some .field ∧
    WellFormed.check (.spawn {} 2 4 6 0) = some .field ∧ WellFormed.check (.waitj {} 0) = some .field ∧
    WellFormed.check (.fence {} 0 3) = some .field ∧ WellFormed.check (.qpop {} 4 0 1) = some .field := by decide
/-- R227 to R233: the S slot. -/
theorem test_wf_slot_S : WellFormed.checkS (.addk 1 2 1 3 0) = some .reserved ∧ WellFormed.checkS (.addk 1 2 0 3 1) = some .reserved ∧
    WellFormed.checkS (.movk 1 0 2 0) = some .reserved ∧ WellFormed.checkS (.ldk 1 2 3 1 0 0) = some .field ∧
    WellFormed.checkS (.loop 0 0 1 4 4) = some .reserved ∧ WellFormed.checkS (.loop 0 0 0 0 4) = some .loop ∧
    WellFormed.checkS (.lend 0 0) = some .loop ∧ WellFormed.checkS (.setst 1 2 0 5) = some .reserved ∧
    WellFormed.checkS (.setbd 0 1 2 5) = some .reserved := by decide
/-- R143, R225, R237 to R251: the V, M, C and X slots. -/
theorem test_wf_slots : WellFormed.checkV (.vnop ⟨0, 1⟩) = some .guard ∧ WellFormed.checkM (.mnop ⟨0, 1⟩) = some .guard ∧
    WellFormed.checkC (.cnop ⟨0, 1⟩) = some .guard ∧ WellFormed.checkX (.xnop ⟨0, 1⟩) = some .guard ∧
    WellFormed.checkV (.vcmp {} 1 2 3 0x03 6) = some .field ∧ WellFormed.checkV (.vabs {} 1 2 0x11 1) = some .reserved ∧
    WellFormed.checkV (.vredl {} 1 2 0x11 3 0 0) = some .field ∧ WellFormed.checkV (.vredl {} 1 2 0x11 1 1 0) = some .reserved ∧
    WellFormed.checkV (.vcvt {} 1 2 0x11 0x11 0 0 0) = some .field ∧ WellFormed.checkV (.vcvt {} 1 2 0x11 0x12 2 0 0) = some .field ∧
    WellFormed.checkV (.vbcast {} 1 2 0x11 1 0) = some .reserved ∧ WellFormed.checkV (.vrcp {} 1 2 0x11 1 0) = some .field ∧
    WellFormed.checkM (.mma {} 0x90 0 0 0 0 0 0 0) = some .reserved ∧ WellFormed.checkM (.mma {} 0 0 0 0 0 1 0 0) = some .field ∧
    WellFormed.checkM (.mma {} 0 0 0 0 0x12 0 1 0) = some .field ∧ WellFormed.checkM (.bload {} 1 0 0x00 0 0) = some .field ∧
    WellFormed.checkM (.bload {} 0 0 0x00 1 0) = some .field ∧ WellFormed.checkM (.mclr {} 1 0 1) = some .field ∧
    WellFormed.checkX (.xpose {} 0x90 0) = some .reserved := by decide

/-- R139, R197, R285, R286: the remaining checks of fibre and stream words. -/
theorem test_wf_rest : WellFormed.check (.xcopy {} 2 4 1 0 0 0) = some .reserved ∧ WellFormed.check (.xcopy {} 2 4 16 0 0 1) = some .register ∧
    WellFormed.check (.pbits 1 33) = some .field ∧ WellFormed.check (.plit 1 4) = some .field ∧ WellFormed.check (.pplane 1 0) = some .field ∧
    WellFormed.check (.pcvt 1 0x11 0x11 1 0) = some .field ∧ WellFormed.check (.pmode 0 32) = some .stream ∧
    WellFormed.check (.pmode 1 63) = none := by decide

-- One step on a small state: the word stands where the step fetches it, the operands are in registers

/-- A register that holds a value. -/
def full (v : Word) : Reg := { val := v }

/-- The fibre word `w` at the PC of fibre 0 of core 0, whose registers hold `regs`. -/
def fibreAt (regs : FMap Reg) (w : Nat) : State :=
  (State.reset.withFetchWord 64 w).modFibre 0 0 0 fun x => { x with regs := regs }

/-- The fibre of fibreAt after one step. -/
def after (s : State) : Option Fibre :=
  match step s with
  | .next t => t.fibre 0 0 0
  | _ => none

/-- Register `n` of the fibre after one step. -/
def regAfter (regs : FMap Reg) (w n : Nat) : Option Word := (after (fibreAt regs w)).map (·.g 256 n)

/-- R156: ABS of the most negative word wraps, ABS.SAT saturates; ADD.SAT. -/
theorem test_abs : regAfter [(2, full 0x80000000)] 0x04E0_0001_0200_0000 1 = some 0x80000000 := by decide
theorem test_abs_sat : regAfter [(2, full 0x80000000)] 0x04E0_0001_0200_0001 1 = some 0x7FFFFFFF := by decide
theorem test_add_sat : regAfter [(2, full 0x7FFFFFFF), (3, full 1)] 0x0400_0001_0203_0001 1 = some 0x7FFFFFFF := by decide
/-- R154: the destination may be a source. -/
theorem test_add_own_source : regAfter [(2, full 7)] 0x0400_0002_0202_0000 2 = some 14 := by decide
/-- R157: −7 divided by 2, and division by zero. -/
theorem test_div : regAfter [(2, full 0xFFFFFFF9), (3, full 2)] 0x0460_0001_0203_0000 1 = some 0xFFFFFFFD := by decide
theorem test_rem : regAfter [(2, full 0xFFFFFFF9), (3, full 2)] 0x0480_0001_0203_0000 1 = some 0xFFFFFFFF := by decide
theorem test_div_by_zero : regAfter [(2, full 5)] 0x0460_0001_0203_0000 1 = some 0xFFFFFFFF := by decide
/-- R160: the worked examples. -/
theorem test_bfe : regAfter [(2, full 0xABCD1234), (3, full 0x80C)] 0x0CE0_0001_0203_0000 1 = some 0xD1 := by decide
theorem test_bfe_signed : regAfter [(2, full 0xABCD1234), (3, full 0x80C)] 0x0CE0_0001_0203_0001 1 = some 0xFFFFFFD1 := by decide
theorem test_bpick : regAfter [(2, full 0x44332211), (3, full 0x88776655), (4, full 0x0300C104)] 0x0D00_0001_0203_0400 1 =
    some 0x44114455 := by decide
/-- R161: a pair's carry reaches its upper half. -/
theorem test_add64 : regAfter [(2, full 0xFFFFFFFF), (3, full 0), (4, full 1), (5, full 0)] 0x1000_0006_0204_0000 7 = some 1 := by
  decide
/-- R152: a write to g0 is discarded. -/
theorem test_write_g0 : (after (fibreAt [(2, full 7)] 0x0400_0000_0202_0000)).map (fun x => (x.g 256 0, x.pc)) =
    some (0, 0x10008) := by decide
/-- R120, R170: the worked conversions of 300.0, 470.0 and −2.5. -/
theorem test_cvt_e4m3 : regAfter [(4, full 0x43960000)] 0x2C00_0005_0400_1488 5 = some 0x79 := by decide
theorem test_cvt_int : regAfter [(4, full 0xC0200000)] 0x2C00_0005_0400_038A 5 = some 0xFFFFFFFD := by decide
/-- R171: INT8 100 with the SC8 scale 0x3A. -/
theorem test_cvts : regAfter [(4, full 100), (6, full 0x3A)] 0x2C10_0005_0406_1100 5 = some 0x3EFA0000 := by decide
/-- R172: the worked packing of 300.0 and −1.5 above 0x287E. -/
theorem test_cvtpk : regAfter [(1, full 0x43960000), (2, full 0xBFC00000), (8, full 0x0000287E)] 0x2C20_0008_0102_08A4 8 =
    some 0x287EBC79 := by decide
/-- R164: 1.0 below 2.0. -/
theorem test_setp : (after (fibreAt [(4, full 0x3F800000), (5, full 0x40000000)] 0x1420_0002_0405_0012)).map (·.pred 2) =
    some true := by decide
/-- R173: a branch goes to its target and folds it into the signature. -/
theorem test_bra : (after (fibreAt [] 0x3000_0000_0000_0002)).map (fun x => (x.pc, x.sig)) = some (0x10010, 0x10010) := by decide
/-- R138: a false guard gives no effect. -/
theorem test_false_guard : (after (fibreAt [(2, full 7)] 0x0401_0001_0202_0000)).map (fun x => (x.g 256 1, x.pc)) =
    some (0, 0x10008) := by decide
/-- R138: a fibre waits for an empty source whose E bit is 0. -/
theorem test_empty_source : (after (fibreAt [(2, { val := 7, full := false })] 0x0400_0001_0202_0000)).map
    (fun x => (x.status, x.pc)) = some (.waiting (.emptyReg [2, 2]), 0x10000) := by decide
/-- R355: a trap of a context without frames stops the fibre. -/
theorem test_trap_no_frames : (after (fibreAt [] 0x0010_0000_0000_0007)).map (·.status) = some (.dead 2) := by decide +kernel
/-- R185: the only fibre ends. -/
theorem test_fend : (after (fibreAt [] 0x0070_0000_0000_0000)).map (·.status) = some .ended := by decide
/-- R149: a word of an unassigned major and one with a reserved bit are refused. -/
theorem test_unassigned : step (fibreAt [] 0xFC00_0000_0000_0000) = .refused .unassigned := by rfl
theorem test_reserved : step (fibreAt [] 0x0000_0000_0000_0001) = .refused .reservedEncoding := by rfl

/-- The bundle `w` at the PC of the tile program of core 0. -/
def tileAt (w : Nat) (f : Core → Core) : State := (State.reset.withFetchWord 256 w).modCore 0 f
/-- Core 0 after one step. -/
def coreAfter (s : State) : Option Core :=
  match step s with
  | .next t => some (t.core 0)
  | _ => none

/-- The landings that a bundle leaves. -/
def landingsOf (w : Nat) (f : Core → Core) : Option (List (Dest × Nat)) :=
  (coreAfter (tileAt w f)).map fun k => k.landings.map fun l => (l.dst, l.val)

/-- R228: `ADDIK k2, k1, 1` (opcode 0x12, kd 2, ka 1) of 0x7FFF_FFFF wraps at 32 bits and sign-extends. -/
theorem test_addik : landingsOf ((0x12 + 2 * 2 ^ 6 + 1 * 2 ^ 11 + 1 * 2 ^ 28) * 2 ^ 8) (fun k => { k with
    tsq := { k.tsq with k := [(1, 0x7FFFFFFF)] } }) = some [(.k 2, 0xFFFFFFFF80000000)] := by decide
/-- R227: `SARK k2, k1, 64` of a negative value fills with ones. -/
theorem test_sark : landingsOf ((0x09 + 2 * 2 ^ 6 + 1 * 2 ^ 11 + 1 * 2 ^ 21 + 64 * 2 ^ 28) * 2 ^ 8) (fun k => { k with
    tsq := { k.tsq with k := [(1, 0x8000000000000000)] } }) = some [(.k 2, 0xFFFFFFFFFFFFFFFF)] := by decide
/-- R231: `LOOP lc1, 0, end` with L = 2 goes on after its body. -/
theorem test_loop_zero : (coreAfter (tileAt ((0x22 + 1 * 2 ^ 6 + 2 * 2 ^ 28) * 2 ^ 8) id)).map (·.tsq.pc) = some 0x10060 := by decide
/-- R230: `BRK` with IMM32 = −1 goes one bundle back. -/
theorem test_brk : (coreAfter (tileAt ((0x20 + 0xFFFFFFFF * 2 ^ 28) * 2 ^ 8) id)).map (·.tsq.pc) = some 0xFFE0 := by decide
/-- R66, R232: a rotating bundle (header bit 1) moves the names and the stage predicates. -/
theorem test_rot : (coreAfter (tileAt 2 fun k => { k with tsq := { k.tsq with vrot := 5, st := 0b101, fc := 1 } })).map
    (fun k => (k.tsq.vrot, k.tsq.st, k.tsq.fc)) = some (4, 0b1011, 0) := by decide
/-- R243: `VMOV v3, v1` under a true stage guard, and under a false one. -/
theorem test_vmov : landingsOf ((0x23 + 1 * 2 ^ 6 + 3 * 2 ^ 10 + 1 * 2 ^ 17) * 2 ^ 72) (fun k => { k with
    acm := [(1, 0xAB)], tsq := { k.tsq with st := 1 } }) = some [(.row 3, 0xAB)] := by decide +kernel
theorem test_vmov_guarded : landingsOf ((0x23 + 1 * 2 ^ 6 + 3 * 2 ^ 10 + 1 * 2 ^ 17) * 2 ^ 72) (fun k => { k with
    acm := [(1, 0xAB)] }) = some [] := by decide

/-- The stream word `w` at the PC of a stream program. -/
def streamAt (w : Nat) (f : Producer → Producer) : State :=
  (State.reset.withFetchWord 32 w).modCore 0 fun k => { k with prs := k.prs.map f }

/-- R283: `PSHL ms1, ms2, ms3` by 32 gives 0, and `PSUB ms1, ms0, ms2` wraps. -/
theorem test_pshl : (coreAfter (streamAt 0x1848_C000 fun p => { p with ms := [(2, 5), (3, 32)] })).bind
    (fun k => k.prs.map (·.m 1)) = some 0 := by decide
theorem test_psub : (coreAfter (streamAt 0x0C40_8000 fun p => { p with ms := [(2, 5)] })).bind
    (fun k => k.prs.map (·.m 1)) = some 0xFFFFFFFB := by decide
/-- R148: `PBNZ ms2` with IMM14 = −4 goes four words back. -/
theorem test_pbnz : (coreAfter (streamAt 0x2C08_3FFC fun p => { p with ms := [(2, 1)] })).bind
    (fun k => k.prs.map (·.pc)) = some 0xFFF0 := by decide
/-- R278: the worked table of four codes of two bits, and a code word's symbol. -/
theorem test_symbol : tableFits [2, 2, 2, 2] = true ∧ symbolOf [2, 2, 2, 2] 2 2 = some 2 := by decide

-- Worked values of the number formats

/-- R120: the worked conversions. -/
theorem test_conversions :
    convert 0x14 0x11 0 false 0x43960000 = 0x79 ∧ convert 0x15 0x11 0 false 0x43960000 = 0x5D ∧
    convert 0x14 0x11 0 false 0x43EB0000 = 0x7F ∧ convert 0x14 0x11 0 true 0x43EB0000 = 0x7E ∧
    convert 0x14 0x11 1 false 0x43EB0000 = 0x7E ∧ convert 0x18 0x11 0 false 0x3E800000 = 0 ∧
    convert 0x18 0x11 0 false 0x3F400000 = 2 ∧ convert 0x18 0x11 0 false 0x40E00000 = 7 ∧
    convert 0x13 0x11 0 false 0x3F818000 = 0x3F82 ∧ convert 0x13 0x11 0 false 0x3F808000 = 0x3F80 ∧
    convert 0x03 0x11 0 false 0xC0200000 = 0xFFFFFFFE ∧ convert 0x03 0x11 2 false 0xC0200000 = 0xFFFFFFFD ∧
    convert 0x03 0x11 0 false 0x4F32D05E = 0x7FFFFFFF ∧ convert 0x03 0x11 0 false 0x7FC00000 = 0 := by decide
/-- R126: the worked pairwise and ascending sums. -/
theorem test_reductions :
    reducePairwise (fun a b => fAdd 0x11 0 a b) 0 2 [0x4B800000, 0x3F800000, 0x3F800000, 0xCB800000] = 0x3F800000 ∧
    reduceAsc (fun a b => fAdd 0x11 0 a b) [0x4B800000, 0x3F800000, 0x3F800000, 0xCB800000] = some 0 := by decide
/-- R128: the worked maxima. -/
theorem test_maxima : fminmax true 0x11 0 0x80000000 = 0 ∧ fminmax true 0x11 0x40400000 0x7FC00001 = 0x40400000 := by decide
/-- R192: the worked float additions of one location. -/
theorem test_atomic_add : fAdd 0x11 0 (fAdd 0x11 0 0x3F800000 0x4B800000) 0xCB800000 = 0 ∧
    fAdd 0x11 0 (fAdd 0x11 0 0x3F800000 0xCB800000) 0x4B800000 = 0x3F800000 := by decide
/-- R79: the worked view bytes of elements 91 and −46 at precision 4, plain and corrected. -/
theorem test_view :
    let s : State := { mem := [(0, 2), (128, 3), (384, 3), (512, 1), (768, 3), (896, 1)] }
    viewByte s 0 0 8 4 0 false = 0xD5 ∧ viewByte s 0 0 8 4 0 true = 0xD6 := by decide
/-- R386: a rotation by one moves the top bit of a doubleword, and of a word, to bit 0. -/
theorem test_rol : rolN (2 ^ 63) 1 64 = 1 ∧ rolN (2 ^ 31) 1 32 = 1 := by decide +kernel
/-- R116, R250: the worked codes and lane of MMA.BP8, plain and corrected. -/
theorem test_mma_lane :
    bpCode 91 4 false = 5 ∧ bpCode (-46) 4 false = -3 ∧ bpCode 91 4 true = 6 ∧
    intElem 0 false 10 [80, -48] [3, 2] = 154 ∧ intElem 0 false 10 [96, -48] [3, 2] = 202 := by decide
/-- R266: the worked chain contraction: 3 + 50, 6 − 5. -/
theorem test_chain : contractElem [(valueOf 0x40400000 0x11, valueOf 0x3F800000 0x11), (valueOf 0x40A00000 0x11, valueOf 0x41200000 0x11)] =
    0x42540000 ∧ contractElem [(valueOf 0x40400000 0x11, valueOf 0x40000000 0x11), (valueOf 0x40A00000 0x11, valueOf 0xBF800000 0x11)] =
    0x3F800000 := by decide

-- Witnesses: for each statement with hypotheses, a state and operands that meet them together

/-- A block of core 0 with one fibre, that fibre's turn, and the rest of core 0. -/
def turnOf (x : Fibre) (k : Block := { nfibre := 1, win := 64, bars := [0] }) (core : Core := {}) : State :=
  { cur := .fibre 0 0 0, cores := [(0, { core with blocks := [(0, { k with fibres := [(0, x)] })] })] }

/-- The issuer of a state whose turn is fibre 0 of core 0's, under the header `h`. -/
def issuer (s : State) (h : FHdr := {}) : FCtx :=
  let x := (s.fibre 0 0 0).getD {}
  ⟨0, 0, 0, (s.block 0 0).getD {}, x, h, guardOf h x⟩

/-- Nothing stops an instruction of the issuer before its own step. -/
def ready (s : State) (h : FHdr := {}) : Bool :=
  let q := issuer s h
  decide (s.cur = .fibre 0 0 0) && (s.block 0 0).isSome && (s.fibre 0 0 0).isSome && q.x.canIssue && q.x.pending.isEmpty &&
    q.k.pending.isEmpty && decide (h.m = 0) && !marked s q.k.ctx q.x.pc && q.x.hold.isEmpty &&
    q.x.regs.all fun p => p.2.full && !p.2.poison

theorem reg_all (x : Fibre) (win n : Nat) (h : x.regs.all (fun p => p.2.full && !p.2.poison) = true) :
    (x.reg win n).full = true ∧ (x.reg win n).poison = false := by
  unfold Fibre.reg
  split
  · exact ⟨rfl, rfl⟩
  · unfold FMap.get
    generalize x.regs = l at h
    induction l with
    | nil => exact ⟨rfl, rfl⟩
    | cons a t ih =>
      simp only [List.all_cons, Bool.and_eq_true] at h
      unfold FMap.find?
      split
      · simpa using h.1
      · exact ih h.2

theorem fibreTurn_of (s : State) (h : FHdr) (r : ready s h = true) : FibreTurn s h (issuer s h) := by
  simp only [ready, Bool.and_eq_true, decide_eq_true_eq, List.isEmpty_iff, Bool.not_eq_true'] at r
  obtain ⟨⟨⟨⟨⟨⟨⟨⟨⟨h1, h2⟩, h3⟩, h4⟩, h5⟩, h6⟩, h7⟩, h8⟩, h9⟩, _⟩ := r
  refine ⟨h1, ?_, ?_, h4, h5, h6, h7, h8, ?_, rfl, rfl⟩
  · obtain ⟨k, hk⟩ := Option.isSome_iff_exists.1 h2
    simp [issuer, hk]
  · obtain ⟨k, hk⟩ := Option.isSome_iff_exists.1 h3
    simp [issuer, hk]
  · simp [heldBack, h9, FMap.get, FMap.find?]

theorem issues_of (s : State) (h : FHdr) (r : ready s h = true) (g : (issuer s h).guard = true) (srcs : List Src) (ps : List Nat)
    (dsts : List (Nat × Nat)) : Issues s h (issuer s h) srcs ps dsts := by
  have t := fibreTurn_of s h r
  simp only [ready, Bool.and_eq_true, decide_eq_true_eq, List.isEmpty_iff, Bool.not_eq_true'] at r
  have all := fun n => reg_all (issuer s h).x (issuer s h).k.win n r.2
  refine ⟨t, g, ⟨?_, fun _ _ n _ => (all n).1, fun _ _ n _ => (all n).2⟩, ?_⟩
  · simp [heldBack, r.1.2, FMap.get, FMap.find?]
  · simp only [dstEmpty, List.any_eq_false, Bool.and_eq_true, decide_eq_true_eq, not_and]
    intro p _ _
    simp [(all _).1]

/-- ArithmeticResults, DivisionResults, LogicResults, BitFieldResults, PairResults, MoveAndPredicateResults, FloatResults,
PackedAndDoubleResults, SpecialFunctionResults, ConversionResults: their one hypothesis, for every operand. -/
theorem witness_issues (srcs : List Src) (ps : List Nat) (dsts : List (Nat × Nat)) :
    Issues (turnOf {}) {} (issuer (turnOf {})) srcs ps dsts := issues_of _ _ (by decide) (by decide) _ _ _

/-- SpecialFunctionResults, TileVector: a finite operand of either sign whose results are not exact, an integer one, and a NaN. -/
theorem witness_specialOperands :
    (∀ n ∈ [false, true], ∃ m e, valueOf (if n then 0xBFC00000 else 0x3FC00000) 0x11 = .fin n m e ∧ m ≠ 0 ∧ ilogb m e < 24 ∧ e < 0 ∧
      m % 2 ^ (-e).toNat ≠ 0 ∧ m ≠ 2 ^ Nat.log2 m) ∧
    (∃ m e, valueOf 0x4C000000 0x11 = .fin false m e ∧ m ≠ 0 ∧ 1 ≤ e) ∧ valueOf 0x7FC00000 0x11 = .nan := by
  refine ⟨?_, ⟨2 ^ 23, 2, by rfl, by decide, by decide⟩, by rfl⟩
  intro n hn
  simp only [List.mem_cons, List.not_mem_nil, or_false] at hn
  rcases hn with rfl | rfl <;> exact ⟨3 * 2 ^ 22, -23, by rfl, by decide, by decide, by decide, by decide, by decide⟩

/-- A fibre whose pair g2 holds `v`. -/
def holds (v : DWord) : Fibre := { regs := [(2, full (v.setWidth 32)), (3, full ((v >>> 32).setWidth 32))] }
/-- The cached translation of page `n` of context 0 to frame `n`. -/
def pg (n : Nat) : Tlb :=
  { ctx := 0, page := n, frame := n, rd := true, wr := true, ex := true, sealed_ := false, key := 0 }
/-- The turn of fibre `x` where context 0's page tables map its first 8 MB to the same physical addresses and the pages
`pages` are cached; its handler is at 0x1000 and its frame area at 0x10000 with one frame a core. -/
def world (x : Fibre) (pages : List Nat := []) (k : Block := { nfibre := 1, win := 64, bars := [0] }) (core : Core := {})
    (dev : FMap (BitVec 64) := []) : State :=
  { turnOf x k core with
    mem := [(0x4000, 1), (0x4001, 0x80), (0x8000, 1), (0x8001, 0xC0), (0xC000, 0x1F)]
    dev := [(offCX 0 0, 0x4001), (offCX 0 8, 0x1000), (offCX 0 0x10, 0x10000), (offCX 0 0x18, 1)] ++ dev
    tlb := pages.map pg }

/-- The result of a translation, as a Boolean comparison. -/
theorem ok_of {α ε : Type} [DecidableEq α] {e : Except ε α} {v : α} (h : (e.toOption == some v) = true) : e = .ok v := by
  cases e with
  | error _ => cases h
  | ok a => simp [Except.toOption] at h; rw [h]

/-- The state with the lines of some addresses in die 0's slices. -/
def withLines (l : List Nat) (s : State) : State := { s with slices := l.map fun a => (sliceOf 0 a, { lines := [(a / 128, {})] }) }

/-- A store of fibre 0 that is still to be performed. -/
def late : Access := { id := 0, slot := 0, fib := 0, op := .store, pa := 0x2000, size := 4 }

/-- IssueSteps: a marked word, a false guard, an empty source that traps or is waited for, a poisoned source. -/
theorem witness_IssueSteps :
    (let s : State := { world {} with seals := [(0, { ctx := 0, marks := [0] })] }
     let q := issuer s
     s.cur = .fibre q.c q.b q.f ∧ s.block q.c q.b = some q.k ∧ s.fibre q.c q.b q.f = some q.x ∧ q.x.canIssue = true ∧
       q.x.pending = [] ∧ q.k.pending = [] ∧ marked s q.k.ctx q.x.pc = true) ∧
    (let h : FHdr := ⟨1, 0, 0, 0, 0⟩
     FibreTurn (turnOf {}) h (issuer (turnOf {}) h) ∧ (issuer (turnOf {}) h).guard = false) ∧
    (let x : Fibre := { regs := [(2, { full := false }), (3, { poison := true })] }
     let q := issuer (turnOf x)
     q.guard = true ∧ (srcA 2).empty q.x 64 = true ∧ (srcA 3).empty q.x 64 = false ∧ (srcA 3).poisoned q.x 64 = some 3 ∧
       eBit ⟨0, 0, 1, 0, 0⟩ 0 = true ∧ eBit {} 0 = false ∧ dstEmpty [(2, 1)] q.x 64 = true ∧ dstEmpty [(3, 1)] q.x 64 = false) :=
  ⟨⟨rfl, rfl, rfl, rfl, rfl, rfl, by decide +kernel⟩, ⟨fibreTurn_of _ _ (by decide), by decide⟩, by decide⟩

/-- ControlTransfers: a target that is canonical and aligned, at the ends of its range, and one past each bound. -/
theorem witness_ControlTransfers :
    ∀ v ∈ [0, 0xFFFFFFFFFFFFF8#64, 0x100000000000000#64, 0xFFFFFFFFFFFFFFFF#64, 4, 0xFFFFFFFFFFFFFC#64],
      Issues (turnOf (holds v)) {} (issuer (turnOf (holds v))) [srcA 2 2] [] [(4, 2)] ∧ (issuer (turnOf (holds v))).gg 2 = v := by
  intro v hv
  simp only [List.mem_cons, List.not_mem_nil, or_false] at hv
  rcases hv with rfl | rfl | rfl | rfl | rfl | rfl <;> exact ⟨issues_of _ _ (by decide) (by decide) _ _ _, by decide⟩

/-- SystemResults: SLEEP to the cycle that has come and to the next one; a fibre outside a handler. -/
theorem witness_SystemResults : ∀ v ∈ [0, 1#64], Issues (turnOf (holds v)) {} (issuer (turnOf (holds v))) [srcA 2 2] [] [] ∧
    (issuer (turnOf (holds v))).gg 2 = v ∧ (turnOf (holds v)).cycle = 0 ∧ (issuer (turnOf (holds v))).x.depth = 0 := by
  intro v hv
  simp only [List.mem_cons, List.not_mem_nil, or_false] at hv
  rcases hv with rfl | rfl <;> exact ⟨issues_of _ _ (by decide) (by decide) _ _ _, by decide, rfl, rfl⟩

/-- TrapEntry: room for a frame at the outermost and the innermost depth, BKPT armed and not. -/
theorem witness_TrapEntry : ∀ d ∈ [0, 7],
    let s := world { depth := d } [16] (dev := [(offDbg 0 0, 0x81)])
    let q := issuer s
    Issues s {} q [] [] [] ∧ q.x.depth < 8 ∧ devBits s (offCX 0 0x18) 10 0 ≠ 0 ∧ freeSlot (s.core 0).slotsUsed 0 1 = some 0 ∧
      rangeFault s 0 1 3 0x10000 (256 + 8 * 64) = none ∧ devBits s (offCX 0 8) 55 3 * 8 ≠ 0 ∧ bkptOn s 0 0 = true ∧
      bkptOn (world {}) 0 0 = false := by
  intro d hd
  simp only [List.mem_cons, List.not_mem_nil, or_false] at hd
  rcases hd with rfl | rfl <;> exact ⟨issues_of _ _ (by decide +kernel) (by decide) _ _ _, by decide +kernel⟩

/-- FailedTrapEntry: DEPTH 8, no frame area, no free slot, a frame area that is not mapped, and no handler. -/
theorem witness_FailedTrapEntry :
    (let s := world { depth := 8 }
     (issuer s).x.depth = 8) ∧
    (let s := turnOf { depth := 7 }
     devBits s (offCX 0 0x18) 10 0 = 0) ∧
    (let s := world {} (core := { slotsUsed := [(0, 0)] })
     devBits s (offCX 0 0x18) 10 0 ≠ 0 ∧ freeSlot (s.core 0).slotsUsed 0 1 = none) ∧
    (let s : State := { world {} with mem := [] }
     freeSlot (s.core 0).slotsUsed 0 1 = some 0 ∧ (rangeFault s 0 1 3 0x10000 (256 + 8 * 64)).isSome) ∧
    (let s : State := devSet (world {}) (offCX 0 8) 0
     rangeFault s 0 1 3 0x10000 (256 + 8 * 64) = none ∧ devBits s (offCX 0 8) 55 3 = 0) := by decide +kernel

/-- HandlerReturn: outside a handler; inside one with a readable frame; WRSR of a multiple of 8 and of another value. -/
theorem witness_HandlerReturn :
    let s (v : DWord) := world { holds v with depth := 1, frame := 0x10000, frames := [0] } [16]
    Issues (turnOf {}) {} (issuer (turnOf {})) [] [] [] ∧ (∀ v ∈ [8, 9#64], Issues (s v) {} (issuer (s v)) [srcA 2 2] [] []) ∧
      (readVirt (s 8) 0 0x10000 (256 + 8 * 64) = .ok (List.replicate 768 0)) ∧ frameTile (List.replicate 768 0) = false ∧
      framePc (List.replicate 768 0) % 8 = 0 ∧ frameCpe (List.replicate 768 0) = false ∧ ((issuer (s 8)).gg 2).toNat = 8 ∧
      ((issuer (s 9)).gg 2).toNat = 9 ∧ MemOk (s 8) ∧ (translate (s 8) 0 1 0x10000 = .ok (pg 16)) ∧
      (walkPage (s 8) 0 0x10000 = .ok { pg 16 with level := 2 }) ∧ backed ((pg 16).pa 0x10000) = true ∧ backed ((pg 16).pa 0x10000 + 7) = true ∧
      keyGone (s 8) 0 = false ∧ Drained (s 8) (issuer (s 8)) := by
  refine ⟨issues_of _ _ (by decide) (by decide) _ _ _, ?_, by decide +kernel, by decide +kernel, by decide +kernel,
    by decide +kernel, by decide, by decide, by unfold MemOk; decide +kernel, ok_of (by decide +kernel), ok_of (by decide +kernel),
    by decide, by decide, by decide, by unfold Drained; decide⟩
  intro v hv
  simp only [List.mem_cons, List.not_mem_nil, or_false] at hv
  rcases hv with rfl | rfl <;> exact issues_of _ _ (by decide +kernel) (by decide) _ _ _

/-- HandlerReturn: an access under way; a frame with a misaligned PC, one that cannot be read, a tile program's, and a copy command's. -/
theorem witness_HandlerReturnForms :
    let s (core : Core) (l : List Host.Cell) (bad : List Nat) : State :=
      let w := world { holds 8 with depth := 1, frame := 0x10000, frames := [0] } [16] (core := core)
      { w with mem := w.mem ++ l, bad := bad }
    let read (s : State) := readVirt s.stampNext 0 0x10000 768
    let bytes (n : Nat) (b : Byte) : List Byte := List.replicate n 0 ++ b :: List.replicate (767 - n) 0
    let stop : List Byte := List.replicate 17 0 ++ 4 :: List.replicate 142 0 ++ 2 :: List.replicate 607 0
    let x : CpeCmd := { owner := .fibre 0 0 0, stop := some {} }
    (∀ c ∈ [{ pend := [late] }, ({} : Core)], ∀ bad ∈ [[], [0x2000]],
      Issues (s c [] bad) {} (issuer (s c [] bad)) [] [] [] ∧ (issuer (s c [] bad)).x.depth ≠ 0) ∧
      ¬ Drained (s { pend := [late] } [] []) (issuer (s { pend := [late] } [] [])) ∧ Drained (s {} [] []) (issuer (s {} [] [])) ∧
      (read (s {} [(0x10000, 4)] []) = .ok (bytes 0 4)) ∧ framePc (bytes 0 4) % 8 ≠ 0 ∧ frameTile (bytes 0 4) = false ∧
      (read (s {} [] [0x2000]) = .poison 0x10000) ∧ (read (s { lamp := some 0 } [(0x10011, 1)] []) = .ok (bytes 17 1)) ∧
      frameTile (bytes 17 1) = true ∧ framePc (bytes 17 1) % 32 = 0 ∧
      (read (s { cpe := [x] } [(0x10011, 4), (0x100A0, 2)] []) = .ok stop) ∧ frameCpe stop = true ∧ resumes 0 0 false x.owner = true ∧
      frameIdx stop = 0 ∧ frameStopAddr stop = 0 := by
  refine ⟨?_, by unfold Drained; decide, by unfold Drained; decide, ?_⟩
  case' refine_2 => and_intros <;> first | exact ok_of (by decide +kernel) | decide +kernel
  intro c hc bad hb
  simp only [List.mem_cons, List.not_mem_nil, or_false] at hc hb
  rcases hc with rfl | rfl <;> rcases hb with rfl | rfl <;> exact ⟨issues_of _ _ (by decide +kernel) (by decide) _ _ _, by decide⟩

/-- MaskMembership, Rendezvous: no arrivals; the last arrival of two; the first of two; a fibre that is not enrolled. -/
theorem witness_Rendezvous :
    let a (f : Nat) : Arrival := { fib := f, pc := 0, active := true, val := 0, idx := 0, pred := false, op := .park }
    let k (m : Mask) : Block := { nfibre := 2, win := 64, masks := [(1, m)] }
    let last := turnOf {} (k { enrolled := [0, 1], arrived := [a 1] })
    let first := turnOf {} (k { enrolled := [0, 1] })
    Issues last {} (issuer last) [] [] [] ∧ LastArrival (issuer last) 1 ((issuer last).arrival .park) ∧
      Issues first {} (issuer first) [] [] [] ∧ hasN ((issuer first).k.masks.get 1 {}).enrolled 0 = true ∧
      ({ ((issuer first).k.masks.get 1 {}) with arrived := arrivalsWith (issuer first) 1 ((issuer first).arrival .park) } : Mask).full =
        false ∧
      ((issuer first).k.masks.get 1 {}).arrived = [] ∧ hasN ((issuer first).k.masks.get 2 {}).enrolled 0 = false :=
  ⟨issues_of _ _ (by decide) (by decide) _ _ _, ⟨by decide, by decide, by decide, by decide⟩,
    issues_of _ _ (by decide) (by decide) _ _ _, by decide, by decide, by decide, by decide⟩

/-- MaskMembership: a round that the one other enrolled fibre has joined, which a STRIKE completes. -/
theorem witness_MaskMembership :
    let a : Arrival := { fib := 1, pc := 0, active := true, val := 0, idx := 0, pred := false, op := .park }
    let k : Block := { nfibre := 2, win := 64, masks := [(1, { enrolled := [0, 1], arrived := [a] })] }
    let s : State := (turnOf {}).modCore 0 fun c => { c with blocks := [(0, { k with fibres := [(0, {}), (1, { status := .waiting (.rejoin 1) })] })] }
    Issues s {} (issuer s) [] [] [] ∧ ((issuer s).k.masks.get 1 {}).arrived = [a] ∧ a.fib ≠ (issuer s).f ∧
      (∀ n ∈ ((issuer s).k.masks.get 1 {}).enrolled, n ≠ (issuer s).f → n = a.fib) ∧
      hasN ((issuer s).k.masks.get 1 {}).enrolled a.fib = true ∧ ((issuer s).k.fibres.find? a.fib).isSome :=
  ⟨issues_of _ _ (by decide) (by decide) _ _ _, by decide⟩

/-- CrossFibreValues: arrivals of distinct fibres, one of which names another by its index and one names none. -/
theorem witness_CrossFibreValues :
    let a (f i : Nat) : Arrival := { fib := f, pc := 0, active := true, val := 7, idx := i, pred := true, op := .xread 1 false }
    let A := [a 0 1023, a 1023 1]
    (A.map (·.fib)).Nodup ∧ (∀ b ∈ A, b.fib < 1024) ∧ (∃ b ∈ A, b.fib = (a 0 1023).idx) ∧ ∀ b ∈ A, b.fib ≠ (a 1023 1).idx := by
  decide

/-- CrossFibreValues: the arrivals of a floating reduction of each format. -/
theorem witness_FloatReductions : ∀ ty ∈ [2, 3],
    let a (f : Nat) : Arrival := { fib := f, pc := 0, active := true, val := 0x3F800000, idx := 0, pred := false, op := .xred 2 0 ty }
    ([a 0, a 1023].map (·.fib)).Nodup ∧ (∀ b ∈ [a 0, a 1023], b.fib < 1024) ∧ a 0 ∈ [a 0, a 1023] := by decide

/-- FibreEnds: without a join word and with one. -/
theorem witness_FibreEnds : ∀ j ∈ [0, 0x2004#56],
    let s := world { join := j } [2]
    let q := issuer s
    Issues s {} q [] [] [] ∧ q.x.depth = 0 ∧ q.x.frames = [] ∧ q.k.owed = none ∧ (∀ m ∈ q.k.masks, hasN m.2.enrolled q.f = false) ∧
      (∀ p ∈ q.k.fibres, p.2.atGate = false) ∧ (s.core q.c).cpe = [] ∧
      (q.x.join = 0 ∨ (tlbFind s 0 (q.x.join.toNat / 4096) = some (pg 2) ∧ permit s 0 2 (pg 2) = .ok (pg 2))) := by
  intro j hj
  simp only [List.mem_cons, List.not_mem_nil, or_false] at hj
  rcases hj with rfl | rfl
  · exact ⟨issues_of _ _ (by decide +kernel) (by decide) _ _ _, rfl, rfl, rfl, by decide, by decide, rfl, .inl rfl⟩
  · exact ⟨issues_of _ _ (by decide +kernel) (by decide) _ _ _, rfl, rfl, rfl, by decide, by decide, rfl,
      .inr ⟨by decide +kernel, ok_of (by decide +kernel)⟩⟩

/-- Spawning: the entry 0x3000 is a sealed node of count 1 or 2, with no join word and with one; and an entry that is none. -/
theorem witness_Spawning : ∀ n ∈ [1, 2],
    let node : Node := { entry := 0x3000, count := n }
    let x : Fibre := { regs := [(2, full 0x3000), (4, full 7), (6, full 0x2004), (8, full 0x4000)] }
    let w := world x [2]
    let s : State := { w with
      images := [{ ctx := 0, nodes := [node] }], seals := [(3, { ctx := 0 })], tlb := { pg 3 with sealed_ := true } :: w.tlb }
    let here := withLines [0x2004] s
    let busy := s.modCore 0 fun k => { k with pend := [late] }
    let q := issuer s
    (∀ j (c : BitVec 3), Issues s {} q ([srcA 2 2] ++ (if c = 0 then [] else [runB 4 c.toNat]) ++ [srcC j 2]) [] []) ∧ (q.gg 2).toNat < 2 ^ 56 ∧
      sealedAt s 0 (q.gg 2).toNat = true ∧ nodeAt s 0 ((q.gg 2).setWidth 56) = some node ∧
      moorRoom s 0 (moorKey 0 0x3000) = some false ∧ (s.core 0).moorings.find? (moorKey 0 0x3000) = none ∧ Drained s q ∧
      q.gg 0 = 0 ∧ q.gg 6 = 0x2004 ∧ Mapped s q 2 0x2004 4 (pg 2) ∧ MemOk s ∧ backed ((pg 2).pa 0x2004) = true ∧
      backed ((pg 2).pa 0x2004 + 3) = true ∧ joinWord s (pg 2) 0x2004 = some 0 ∧ q.gg 8 = 0x4000 ∧ sealedAt s 0 0x4000 = false ∧
      nodeAt s 0 0x4000 = none ∧ LineHere here 0 ((pg 2).pa 0x2004) ∧ LineAway s 0 ((pg 2).pa 0x2004) ∧ ¬ Drained busy (issuer busy) := by
  intro n hn
  simp only [List.mem_cons, List.not_mem_nil, or_false] at hn
  rcases hn with rfl | rfl <;>
  · refine ⟨fun j _ => issues_of _ _ (by decide +kernel) (by decide) _ _ _, by decide +kernel, by decide +kernel, by decide +kernel,
      by decide +kernel, by decide +kernel, by unfold Drained; decide, by decide +kernel, by decide +kernel,
      ⟨by decide, by decide, by decide +kernel, ok_of (by decide +kernel)⟩, by unfold MemOk; decide +kernel, by decide, by decide,
      by decide +kernel, by decide +kernel, by decide +kernel, by decide +kernel, by unfold LineHere; decide +kernel,
      .inr (by decide +kernel), by unfold Drained; decide⟩

/-- JoinWaits: a join word of 0, one of 1, and one in a unit with an uncorrectable error. -/
theorem witness_JoinWaits :
    let x : Fibre := { regs := [(2, full 0x4000), (4, full 0x2000)] }
    let s (bad : List Nat) : State := { withLines [0x2000, 0x4000] (world x [2, 4]) with bad := bad }
    (∀ sa, Issues (s []) {} (issuer (s [])) [srcA sa 2] [] []) ∧ Drained (s []) (issuer (s [])) ∧
      (issuer (s [])).gg 2 = 0x4000 ∧ (issuer (s [])).gg 4 = 0x2000 ∧ Mapped (s []) (issuer (s [])) 0 0x2000 4 (pg 2) ∧
      Mapped (s []) (issuer (s [])) 0 0x4000 4 (pg 4) ∧ joinWord (s []) (pg 2) 0x2000 = some 0 ∧
      joinWord (s []) (pg 4) 0x4000 = some (0x8000 + 1) ∧ joinWord (s [0x400]) (pg 2) 0x2000 = none ∧
      (∀ a ∈ [0x2000, 0x4000], LineHere (s []) 0 a) ∧ LineAway (s []) 0 0x3000 := by
  refine ⟨fun _ => issues_of _ _ (by decide +kernel) (by decide) _ _ _, by unfold Drained; decide, by decide +kernel,
    by decide +kernel, ⟨by decide, by decide, by decide +kernel, ok_of (by decide +kernel)⟩,
    ⟨by decide, by decide, by decide +kernel, ok_of (by decide +kernel)⟩, by decide +kernel, by decide +kernel, by decide +kernel,
    by unfold LineHere; decide +kernel, .inr (by decide +kernel)⟩

/-- GlobalAccesses: a mapped address, one that is not canonical, a misaligned one, one that may not be written, one that is not
cached, and a sum below 0. -/
theorem witness_GlobalAccesses :
    let x : Fibre := { regs := [(2, full 0x2000), (4, full 0), (5, full 0x1000000)] }
    let s := world x [2]
    let q := issuer s
    (∀ srcs dsts, Issues s {} q srcs [] dsts) ∧ Mapped s q 0 0x2000 16 (pg 2) ∧ Mapped s q 2 0x2FF8 8 (pg 2) ∧
      (q.gg 4).toNat = 2 ^ 56 ∧ 0x2FFF % 2 ≠ 0 ∧ permit s 0 1 { pg 2 with wr := false } = .error ⟨3, 3⟩ ∧ tlbFind s 0 3 = none ∧
      (q.gg 0).toNat + (0xFFFF : BitVec 16).toInt < 0 := by
  refine ⟨fun _ _ => issues_of _ _ (by decide +kernel) (by decide) _ _ _, ⟨by decide, by decide, by decide +kernel, ok_of (by decide +kernel)⟩,
    ⟨by decide, by decide, by decide +kernel, ok_of (by decide +kernel)⟩, by decide +kernel, by decide, by rfl, by decide +kernel,
    by decide +kernel⟩

/-- ScratchpadAccesses: the last bytes of a buffer, one byte past them, a misaligned offset, an invalid handle and none. -/
theorem witness_ScratchpadAccesses :
    let b : Buf := { len := 64 }
    let k : Block := { nfibre := 1, win := 64, handles := [(1, b), (2, { b with valid := false })] }
    let s := turnOf {} k
    let q := issuer s
    (∀ srcs dsts, Issues s {} q srcs [] dsts) ∧ InBuffer q 1 48 16 b ∧ InBuffer q 1 63 1 b ∧ b.len < 61 + 4 ∧ 58 % 4 ≠ 0 ∧
      (q.k.handles.find? 2).map (·.valid) = some false ∧ q.k.handles.find? 3 = none := by
  refine ⟨fun _ _ => issues_of _ _ (by decide +kernel) (by decide) _ _ _, ⟨by decide, by decide, by decide, by decide⟩,
    ⟨by decide, by decide, by decide, by decide⟩, by decide, by decide, by decide, by decide⟩

/-- RegisterResultFrame, PairAndPredicateFrame, AccessFrame: an issuer that is there. -/
theorem witness_frames : let s := turnOf {}
    let q := issuer s
    s.block q.c q.b = some q.k ∧ s.fibre q.c q.b q.f = some q.x := ⟨rfl, rfl⟩

/-- MemoryWrites: a store, a read-modify-write, a scratchpad store and the decrement of a join word, each the only access. -/
theorem witness_MemoryWrites :
    let acc (op : AOp) (spm : Option Buf) : Access :=
      { id := 1, slot := 0, fib := 0, op := op, spm := spm, va := 0x2004, pa := 0x2004, size := 4, data := [1, 2, 3, 4], dst := 5 }
    let s (a : Access) : State := {
      world {} [2] (core := { pend := [a], spm := [(0x2004, 0), (0x2005, 0), (0x2006, 0), (0x2007, 0)] }) with
      slices := [(sliceOf 0 0x2004, { lines := [(0x2004 / 128, {})] })] }
    (∀ a ∈ [acc .store none, acc (.rmw 0) none, acc (.rmw 11) none, acc .store (some { len := 0x4000 }),
        acc (.rmw 0) (some { len := 0x4000 }), acc .joinDec none],
      findAccess (s a) 0 1 = some a ∧ a.phase = .issued ∧ mayPerform ((s a).core 0) a = true ∧ Memory.wf (s a).mem = true ∧
        backed a.pa = true ∧ backed (a.pa + a.size - 1) = true ∧ keyGone (s a) a.key = false ∧
        lineReady ((s a).slice' (sliceOf (dieOf 0) a.pa)) (a.pa / 128) = true ∧ anyBad (s a) a.pa a.size = false ∧
        spmAway (s a) a.ctx a.spm = false ∧ a.data.length = a.size ∧ ofBytes (plainBytes (s a) a.key a.pa a.size) = 0 ∧ unitBad ((s a).core 0).spmBad a.pa a.size = false ∧
        ((s a).core 0).spmRaced (s a).cycle (fibreAgent 0 a.slot a.fib) a.pa a.size = false ∧
        ofBytes (((s a).core 0).spmBytes a.pa a.size) = 0) ∧
      rmwNew 0 0 0x04030201 0 4 = some 0x04030201 ∧ rmwNew 11 0 0x04030201 0 4 = some 0x04030201 ∧
      (translate (s (acc .joinDec none)) 0 2 0x2004 = .ok (pg 2)) ∧
      ofBytes (plainBytes (s (acc .joinDec none)) 0 ((pg 2).pa 0x2004) 4) = 0 := by
  refine ⟨by decide +kernel, by decide, by decide, ok_of (by decide +kernel), by decide +kernel⟩

/-- MemoryReads: a load that may read and one whose data return, a fill, and a merge window that closes. -/
theorem witness_MemoryReads :
    let a (ph : APhase) : Access :=
      { id := 1, slot := 0, fib := 0, op := .load true 4, pa := 0x2004, size := 4, dst := 5, nregs := 1, kind := 1, phase := ph,
        val := [1, 2, 3, 4], tag := 3 }
    let x : Fibre := { regs := [(5, { full := false, tag := 3 })] }
    let s (ph : APhase) : State := { world x [2] (core := { pend := [a ph] }) with
      slices := [(sliceOf 0 0x2004, { lines := [(0x2004 / 128, {})], merges := [(9, {}), (10, { arrived := true })] })] }
    findAccess (s .issued) 0 1 = some (a .issued) ∧ mayPerform ((s .issued).core 0) (a .issued) = true ∧
      lineReady ((s .issued).slice' (sliceOf (dieOf 0) 0x2004)) (0x2004 / 128) = true ∧ unbacked (2 ^ 50) = true ∧
      findAccess (s .performed) 0 1 = some (a .performed) ∧ (s .performed).fibre 0 0 0 = some x ∧ (x.reg 64 5).full = false ∧
      (x.reg 64 5).tag = 3 ∧
      (let sl := sliceOf 0 0x2004
       ((s .issued).slice' sl).merges.find? 9 = some {} ∧ backed (128 * 9) = true ∧ ((s .issued).slice' sl).merges.find? 10 = some { arrived := true }) := by
  decide +kernel

/-- NetworkAndTranslation: a remote access in its network slot and its answer, a walk, an invalidation with what it waits for,
and a window that fits and one that does not. -/
theorem witness_NetworkAndTranslation :
    let b : Buf := { home := 1, len := 64 }
    let a (ph : APhase) (beat : Option Nat) : Access :=
      { id := 1, slot := 0, fib := 0, op := .load false 4, spm := some b, size := 4, dst := 5, nregs := 1, phase := ph, beat := beat,
        val := [1, 2, 3, 4], tag := 3 }
    let x : Fibre := { regs := [(5, { full := false, tag := 3 })] }
    let s (a : Access) : State := { world x [] (core := { pend := [a], slotTable := [1] }) with cycle := 129, walks := [(0, 0, 3)] }
    findAccess (s (a .issued none)) 0 1 = some (a .issued none) ∧ mayPerform ((s (a .issued none)).core 0) (a .issued none) = true ∧
      ((s (a .issued none)).core 0).usable 0 1 (129 / 2) = true ∧ ((s (a .issued none)).core 1).idleBeat ≠ some (129 / 2) ∧
      ((s (a .issued none)).core 0).sentBeat ≠ some (129 / 2) ∧ 129 % 2 = 1 ∧ spmAway (s (a .issued none)) 0 (some b) = false ∧
      unitBad ((s (a .issued none)).core 1).spmBad 0 4 = false ∧ ((s (a .issued none)).core 1).spmRaced 129 (fibreAgent 0 0 0) 0 4 = false ∧
      (0, 0, 3) ∈ runningWalks (s (a .issued none)) ∧ runningWalks (world {}) = [] ∧
      (a .performed (some 112)).val = toBytes 4 (0x04030201 : Word).toNat ∧ 112 / 2 + 8 ≤ 129 / 2 ∧ (x.reg 64 5).full = false ∧
      (walkPage (s (a .issued none)) 0 (4096 * 3) = .ok { pg 3 with level := 2 }) ∧ tlbFind (s (a .issued none)) 0 3 = none ∧
      (s (a .issued none)).tivaBusy = none ∧ (0x100 : BitVec 64).getLsbD 8 = true ∧ findAccess (s (a .issued none)) 0 2 = none ∧
      devBits (s (a .issued none)) (offFW 0 0 8) 0 0 = 0 ∧
      windowFits (s (a .issued none)) 0 0 (0x100000081 &&& 0x00FFFFFF00000FF3) = true ∧
      windowFits (s (a .issued none)) 0 0 (0x81 &&& 0x00FFFFFF00000FF3) = false ∧
      devBits (devSet (s (a .issued none)) (offFW 0 0 8) 0x100000081) (offFW 0 0 8) 0 0 = 1 := by
  and_intros <;> first | decide +kernel | exact ok_of (by decide +kernel)

/-- FencesQueuesMessages: a line that is mapped, a launch record, queues with data, at their end and empty, and messages that
are refused and taken. -/
theorem witness_FencesQueuesMessages :
    let m : Access := { id := 1, slot := 0, fib := 0, op := .lmsg 0, pa := 0x2000, size := 0, dst := 5, kind := 3 }
    let x : Fibre := { regs := [(2, full 0x2000)] }
    let s (q : Queue) (dev : FMap (BitVec 64)) := world x [2] (core := { queues := [(0, q)], qOwner := some 0 }) (dev := dev)
    let e := s {} []
    (∀ srcs dsts, Issues e {} (issuer e) srcs [] dsts) ∧ Drained e (issuer e) ∧ Mapped e (issuer e) 0 0x2000 128 (pg 2) ∧
      Mapped e (issuer e) 0 0x2000 1 (pg 2) ∧ ((e.core 0).queue 0).data = [] ∧ ((e.core 0).queue 0).term = none ∧
      (((s { term := some (.eos, []) } []).core 0).queue 0).term = some (.eos, []) ∧
      (((s { data := [[1]] } []).core 0).queue 0).data = [1] :: [] ∧
      (((s { term := some (.poison, []) } []).core 0).queue 0).term = some (.poison, []) ∧ (e.core 0).qOwner = some (issuer e).k.ctx ∧
      (let o (n : Option Nat) : State := world x [2] (core := { qOwner := n })
       ((o none).core 0).qOwner = none ∧ ((o (some 1)).core 0).qOwner = some 1 ∧ 1 ≠ (issuer (o (some 1))).k.ctx) ∧
      msgRefused e (sliceOf (dieOf 0) m.pa) m.ctx = some 1 ∧
      msgRefused (s {} [(offLH (sliceOf (dieOf 0) m.pa) 0 0, 0x801)]) (sliceOf (dieOf 0) m.pa) m.ctx = none ∧
      eventsFull e (sliceOf (dieOf 0) m.pa) = false ∧
      (let t : State := e.modCore 0 fun k => { k with pend := [m] }
       findAccess t 0 1 = some m ∧ mayPerform (t.core 0) m = true) ∧
      ((({ e with clusters := [(0, { fused := true })] } : State).cluster (clusterOf 0)).fused = true) ∧
      (let f : Access := { id := 1, slot := 0, fib := 0, op := .fence 0 }
       let b : Access := { id := 2, slot := 0, fib := 0, op := .load false 4, kind := 1 }
       let t : State := e.modCore 0 fun k => { k with pend := [f, b] }
       findAccess t 0 2 = some b ∧ f ∈ (t.core 0).pend ∧ f.open_ = true) := by
  refine ⟨fun _ _ => issues_of _ _ (by decide +kernel) (by decide) _ _ _, by unfold Drained; decide +kernel,
    ⟨by decide, by decide, by decide +kernel, ok_of (by decide +kernel)⟩,
    ⟨by decide, by decide, by decide +kernel, ok_of (by decide +kernel)⟩, by decide +kernel⟩

/-- HandlePassing: a handle that may be given, a full inbox, target cores 191 and 192, and a matching entry behind another. -/
theorem witness_HandlePassing :
    let b : Buf := { len := 64 }
    let e (t : BitVec 16) : InboxEntry := ⟨b, t, 0⟩
    let k : Block := { nfibre := 1, win := 64, handles := [(1, b)] }
    let s (l : List InboxEntry) := turnOf { regs := [(2, full 191), (3, full 192)] } k { inbox := l }
    let q := issuer (s [])
    (∀ l ∈ [[], [e 4, e 5]], Issues (s l) {} (issuer (s l)) [srcB 2] [] []) ∧ Drained (s []) q ∧ q.k.handles.find? 1 = some b ∧
      q.k.handles.find? 2 = none ∧ (q.g 2).toNat = 191 ∧ (q.g 3).toNat = 192 ∧ bufBusy ((s []).core 0) 0 0 b = false ∧
      bufBusy ({ reads := [⟨0, 0, 0, 0, 8, false, .k 1, 0⟩] } : Core) 0 0 b = true ∧ ((s []).core 191).inbox.length < 16 ∧
      16 ≤ ((s (List.replicate 16 (e 4))).core 0).inbox.length ∧ ((s [e 4, e 5]).core 0).inbox = [e 4] ++ e 5 :: [] ∧
      (∀ x ∈ [e 4], ¬(x.ctx = 0 ∧ x.tag = 5)) ∧ (∀ x ∈ [e 4, e 5], ¬(x.ctx = 0 ∧ x.tag = 6)) ∧
      (let busy := (s []).modCore 0 fun k => { k with pend := [late] }
       ¬ Drained busy (issuer busy)) := by
  refine ⟨?_, by unfold Drained; decide, ?_⟩
  case' refine_2 => and_intros <;> first | decide +kernel | (unfold Drained; decide)
  intro l hl
  simp only [List.mem_cons, List.not_mem_nil, or_false] at hl
  rcases hl with rfl | rfl <;> exact issues_of _ _ (by decide) (by decide) _ _ _

/-- Barriers: an arrival that does not complete its phase and one that does, both phases, counts 1 and 4,096, and an MMA to
attach. -/
theorem witness_Barriers :
    let x : Fibre := { regs := [(2, full 1), (3, full 0), (4, full 4096), (6, full 0x00040001), (7, full 0x00A0)] }
    let k : Block := { nfibre := 1, win := 64, bars := [5], masks := [(1, { enrolled := [0] })] }
    let s (n : Nat) : State := turnOf x k { bars := [(5, { expected := n, signers := [0] })] }
    let q := issuer (s 1)
    (∀ n ∈ [1, 2], ∀ srcs dsts, Issues (s n) {} (issuer (s n)) srcs [] dsts) ∧ q.k.bars[0]? = some 5 ∧ q.k.bars[1]? = none ∧
      Drained (s 1) q ∧ ((s 2).bar 0 5).arrived + 1 < ((s 2).bar 0 5).expected ∧
      ((s 1).bar 0 5).expected ≤ ((s 1).bar 0 5).arrived + 1 ∧ ((s 1).bar 0 5).att = none ∧ q.x.arrivedAt = none ∧
      hasN ((s 1).bar 0 5).signers 0 = true ∧ ((s 1).bar 0 5).phase = (q.g 3).getLsbD 0 ∧
      ((s 1).bar 0 5).phase ≠ (q.g 2).getLsbD 0 ∧ (q.g 2).toNat = 1 ∧ (q.g 4).toNat = 4096 ∧ ((s 1).bar 0 5).arrived = 0 ∧
      ((attachable (q.gg 6)).any fun o => (mReq o).op ≠ 0) = true ∧ (q.k.masks.get 1 {}).enrolled ≠ [] ∧
      arrivalOwed ((s 1).core 0) 5 (phaseNum ((q.g 2).getLsbD 0)) = false := by
  refine ⟨?_, by decide, by decide, by unfold Drained; decide, by decide +kernel⟩
  intro n hn
  simp only [List.mem_cons, List.not_mem_nil, or_false] at hn
  rcases hn with rfl | rfl <;> exact fun _ _ => issues_of _ _ (by decide) (by decide) _ _ _

/-- Barriers: an arrival that completes the phase for which another fibre waits, and a mark of an arrival that is still owed. -/
theorem witness_BarrierWaits :
    let k : Block := { nfibre := 2, win := 64, bars := [5], fibres := [(0, {}), (1, { status := .waiting (.barrier 5 1) })] }
    let s : State := (turnOf {} {} { bars := [(5, { expected := 1 })] }).modCore 0 fun c => { c with blocks := [(0, k)] }
    Issues s {} (issuer s) [] [] [(1, 1)] ∧ Drained s (issuer s) ∧ (issuer s).k.bars[0]? = some 5 ∧
      (s.bar 0 5).expected ≤ (s.bar 0 5).arrived + 1 ∧ (s.bar 0 5).att = none ∧ arrivalOwed (s.core 0) 5 1 = false ∧
      (s.fibre 0 0 1).map (·.status) = some (.waiting (.barrier 5 1)) ∧
      arrivalOwed { s.core 0 with pend := [{ late with op := .arrive 5 1 }] } 5 1 = true :=
  ⟨issues_of _ _ (by decide) (by decide) _ _ _, by unfold Drained; decide, by decide⟩

/-- GateAndLamp: the first of two fibres at a gate, the only one, and a request that is granted. -/
theorem witness_GateAndLamp :
    let one : Block := { nfibre := 1, win := 64, handles := [(0, { len := 4096 })] }
    let s := world {} [] one
    let two : State := (turnOf {}).modCore 0 fun c => { c with blocks := [(0, { nfibre := 2, win := 64, fibres := [(0, {}), (1, {})] })] }
    Issues s {} (issuer s) [] [] [] ∧ Issues two {} (issuer two) [] [] [] ∧ Drained s (issuer s) ∧ Drained two (issuer two) ∧
      (∀ n ∈ mapRegs (gateOf s 0 0 0).2.2, ((issuer s).x.reg 64 n).full = true ∧ ((issuer s).x.reg 64 n).poison = false) ∧
      (∃ p ∈ (issuer two).k.fibres, p.1 ≠ 0 ∧ p.2.status ≠ .ended ∧ p.2.atGate = false) ∧ (issuer s).k.fibres = [(0, (issuer s).x)] ∧
      gateIndex s 0 0 = 0 ∧ (issuer s).k.handles.find? 0 = some { len := 4096 } ∧
      gatherEnd 1 (gateOf s 0 0 0).2.2 ≤ 4096 ∧ (s.core 0).lampQ = [] ∧ (s.core 0).lamp = none ∧
      (let g : GateFrame := { gatepc := 0x100 }
       let i : Image := { ctx := 0, funcs := [{ start := 0, size := 0x200, kind := 0, win := 8 }], gates := [(0x3000, 0, 1)], maps := [(4, 2, 0)] }
       frameGate { s with images := [i] } 0 g = (0x3000, [(4, 2, 0)])) := by
  refine ⟨issues_of _ _ (by decide +kernel) (by decide) _ _ _, issues_of _ _ (by decide) (by decide) _ _ _,
    by unfold Drained; decide, by unfold Drained; decide, by decide +kernel, by decide, by decide, by decide +kernel, by decide +kernel,
    by decide +kernel, by decide, by decide, by decide +kernel⟩

/-- GateAndLamp: a grant while an access of the block is under way, and one of a block with a one-entry layout map. -/
theorem witness_Grants :
    let g : GateFrame := { gatepc := 0x100 }
    let i : Image := { ctx := 0, funcs := [{ start := 0, size := 0x200, kind := 0, win := 8 }], gates := [(0x3000, 0, 1)], maps := [(4, 2, 0)] }
    let k : Block := { nfibre := 1, win := 64, gate := some g, gbuf := some { len := 4096 }, fibres := [(0, {})] }
    let s (l : List Access) : State := { cores := [(0, { blocks := [(0, k)], lampQ := [(0, 0)], pend := l })], images := [i] }
    ((s []).core 0).lamp = none ∧ (openOfBlock ((s []).core 0) 0).isEmpty = true ∧ (openOfBlock ((s [late]).core 0) 0).isEmpty = false ∧
      (frameGate (s []) 0 g).2 = [(4, 2, 0)] ∧ (k.gbuf.getD {}).home = 0 := by decide +kernel

/-- CopiesAndPublishes: a record of a one-byte copy, one with a bad control word, a set of one page, and commands that are
carried out, fault and publish. -/
theorem witness_CopiesAndPublishes :
    let bytes (op : Byte) : List Byte := [0, 0x20] ++ List.replicate 62 0 ++ [1, 0x20] ++ List.replicate 62 0 ++ op :: List.replicate 127 0
    let pair : Tlb := { pg 0x20 with alt := some 0x21, pair := some 0x3000 }
    let s (op : Byte) (l : List CpeCmd) : State :=
      let w := world { regs := [(2, full 0x16000), (4, full 0x20000), (6, full 1)] } [0x16, 2] (core := { cpe := l })
      { w with mem := w.mem ++ [(0x16001, 0x20), (0x16040, 1), (0x16041, 0x20), (0x16080, op)], tlb := pair :: w.tlb }
    let x (dst : BitVec 512) (pub : Option (Nat × Nat)) : CpeCmd := { owner := .fibre 0 0 0, src := 0x2000, dst := dst, pub := pub, pt := true }
    let q := issuer (s 1 [])
    (∀ srcs dsts, Issues (s 1 []) {} q srcs [] dsts) ∧ Drained (s 1 []) q ∧ Mapped (s 1 []) q 0 0x16000 256 (pg 0x16) ∧
      physRead (s 1 []) 0 0x16000 256 = some (bytes 1) ∧ physRead (s 2 []) 0 0x16000 256 = some (bytes 2) ∧
      (recordControl (bytes 1) = .ok (1, 0)) ∧ recordControl (bytes 2) = .error (tBounds 2 30) ∧
      copyCheck q.k 1 false 0x2000 0x2001 0 0 0 = none ∧ BitVec.ofNat 512 (ofBytes ((bytes 1).take 64)) = 0x2000 ∧
      (q.g 6).toNat ≠ 0 ∧ (q.g 0).toNat = 0 ∧ (q.gg 4).toNat = 0x20000 ∧ publishLook (s 1 []) 0 (pagesOf 0x20000 1) = none ∧ publishFault (s 1 []) 0 (pagesOf 0x20000 1) = none ∧
      publishBlocked (s 1 []) 0 0x20000 1 0 = false ∧ pagesOf 0x20000 1 = [0x20] ∧
      cmdReady (s 1 [x 0x2001 none]) 0 (x 0x2001 none) = true ∧
      copyFaultFrom (s 1 [x 0x2001 none]) 0 (x 0x2001 none) (x 0x2001 none).total 0 = none ∧
      (copyFaultFrom (s 1 [x 0x1000000 none]) 0 (x 0x1000000 none) (x 0x1000000 none).total 0).isSome ∧
      alive (s 1 []) 0 0 0 = true ∧ cmdReady (s 1 [x 0 (some (0x20000, 1))]) 0 (x 0 (some (0x20000, 1))) = true ∧
      pagesDue (s 1 []) 0 (x 0 (some (0x20000, 1))) = [] ∧ (s 1 []).spoiled = [] ∧
      (translate (s 1 []) 0 1 (0x20 * 4096) = .ok pair) ∧ MemOk (s 1 []) ∧ backed 0x3007 = true ∧
      (x 0 none).promise < ({ s 1 [] with cycle := 1 } : State).cycle ∧
      (∀ p ∈ sidePages (x 0x2001 none) 0 ++ sidePages (x 0x2001 none) 1, (tlbFind (s 1 []) 0 p).isSome) ∧
      CpeCmd.served { x 0x2001 none with asked := true } 0 = true ∧
      cmdReady (s 1 [{ x 0x2001 none with asked := true }]) 0 { x 0x2001 none with asked := true } = true ∧ q.k.bars[0]? = some 0 := by
  and_intros
  all_goals first
    | exact fun _ _ => issues_of _ _ (by decide +kernel) (by decide) _ _ _
    | exact ⟨by decide, by decide, by decide +kernel, ok_of (by decide +kernel)⟩
    | decide +kernel
    | exact ok_of (by decide +kernel)
    | (unfold Drained; decide +kernel)
    | (unfold MemOk; decide +kernel)
    | rfl

/-- CopiesAndPublishes: an issuer with an access under way, a command whose page is still to be walked, and copies from accumulator
rows to a scratchpad: plain, of two dimensions, packed and unpacked. -/
theorem witness_CopyForms :
    let d (space fmt rank e0 e1 stride : Nat) : BitVec 512 :=
      BitVec.ofNat 512 (space * 2 ^ 56 + fmt * 2 ^ 64 + (rank - 1) * 2 ^ 69 + (e0 - 1) * 2 ^ 80 + (e1 - 1) * 2 ^ 92 + stride * 2 ^ 224)
    let x (op : Nat) (a b : BitVec 512) : CpeCmd := { op := op, src := a, dst := b, factor := 4, dstBuf := some { len := 64 } }
    let l := [x 1 (d 2 2 1 10 1 0) (d 1 2 1 10 1 0), x 1 (d 2 2 2 4 3 5) (d 1 2 2 4 3 4), x 3 (d 2 2 1 10 1 0) (d 1 2 2 4 3 4),
      x 4 (d 2 2 2 4 3 5) (d 1 2 1 10 1 0)]
    let s := world { regs := [(2, full 0x16000)] } [0x16] (core := { pend := [late] })
    let g : CpeCmd := { src := 0x2000, dst := 0x3000 }
    (∀ y ∈ l, descSpace y.src = 2 ∧ descSpace y.dst = 1 ∧ descSize y.src = 2 ∧ descSize y.dst = 2 ∧ (descBase y.src + y.srcOff) % 2 = 0 ∧
      y.dstBuf = some { len := 64 } ∧ (descRank y.dst = 2 → descExt y.dst 0 ≤ descStride y.dst 1)) ∧
      l.map (fun y => (descRank y.src, descRank y.dst, descExt y.src 0, descExt y.dst 0)) =
        [(1, 1, 10, 10), (2, 2, 4, 4), (1, 2, 10, 4), (2, 1, 4, 10)] ∧
      Issues s {} (issuer s) [srcA 2 2] [] [(0, 2)] ∧ ¬ Drained s (issuer s) ∧ pagesDue s 0 g ≠ [] ∧
      pagesDue { s with tlb := [pg 2, pg 3] } 0 g = [] ∧ g.shut s 0 = false := by
  refine ⟨by decide +kernel, by decide +kernel, issues_of _ _ (by decide +kernel) (by decide) _ _ _, by unfold Drained; decide,
    by decide +kernel, by decide +kernel, by decide +kernel⟩

/-- The turn of the tile program that core `core` of block `k` runs at 0x100. -/
def tiled (core : Core := {}) (k : Block := { nfibre := 1, win := 64, bars := [5], handles := [(1, { len := 4096 })] }) : State :=
  { turnOf {} k { core with lamp := some 0, tsq := { core.tsq with active := true, pc := 0x100 } } with cur := .tile 0 }

/-- The issuer of that turn. -/
def tq (s : State) : TCtx := (tileCtx s 0).getD ⟨0, 0, {}, {}, 0, 0, 0, 0, 0⟩

theorem tileTurn_of (s : State) (h : (decide (s.cur = .tile 0) && (tileCtx s 0).isSome && !tileHeld (tq s).q && (tq s).q.tsq.held.isEmpty &&
    !marked s (tq s).k.ctx (tq s).pc && (tq s).q.acmBad.isEmpty) = true) : TileTurn s 0 (tq s) := by
  simp only [Bool.and_eq_true, decide_eq_true_eq, Bool.not_eq_true', List.isEmpty_iff] at h
  obtain ⟨⟨⟨⟨⟨h1, h2⟩, h3⟩, h4⟩, h5⟩, h6⟩ := h
  obtain ⟨q, hq⟩ := Option.isSome_iff_exists.1 h2
  refine ⟨h1, ?_, h3, h4, h5, h6⟩
  simp [tq, hq]

/-- TileScalars: a bundle's turn, with a stage guard that holds and one that does not. -/
theorem witness_TileScalars : TileTurn tiled 0 (tq tiled) ∧ guardHolds (tq tiled).q.tsq {} = true ∧
    guardHolds (tq tiled).q.tsq ⟨1, 0⟩ = false := ⟨tileTurn_of _ (by decide), by decide, by decide⟩

/-- TileControl: the register that the operations read at each bound: 0, 1,024 and 1,025, 2^32 − 1 and 2^32; a loop that goes on
and one that ends; a barrier of the block and none; both phases; the lamp's last holder. -/
theorem witness_TileControl :
    let s := tiled { tsq := {
      k := [(1, 1024), (2, 1025), (3, 0xFFFFFFFF), (4, 0x100000000), (5, 8), (6, 16), (7, 1)]
      lc := [(1, { count := 2 }), (2, { count := 1 })] } }
    let q := tq s
    TileTurn s 0 q ∧ q.kReg 0 = 0 ∧ (q.kReg 1).toNat = 1024 ∧ (q.kReg 2).toNat = 1025 ∧ (q.kReg 3).toNat + 1 = 2 ^ 32 ∧
      (q.kReg 4).toNat = 2 ^ 32 ∧ 1 < (q.q.tsq.lc.get 1 {}).count ∧ (q.q.tsq.lc.get 2 {}).count ≤ 1 ∧
      sregRange 0x11 ((q.kReg 5).setWidth 32).toNat = true ∧ sregRange 0x10 ((q.kReg 6).setWidth 32).toNat = false ∧
      q.k.bars[0]? = some 5 ∧ q.k.bars[1]? = none ∧ (s.bar 0 5).phase = (q.kReg 0).getLsbD 0 ∧
      (s.bar 0 5).phase ≠ (q.kReg 7).getLsbD 0 ∧ q.q.tsq.passed ≠ some 5 ∧ (q.kReg 0).toNat ≤ s.cycle ∧ s.cycle < (q.kReg 7).toNat ∧
      (s.core 0).lampQ = [] ∧ arrivalOwed (s.core 0) 5 (phaseNum ((q.kReg 7).getLsbD 0)) = false ∧
      (let k : Block := { nfibre := 1, win := 64, gate := some { gatepc := 0x40 }, gbuf := some { len := 4096 } }
       let w := tiled { spm := [(0, 1), (1, 2), (2, 3), (3, 4)] } k
       let u := { w with images := [{
         ctx := 0, funcs := [{ start := 0, size := 0x1000, kind := 0, win := 64 }], gates := [(0x100, 0, 1)], maps := [(4, 1, 0)] }] }.modFibre
         0 0 0 fun x => { x with status := .waiting .lamp }
       (tq u).k.fibres.find? 0 = some { status := .waiting .lamp } ∧ (frameGate u 0 ((tq u).k.gate.getD {})).2 = [(4, 1, 0)] ∧
         unitBad (u.core 0).spmBad 0 4 = false ∧
         ∀ i, i < 4 → (u.core 0).spm.find? (0 + 4 * (0 * 1 + 0) + i) = some ((0x04030201 : Word).extractLsb' (8 * i) 8)) :=
  ⟨tileTurn_of _ (by decide), by decide +kernel⟩

/-- TileControl: no barrier wait registered; a program that waits in WAITK for a phase that is over, that is to come, and whose
marks are owed. -/
theorem witness_BarrierPhases :
    let s (wait : Option Wait) (owed : Bool) := tiled {
      tsq := { wait := wait }, bars := [(5, { done := 1 })], pend := if owed then [{ late with op := .arrive 5 1 }] else [] }
    TileTurn (s none false) 0 (tq (s none false)) ∧ TileTurn (s (some (Wait.barrier 5 1)) true) 0 (tq (s (some (Wait.barrier 5 1)) true)) ∧
      (tq (s none false)).q.tsq.wait = none ∧ (tq (s none true)).q.tsq.passed ≠ some 5 ∧
      (tq (s (some (Wait.barrier 5 2)) false)).q.tsq.wait = some (.barrier 5 2) ∧ ((s none false).bar 0 5).done = 1 ∧
      arrivalOwed ((s none false).core 0) 5 1 = false ∧ arrivalOwed ((s none true).core 0) 5 1 = true :=
  ⟨tileTurn_of _ (by decide), tileTurn_of _ (by decide), by decide +kernel⟩

/-- TileMemory: the last bytes of a buffer, one byte past, below 0, a misaligned offset, no handle, an invalid one and another
core's. -/
theorem witness_TileMemory :
    let b : Buf := { len := 4096 }
    let s := tiled {} { nfibre := 1, win := 64, handles := [(1, b), (2, { b with valid := false }), (3, { b with home := 1 })] }
    let q := tq s
    TileTurn s 0 q ∧ q.k.handles.find? 1 = some b ∧ b.valid = true ∧ b.home = 0 ∧ 4088 + 8 ≤ b.len ∧ 4088 % 8 = 0 ∧
      b.len < 4089 + 8 ∧ (-1 : Int) < 0 ∧ 4084 + 8 ≤ b.len ∧ 4084 % 8 ≠ 0 ∧ q.k.handles.find? 4 = none ∧
      (q.k.handles.find? 2).map (·.valid) = some false ∧ (q.k.handles.find? 3).map (·.home) = some 1 :=
  ⟨tileTurn_of _ (by decide), by decide⟩

/-- TileVector: a typed and an untyped lane type, an integer and a float one, a lane index at its bound, and a queue of the
context, of another one and of none, with data, at its end, with POISON and empty. -/
theorem witness_TileVector :
    let s (owner : Option Nat) (a : Nat) : State := tiled {
      qOwner := owner, tsq := { acctype := a }
      queues := [(0, { data := [[1]] }), (1, { term := some (.eos, []) }), (2, { term := some (.poison, [1]) })] }
    let q := tq (s (some 0) 0x11)
    (∀ o ∈ [none, some 0, some 1], ∀ a ∈ [0x03, 0x11], TileTurn (s o a) 0 (tq (s o a))) ∧ q.q.tsq.acctype = 0x11 ∧
      (tq (s none 0x03)).q.tsq.acctype = 0x03 ∧ hasN [0x11, 0x12, 0x13, 0x14, 0x15] 0x11 = true ∧ 63 < 2048 / fmtWidth 0x11 ∧
      2048 / fmtWidth 0x11 ≤ 64 ∧ q.q.qOwner = some q.k.ctx ∧ (q.q.queue 0).data = [1] :: [] ∧ (q.q.queue 1).data = [] ∧
      (q.q.queue 1).term = some (.eos, []) ∧ (q.q.queue 2).term = some (.poison, [1]) ∧ (q.q.queue 3).term = none ∧
      (tq (s none 0x11)).q.qOwner = none ∧ (tq (s (some 1) 0x11)).q.qOwner = some 1 ∧ q.k.ctx = 0 := by
  refine ⟨?_, by decide⟩
  intro o ho a ha
  simp only [List.mem_cons, List.not_mem_nil, or_false] at ho ha
  rcases ho with rfl | rfl | rfl <;> rcases ha with rfl | rfl <;> exact tileTurn_of _ (by decide)

/-- TileMatrix: commands that start, that wait and that are turned down; the integer tile of the product and of the load. -/
theorem witness_TileMatrix :
    let s (till : Nat) := tiled {
      mxe := { busyTill := till }, tsq := { acctype := 0x03 }, qOwner := some 0, tiles := [(0, {})]
      units := [(0, 0), (1, 0), (2, 0), (3, 0), (4, 0), (5, 0), (6, 0), (7, 0)]
      queues := [(0, { data := [[1], [2], [3]] })], planes := [(0, 0), (1, 0), (2, 0), (3, 0), (4, 0), (5, 0), (6, 0), (7, 0)] }
    let ops : List MOp := [.mma {} 0 0x20 0 0 0 0 0 0, .mmaq {} 0 0 0 0 0 0 0 0, .bload {} 8 0 0 0 0, .bloadq {} 8 1 0 0 0, .mclr {} 0 0 0]
    TileTurn (s 0) 0 (tq (s 0)) ∧
      (∀ o ∈ ops, mxeWait (tq (s 0)).q 0 (mReq o) = none ∧ mxeCheck (tq (s 0)).q (tq (s 0)).q.tsq 0 (mReq o) = none) ∧
      TileTurn (s 1) 0 (tq (s 1)) ∧ (∀ o ∈ ops, mxeWait (tq (s 1)).q 0 (mReq o) = some .engbusy) ∧
      mxeCheck (tq (s 0)).q (tq (s 0)).q.tsq 0 (mReq (.mma {} 0 0 8 0 0 0 0 0)) ≠ none ∧
      (s 0).core 0 = (tq (s 0)).q ∧ ((s 0).core 0).tiles.find? 0 = some {} ∧ (∀ y ∈ ((s 0).core 0).mxe.jobs, y.seq ≤ 0) :=
  ⟨tileTurn_of _ (by decide), by decide +kernel, tileTurn_of _ (by decide), by decide +kernel, by decide +kernel, rfl, rfl, by decide⟩

/-- TileMatrix: the float product's operands with and without a special value; a block to align, and one of zeros; a pattern row's
landing cycle; the formats of the load. -/
theorem witness_MatrixValues :
    let rec_ : TileRec := { fmt := 0x12, eB := [3], special := [true] }
    let j : MxeJob := {
      op := 1, fmt := 0x14, acctype := 0x12, planes := 8, start := 0, rows := 1, tile := some rec_, data := [0], cRows := [0] }
    let k : Core := { seqCyc := 12, mxe := { jobs := [j] } }
    let d := k.seqCyc + 1 - j.start
    (j.tile = some rec_ ∧ hasN [0x12, 0x13, 0x14, 0x15] j.fmt = true ∧ hasN [0x12, 0x13, 0x14, 0x15] rec_.fmt.toNat = true ∧
      hasN [0x11, 0x12, 0x13] j.acctype = true ∧ [(0 : BitVec 2048)].length = rowsPerA j.fmt ∧ rowsPerC j.acctype = 1 ∧
      rec_.special.getD (0 * 8 + 0) false = true ∧ rec_.special.getD (1 * 8 + 0) false = false ∧
      (valueOf 0 j.acctype).isNan = false ∧ (alignBlock 8 [.fin false 0 0]).bad = false ∧ (alignBlock 8 [.nan]).bad = true ∧
      badJob (mxeCycle (landCycle 0 0 k)) = none ∧ 5 + j.planes ≤ d ∧ (d - 5) % j.planes = 0 ∧
      (slice j.data (rowsPerA j.fmt * ((d - 5) / j.planes - 1)) (rowsPerA j.fmt)).length = rowsPerA j.fmt ∧
      (intA 0 = true ∧ hasN [0x00, 0x01] 0 = true ∧ hasN [0x04, 0x06, 0x0A] 4 = true)) ∧
      (∀ s m x, Val.fin s m x ∈ [Val.fin false 0 5] → m = 0) ∧
      (∃ s m x, Val.fin s m x ∈ [Val.fin true 3 1, .fin false 0 9] ∧ m ≠ 0 ∧ x + Nat.log2 m = (2 : Int)) ∧
      (∀ s m x, Val.fin s m x ∈ [Val.fin true 3 1, .fin false 0 9] → m ≠ 0 → x + Nat.log2 m ≤ (2 : Int)) := by
  refine ⟨by decide +kernel, ?_, ⟨true, 3, 1, by decide⟩, ?_⟩
  · intro s m x h; simp at h; exact h.2.1
  · intro s m x h; simp at h; rcases h with ⟨-, rfl, rfl⟩ | ⟨-, rfl, -⟩
    · decide
    · exact fun h => absurd rfl h

/-- TileCopy: a one-byte copy in global memory, a full queue, a bad descriptor, a missing barrier, an SPM that no network slot
reaches, and a set to publish with each of its checks. -/
theorem witness_TileCopy :
    let k : Block := { nfibre := 1, win := 64, bars := [5], handles := [(1, { home := 1, len := 64 })] }
    let s (l : List CpeCmd) := tiled { cpe := l, tsq := {
      k := [(1, 0x20000), (2, 1), (3, 0x100000000000000), (4, 0x20001)]
      d := [(0, 0x2000), (1, 0x2001), (2, 0x7000000000000000), (3, 0x0500000000000000)] } } k
    let q := tq (s [])
    TileTurn (s []) 0 q ∧ TileTurn (s (List.replicate 16 {})) 0 (tq (s (List.replicate 16 {}))) ∧ q.q.cpe.length < 16 ∧
      16 ≤ (tq (s (List.replicate 16 {}))).q.cpe.length ∧ copyCheck q.k 1 false 0x2000 0x2001 0 0 0 = none ∧
      (copyCheck q.k 1 false 0x0300000000000000 0x2001 0 0 0).isSome ∧ q.k.bars[1]? = none ∧ q.k.bars[0]? = some 5 ∧
      copyCheck q.k 1 false 0x0500000000000000 0x2001 0 0 0 = none ∧
      (netslotCheck q.q 0 (descBuf q.k 0x0500000000000000)).isSome ∧ netslotCheck q.q 0 (descBuf q.k 0x2000) = none ∧
      (q.kReg 2).toNat % 2 ^ 32 ≠ 0 ∧ (q.kReg 0).toNat % 2 ^ 32 = 0 ∧ (q.kReg 1).toNat % 4096 = 0 ∧ (q.kReg 1).toNat < 2 ^ 56 ∧
      2 ^ 56 ≤ (q.kReg 3).toNat ∧ (q.kReg 4).toNat % 4096 ≠ 0 :=
  ⟨tileTurn_of _ (by decide), tileTurn_of _ (by decide), by decide +kernel⟩

/-- TileChain: a free and a busy unit, rows in range and past the array, boundaries that fit and do not, an open chain with its
program, and the buffer of CHORD at its end and past it. -/
theorem witness_TileChain :
    let s (x : Xcu) (a : Nat) := tiled { xcu := x, tsq := {
      acctype := a, ad := [(0, 1000)], bd := [(0, 1)]
      k := [(1, 0), (2, 0x10001), (3, 0x400040), (4, 4088), (5, 4092), (6, 4096)] } }
    let q := tq (s {} 0x11)
    let sh (v r : Nat) : Shape := ⟨v % 65536, v / 65536 % 65536, r⟩
    TileTurn (s {} 0x11) 0 q ∧ TileTurn (s { busyTill := 1 } 0x11) 0 (tq (s { busyTill := 1 } 0x11)) ∧
      TileTurn (s { open_ := true, x := 1, p := 1, r := 1 } 0x11) 0 (tq (s { open_ := true, x := 1, p := 1, r := 1 } 0x11)) ∧
      q.q = (s {} 0x11).core 0 ∧ ¬(((s {} 0x11).core 0).seqCyc < q.q.xcu.busyTill ∨ q.q.xcu.run ≠ none) ∧
      ((s { busyTill := 1 } 0x11).core 0).seqCyc < ((s { busyTill := 1 } 0x11).core 0).xcu.busyTill ∧
      (rowRun q.q.tsq 0 64).isOk = true ∧ (rowRun q.q.tsq 128 64).isOk = false ∧ (q.kReg 2).toNat = 0x10001 ∧
      (q.kReg 3).toNat = 0x400040 ∧ (sh 0x10001 1).x * (sh 0x10001 1).p * (sh 0x10001 1).r ≤ 64 * 1 ∧
      64 * 1 < (sh 0x400040 1).x * (sh 0x400040 1).p * (sh 0x400040 1).r ∧ (tq (s {} 0x03)).q.tsq.acctype ≠ 0x11 ∧
      (q.kReg 4).toNat + 8 ≤ 4096 ∧ 4096 < (q.kReg 6).toNat + 8 ∧ (q.kReg 5).toNat % 8 ≠ 0 ∧ q.k.handles.find? 1 = some { len := 4096 } ∧
      q.k.handles.find? 2 = none ∧ stepsCheck q [] 0 ⟨1, 1, 1⟩ = none :=
  ⟨tileTurn_of _ (by decide), tileTurn_of _ (by decide), tileTurn_of _ (by decide), rfl, by decide +kernel⟩

/-- TileChain: the bytes of CHORD and the bytes that a step reads, with and without an uncorrectable error. -/
theorem witness_ChainErrors :
    let s (bad : List Nat) := tiled {
      spmBad := bad, xcu := { open_ := true, half := 1, x := 1, p := 1, r := 1 }, tsq := { acctype := 0x11, k := [(1, 8)] } }
    let q := tq (s [])
    let b : Buf := { len := 4096 }
    TileTurn (s [1]) 0 (tq (s [1])) ∧ q.k.handles.find? 1 = some b ∧ b.valid = true ∧ b.home = 0 ∧ (q.kReg 1).toNat % 8 = 0 ∧
      unitBad ((s [1]).core 0).spmBad (b.base + (q.kReg 1).toNat) 8 = true ∧ unitBad ((s []).core 0).spmBad (b.base + (q.kReg 1).toNat) 8 = false ∧
      (∃ w : BitVec 64, stepsCheck q [w] 0 ⟨1, 1, 1⟩ = none ∧ q.k.handles.find? (stepBits w 22 19) = some b ∧
        unitBad ((s [0]).core 0).spmBad (b.base + stepBits w 47 29) (1 * stepN w * q.bd (stepBits w 9 6) * coreSize (stepBits w 27 23)) = true) :=
  ⟨tileTurn_of _ (by decide), by decide +kernel, rfl, rfl, by decide +kernel, by decide +kernel, by decide +kernel, 0x08880000, by decide +kernel⟩

/-- The turn of the stream program `p` of core 0, with the bytes `l` from 0x16000 on, whose page is cached and whose line its slice holds. -/
def streaming (p : Producer) (l : List Byte := []) (queues : FMap Queue := []) : State :=
  let w := world {} [0x16] (core := { prs := some p, queues := queues })
  { w with cur := .producer 0, slices := [(sliceOf 0 0x16000, { lines := [(0x16000 / 128, {})] })], mem := w.mem ++ (List.range l.length).map fun i => (0x16000 + i, l.getD i 0) }

/-- StreamScalars: a zero register and another, equal and different ones. -/
theorem witness_StreamScalars : let p : Producer := { ms := [(2, 5), (3, 5)] }
    StreamTurn (streaming p) 0 p ∧ p.m 0 = 0 ∧ p.m 2 ≠ 0 ∧ p.m 2 = p.m 3 ∧ p.m 2 ≠ p.m 0 := ⟨⟨rfl, rfl⟩, by decide⟩

/-- StreamReads: fields to the payload's last bit and past it, a table that fits and one that does not, a symbol and none, a
literal with one byte of room and with none, distances at their bounds, and the three states in which PCHUNK finds a stream. -/
theorem witness_StreamReads :
    let p : Producer := { payload := 0x16000, clen := 4, header := 0x16010, ct := [(0, [2, 2, 2, 2])], ms := [(1, 4), (2, 1)], w := 4 }
    let s := streaming p [3, 0x44, 0x44]
    let t := streaming p [2, 0x22, 2]
    let full : Producer := { p with feed := 1 }
    StreamTurn s 0 p ∧ (payloadField s p 0 32 = .ok 0x444403) ∧ 8 * p.clen < 1 + 32 ∧
      readVirt s 0 0x16000 4 = .ok [3, 0x44, 0x44, 0] ∧ (payloadField s p 0 9 = .ok 3) ∧
      (payloadFields s p 4 4 9 = .ok [2, 2, 2, 2]) ∧ tableFits [2, 2, 2, 2] = true ∧ (payloadField t p 0 9 = .ok 2) ∧
      (payloadFields t p 4 3 9 = .ok [1, 1, 1]) ∧ tableFits [1, 1, 1] = false ∧
      (readSymbol s p [2, 2, 2, 2] 16 0 0 = .ok (3, 2)) ∧ (readSymbol s p [] 16 0 0).isOk = false ∧ symbolOf [2, 2, 2, 2] 2 3 = some 3 ∧
      (65535 : Nat) < 65536 + p.o ∧ (65536 : Nat) = 65536 + p.o ∧ (appendPayload s 1 p).isOk = true ∧
      min p.w 65536 < 5 ∧ 4 ≤ min p.w 65536 ∧ 4 + p.w ≤ 65536 + p.o ∧ chunkWaits (s.core 0) p = false ∧
      chunkWaits ((streaming full [] [(0, { data := List.replicate 32 [] })]).core 0) full = true ∧
      (readHeader s p 0x16010 = .ok (0, 0, false)) := by
  refine ⟨⟨rfl, rfl⟩, ok_of (by decide +kernel), by decide, by decide +kernel, ok_of (by decide +kernel), ok_of (by decide +kernel),
    by decide, ok_of (by decide +kernel), ok_of (by decide +kernel), by decide, ok_of (by decide +kernel), by decide +kernel, by decide,
    by decide, by decide, by decide +kernel, by decide, by decide, by decide, by decide, by decide, ok_of (by decide +kernel)⟩

/-- StreamOutput: enough history and too little, an entry that the elements fill and one that they pass, an open queue with room
and without, a scout with a header to read, and a held start record whose core is free. -/
theorem witness_StreamOutput :
    let p : Producer := { w := 256, feed := 1, scout := true, scoutAt := 0x16000, ms := [(1, 64), (2, 65)] }
    let s (n : Nat) := streaming p [] [(0, { data := List.replicate n [] })]
    let l : Launch := { ctx := 0 }
    let h : State := { streaming p with held := [(1, 0)], launches := [(0, l)] }
    (∀ n ∈ [31, 32], StreamTurn (s n) 0 p) ∧ 32 * (7 + 1) ≤ p.w - p.o ∧ p.w - p.o < 32 * 9 ∧
      p.f + (p.m 1).toNat * fmtBytes 0x11 ≤ 256 ∧ (p.m 1).toNat * fmtBytes 0x11 ≤ p.w - p.o ∧
      256 < p.f + (p.m 2).toNat * fmtBytes 0x11 ∧ 0 ∈ p.openQueues ∧ 1 ∉ p.openQueues ∧ (((s 31).core 0).queue 0).data.length < 32 ∧
      32 ≤ (((s 32).core 0).queue 0).data.length ∧ (1 : BitVec 8) &&& ~~~p.feed = 0 ∧ (2 : BitVec 8) &&& ~~~p.feed ≠ 0 ∧
      p.scoutStop = false ∧ p.scouted < p.nextChunk + p.value ∧ readVirt (s 0) 0 0x16000 16 = .ok (List.replicate 16 0) ∧
      h.held.find? 1 = some 0 ∧ h.launches.find? 0 = some l ∧ (h.core 1).prs = none ∧ (∀ n ∈ (h.core 1).queues.vals, n.data = []) ∧
      placementHeld h 1 0 = false ∧ (h.core 1).qOwner = none ∧ (h.core 1).ctx = l.ctx := by
  refine ⟨?_, ?_⟩
  case' refine_2 => and_intros <;> first | decide +kernel | exact ok_of (by decide +kernel)
  intro n hn
  simp only [List.mem_cons, List.not_mem_nil, or_false] at hn
  rcases hn with rfl | rfl <;> exact ⟨rfl, rfl⟩

/-- Bundles: slots that decode and that do not, a wait, a trap and neither; a loop nest, a prefix; each unit under way, before
its cycle and at it. -/
theorem witness_Bundles :
    let busy := tiled { mxe := { busyTill := 1 } }
    let nest : BitVec 256 := 0x40 ||| 1 <<< 136
    let op : MOp := .mma {} 0 0x20 0 0 0 0 0 0
    let m := Decode.mSlotBits op
    let r (next : Nat) : Core := { tsq := { repeat_ := some { m := m, next := next, cnt := 1 } } }
    let b (next : Nat) : Core := { tsq := { nest := some { total := 2, next := next } } }
    let j : MxeJob := { op := 4, queue := 0 }
    TileTurn tiled 0 (tq tiled) ∧ TileTurn busy 0 (tq busy) ∧ (slotsOf 0 (Decode.bundleM 0) (Decode.bundleC 0) (Decode.bundleX 0)).isOk = true ∧
      (slotsOf (0x3F <<< 8) 0 0 0).isOk = false ∧ mxeWait (tq busy).q 0 (mReq op) = some .engbusy ∧
      (vSem (.vnop {})).check (tq tiled) tiled = none ∧ (slotOk (Decode.decodeS (Decode.bundleS nest)) WellFormed.checkS).isOk = true ∧
      slotActive (tq tiled).q.tsq nest 78 = true ∧ (Decode.decodeM m = .ok op) ∧ (mReq op).op = 1 ∧
      ((b 1).tsq.nest.any fun n => (b 1).seqCyc < n.next) = true ∧ ((b 0).tsq.nest.any fun n => n.next ≤ (b 0).seqCyc) = true ∧
      ((r 1).tsq.repeat_.any fun n => (r 1).seqCyc < n.next) = true ∧ ((r 0).tsq.repeat_.any fun n => n.next ≤ (r 0).seqCyc) = true ∧
      canStart {} (newJob {} {} 0 (mReq op)) = true ∧ loadJob { mxe := { jobs := [j] } } = some j ∧
      ({ queues := [(0, { data := [[1]] })] } : Core).queue 0 = { data := [[1]] } ∧
      (⟨1, 0, 0, .k 1, 5, false⟩ : Landing).due ≤ 0 + 1 ∧ 0 + 1 < (⟨2, 0, 0, .k 1, 5, false⟩ : Landing).due ∧
      (⟨1, 0, 0, .row 1, 5, false⟩ : Landing).seq < (⟨1, 1, 0, .row 1, 6, true⟩ : Landing).seq ∧ ({ ends := 1 } : ChRun).ends ≤ 1 ∧
      (slotsOf (0x3F <<< 8) 0 0 0 matches .error .opcode) = true ∧ (slotsOf (1 <<< 30) 0 0 0 matches .error .reserved) = true ∧ 1 < nestTotal nest ∧
      (slotOk (Decode.decodeV (Decode.bundleV nest)) WellFormed.checkV).isOk = true ∧ Decode.bundleM 0x20 &&& 0xFE00000001FF = 0 ∧
      (slotsOf 0x20 0 (Decode.bundleC 0x20) (Decode.bundleX 0x20)).isOk = true ∧ m &&& 0xFE00000001FF ≠ 0 ∧
      canStart { mxe := { busyTill := 1 } } (newJob {} {} 0 (mReq op)) = false ∧
      (let popped (term : Option (QKind × List Byte)) : Core := {
         mxe := { jobs := [j] }, qOwner := some 0, queues := [(0, { term := term })] }
       (∀ pay ∈ [[], [1]], ∀ t ∈ [.eos, .poison], ((popped (some (t, pay))).queue 0) = { data := [], term := some (t, pay) }) ∧
         entriesReady (popped none) 0 (mReq (.mmaq {} 0 0 0 0 0 0 0 0)) = false ∧
         entriesReady (popped (some (.poison, []))) 0 (mReq (.mmaq {} 0 0 0 0 0 0 0 0)) = true ∧
         (queueCheck (popped (some (.poison, []))) 0 0 1).isSome = true ∧ (popped none).queue 0 = { data := [], term := none }) ∧
      (let k : Core := {
         tsq := { acctype := 0x03 }, tiles := [(0, {})], units := [(0, 0), (1, 0), (2, 0), (3, 0), (4, 0), (5, 0), (6, 0), (7, 0)] }
       mxeCheck k (AttOp.state {} k.tsq) 0 (mReq op) = none ∧ (mxeCheck {} (AttOp.state {} {}) 0 (mReq op)).isSome = true) := by
  refine ⟨tileTurn_of _ (by decide), tileTurn_of _ (by decide), by decide +kernel, by decide +kernel, by decide +kernel,
    by decide +kernel, by decide +kernel, by decide +kernel, by rfl, by decide +kernel⟩

/-- Bundles: bad weights under way, and a chain step that reads an uncorrectable error, and one that does not. -/
theorem witness_EngineErrors :
    let j : MxeJob := { op := 1, tile := some { bad := true } }
    let k : Core := { mxe := { jobs := [j] }, spmBad := [1] }
    let r : ChRun := { ends := 0, steps := [0], bufs := [{ base := 0, len := 8 }], x := 1, p := 1, r := 1 }
    badJob (mxeCycle (landCycle 0 0 k)) = some j ∧ j.tile.any (·.bad) = true ∧ badJob (mxeCycle (landCycle 0 0 {})) = none ∧
      r.ends ≤ k.seqCyc ∧ stepPoison { k with acmBad := [0] } { r with half := 1 } = true ∧ stepPoison k r = false := by
  decide +kernel

/-- FibreEvents: a fibre that waits for a frame slot, one with a pending trap, an ended one, a block that is over and one that is
not, a core that may issue and one that may not, and a mooring before its expiry and at it. -/
theorem witness_FibreEvents :
    let t : Trap := { code := 0x0C }
    let f : List Fibre := [{ status := .trapping t }, { pending := [t] }, { status := .ended }]
    let s (x : Fibre) := world x [16]
    (∀ x ∈ f, (s x).block 0 0 = some (issuer (s x)).k ∧ (issuer (s x)).k.fibres.find? 0 = some x) ∧
      freeSlot ((s {}).core 0).slotsUsed 0 1 = some 0 ∧ devBits (s {}) (offCX 0 8) 55 3 ≠ 0 ∧ t.code ≠ 0x0E ∧
      rangeFault (s {}) 0 1 3 0x10000 (256 + 8 * 64) = none ∧ ({ pending := [t] } : Fibre).takesPending = true ∧
      blockOver ((s {}).core 0) 0 (issuer (s {})).k = false ∧
      blockOver ((s { status := .ended }).core 0) 0 (issuer (s { status := .ended })).k = true ∧ ((s {}).core 0).pend = [] ∧
      ((s {}).core 0).preempting = false ∧ leadFibre (issuer (s {})).k = some 0 ∧
      mayIssue (s {}) 0 = true ∧ mayIssue (world {} [] (core := { preempt := [(0, 2)] })) 0 = false ∧
      (let m : Mooring := { recs := [{}], expiry := some 5 }
       let u (n : Nat) : State := { world {} [] (core := { moorings := [(7, m)] }) with cycle := n }
       ((u 4).core 0).moorings.find? 7 = some m ∧ (u 4).cycle < 5 ∧ 5 ≤ (u 5).cycle ∧ ((u 5).core 0).preempt.get 0 0 ≠ 2) := by
  decide +kernel

/-- A machine whose boot is done, with a queue of context 0 that is open and holds one record, `l`, at 0x16000. -/
def queued (ctl : BitVec 64) (l : List Byte) : State :=
  let w := world {}
  let s : State := { w with mem := w.mem ++ ((List.range l.length).map fun i => (0x16000 + i, l.getD i 0)).filter (·.2 ≠ 0) }
  devSet (devSet (devSet (devSet s 0x1000 0x10) (offQ 0 0) 0x16000) (offQ 0 8) ctl) (offQ 0 0x10) 1

/-- LaunchQueues: a TAIL at its bound and past it, a bound queue closed and open, a LAUNCH with room and without, a record that may
be launched and one that breaks RULE, and launches that are over and not. -/
theorem witness_LaunchQueues :
    let good : List Byte := [0, 0x30, 0, 0, 0, 0, 0, 0, 1, 0, 0, 0, 1, 0, 1, 0] ++ List.replicate 112 0
    let q (l : List Byte) : State :=
      { queued 0x4001 l with images := [{ ctx := 0, funcs := [{ start := 0x3000, size := 32, kind := 0, win := 8 }] }]
                             seals := [(3, { ctx := 0 })], tlb := [{ pg 3 with sealed_ := true }] }
    let a : Access := { id := 1, slot := 0, fib := 0, op := .launch 0, pa := 0x16000, size := 128 }
    let box (n : Nat) : State := { (q good).modCore 0 (fun k => { k with pend := [a] }) with inboxes := [(0, List.replicate n {})] }
    let x : Launch := { info := { done := 0x2000, nsucc := 1 } }
    ((16 : BitVec 32) - 0).toNat ≤ 2 ^ qctl (q good) 0 15 12 ∧ 2 ^ qctl (q good) 0 15 12 < ((17 : BitVec 32) - 0).toNat ∧
      tdiLocked (q good) 0 = false ∧ tdiLocked { q good with tdi := [(0, 1)] } 0 = true ∧ qctl (q good) 0 0 0 = 1 ∧
      qctl (queued 0x4000 []) 0 0 0 = 0 ∧ nextLaunch (q good) = none ∧ nextLaunch (box 15) = some (0, a, 0) ∧
      physRead (box 15) 0 0x16000 128 = some good ∧ queueCtx (box 15) 0 = 0 ∧ qctl (box 15) 0 1 1 = 0 ∧
      ((box 15).inboxes.get 0 []).length < 16 ∧ 16 ≤ ((box 16).inboxes.get 0 []).length ∧ devBits (world {}) 0x1000 4 4 = 0 ∧
      nextQueue (q good) = some 0 ∧ headRecord (q good) 0 = some (false, some { bytes := good, addr := 0x16000 }) ∧
      checkRecord (q good) 0 false good = none ∧ (parseRecord good).kind = 0 ∧
      checkRecord (q (List.replicate 128 0)) 0 false (List.replicate 128 0) = some 1 ∧
      ({ q good with launches := [(0, x), (1, { left := 1 })] } : State).launches.find? 0 = some x ∧ x.left = 0 ∧ x.info.done ≠ 0 ∧
      (translate (q good) 0 1 0x2000).isOk = true ∧ ((q good).inboxes.get 0 []).length < 16 ∧
      queueTakes (q good) 0 0 = true ∧ queueTakes (q good) 0 1 = false := by decide +kernel

/-- LaunchQueues: a LAUNCH to a queue of KIND 1, with a record of its form and with another; a record that does not read; a record
that a LAUNCH placed, good and bad. -/
theorem witness_LaunchStatus :
    let good : List Byte := [0, 0x30, 0, 0, 0, 0, 0, 0, 1, 0, 0, 0, 1, 0, 1, 0] ++ List.replicate 112 0
    let a : Access := { id := 1, slot := 0, fib := 0, op := .launch 0, pa := 0x16000, size := 128 }
    let s (ctl : BitVec 64) (l : List Byte) (bad : List Nat) : State :=
      { (queued ctl l).modCore 0 (fun k => { k with pend := [a] }) with
        bad := bad, seals := [(3, { ctx := 0 })], tlb := [{ pg 3 with sealed_ := true }]
        images := [{ ctx := 0, funcs := [{ start := 0x3000, size := 32, kind := 0, win := 8 }] }] }
    let bound (l : List Byte) : State := { s 0x4001 l [] with inboxes := [(0, [{ bytes := l, launcher := some (0, 1) }])], fromBox := [(0, true)] }
    qctl (s 0x4003 good []) 0 1 1 = 1 ∧ qctl (s 0x4003 good []) 0 0 0 = 1 ∧ sealForm (good.take 12 ++ List.replicate 116 0) = true ∧ sealForm good = false ∧
      ((s 0x4003 good []).inboxes.get 0 []).length < 16 ∧ nextLaunch (s 0x4001 good [0x16000 / 8]) = some (0, a, 0) ∧
      physRead (s 0x4001 good [0x16000 / 8]) 0 0x16000 128 = none ∧
      nextQueue (bound good) = some 0 ∧ headRecord (bound good) 0 = some (true, some { bytes := good, launcher := some (0, 1) }) ∧
      checkRecord (bound good) 0 false good = none ∧ (parseRecord good).kind = 0 ∧
      checkRecord (bound (List.replicate 128 0)) 0 false (List.replicate 128 0) = some 1 := by
  decide +kernel

/-- Placement: a block that may be placed and a core that is not among those chosen from; an order with nothing; a head before and
at its age; an interval before and at its end. -/
theorem witness_Placement :
    let w : Waiting := { win := 8, clusters := 1 }
    let s : State := { order := [w] }
    ((nextPlacement s 0).map fun p => (p.1, hasN p.2 0, hasN p.2 192)) = some (w, true, false) ∧ nextPlacement s 1 = none ∧
      placementOrder s 0 = [w] ∧ s.aging.find? 0 = none ∧ ¬(w.entered + 65536 ≤ 65535) ∧ w.entered + 65536 ≤ 65536 ∧
      (let x : Launch := { info := { stagger := 4 }, lastAt := [(0, 8)] }
       x.lastAt.find? 0 = some 8 ∧ 11 < 8 + x.info.stagger ∧ 8 + x.info.stagger ≤ 12) := by decide +kernel

/-- Preemption: a CMASK that covers a core and one that does not, a save to start, ones that wait and are due, and a saved core to
restore, free and busy. -/
theorem witness_Preemption :
    let s (kind : Nat) (k : Core) : State := { cores := [(0, { k with preempt := [(0, kind)] })] }
    let r (k : Core) : State := { cores := [(0, k)], saves := [(saveKey 0 0, {})] }
    let busy : Core := { blocks := [(0, {})] }
    hasN (coveredCores ((0x100 >>> 8 : BitVec 64).toNat % 256)) 0 = true ∧
      hasN (coveredCores ((0x100 >>> 8 : BitVec 64).toNat % 256)) 192 = false ∧ tdiLocked (s 1 {}) 0 = false ∧
      tdiLocked { s 1 {} with tdi := [(0, 2)] } 0 = true ∧ (s 1 {}).saves.find? (saveKey 0 0) = none ∧
      savingCtx ((s 1 busy).core 0) 1 (releasedFrom ((s 1 busy).core 0)) = none ∧
      savingCtx ((s 1 {}).core 0) 1 (releasedFrom ((s 1 {}).core 0)) = some 0 ∧ savingCtx ((s 1 {}).core 0) 2 (fun _ => true) = none ∧
      savingCtx ((s 2 busy).core 0) 2 (fun _ => true) = some 0 ∧
      ((coveredCores 1).filter fun c => ((r {}).saves.find? (saveKey c 0)).isSome) = [0] ∧
      ((coveredCores 1).filter fun c => ((s 1 {}).saves.find? (saveKey c 0)).isSome) = [] ∧
      releasedFrom ((r busy).core 0) ((r busy).core 0).ctx = false ∧ releasedFrom ((r {}).core 0) ((r {}).core 0).ctx = true ∧
      (((s 1 {}).core 0).moorings.map (·.1)).Nodup ∧ ((s 2 busy).core 0).ctx = 0 ∧ (∀ p ∈ (s 2 busy).cores, spmDue 0 0 p.1 p.2 = []) ∧
      mqSlots (s 1 {}) (clusterOf 0) = 0 ∧
      (let s1 (k : SavedCore) (bad : List Nat) : State := devSet { r {} with saves := [(saveKey 0 0, k)], bad := bad } (offPre 0) (0x100 &&& 0xFF06)
       let m : Mooring := { recs := [{}] }
       let k : SavedCore := { forced := true, k := { blocks := [(0, { nfibre := 1, win := 8, fibres := [(0, {})] })], moorings := [(7, m)] } }
       areaGood (s1 {} []) 0 0 (restoreParts (s1 {} []) 0 0 {}) = true ∧ areaGood (s1 {} [0]) 0 0 (restoreParts (s1 {} [0]) 0 0 {}) = false ∧
         areaGood (s1 k []) 0 0 (restoreParts (s1 k []) 0 0 k) = true ∧ areaNum (s1 k []) 0 0 112 8 % 2 = 0 ∧
         areaNum (s1 k []) 0 0 20 4 = 0 ∧ (m.recs.all fun t => t.slot.isNone) = true ∧ ((r {}).core 0).moorings.find? 7 = none ∧
         k.k.ctx = 0 ∧ ((r {}).core 0).ctx = 0) := by decide +kernel

/-- Preemption: a forced area of another context than the core's, while the core's flash record waits for room; a scratchpad access
that a save waits for and one that came after its request. -/
theorem witness_HeldRestore :
    let x : SavedCore := { forced := true, k := { ctx := 1 } }
    let s : State := { cores := [(0, { acct := { deferred := true } })], saves := [(saveKey 0 1, x)] }
    let s1 := devSet s (offPre 1) (0x100 &&& 0xFF06)
    let a : Access := { late with spm := some { len := 64 } }
    ((coveredCores 1).filter fun c => (s.saves.find? (saveKey c 1)).isSome) = [0] ∧ tdiLocked s 1 = false ∧
      releasedFrom (s.core 0) (s.core 0).ctx = true ∧ s.saves.find? (saveKey 0 1) = some x ∧ x.forced = true ∧ x.k.ctx = 1 ∧
      (s.core 0).ctx ≠ 1 ∧ flashHolds s1 (s.core 0) = true ∧ areaGood s1 0 1 (restoreParts s1 0 1 x) = true ∧
      spmDue 0 5 0 { pend := [a] } = [a] ∧ spmDue 0 5 0 { pend := [{ a with cycle := 6 }] } = [] := by
  decide +kernel

/-- Lanterns: a handler's address 0 is not the firmware's return address. -/
theorem witness_firmwarePc : (0 : BitVec 64) ≠ firmwarePc := fun h => by
  have h := congrArg (fun v : BitVec 64 => v.extractLsb' 62 2) h
  simp only [firmwarePc] at h
  have : (1#2 ++ Config.firmwareReturn ++ 0#1).extractLsb' 62 2 = 1#2 := by
    generalize Config.firmwareReturn = v
    ext i hi
    rcases (by omega : i = 0 ∨ i = 1) with rfl | rfl <;> simp only [BitVec.getElem_extractLsb', BitVec.getLsbD_append] <;> simp
  rw [this] at h
  exact absurd h (by decide)

/-- Lanterns: an idle Lantern with and without an event and a set, an invocation at its firmware address, at its budget and before
it, an access inside and outside its range, sends that are valid and not, and sets that may be enabled and not. -/
theorem witness_Lanterns :
    let r : LRun := { size := 4096, lo := 2, hi := 2, budget := 32, x := [(6, 0x8000000000002000)] }
    let e : LEvent := { kind := 3 }
    let x : Slice := { run := some r, lines := [(0x2000 / 128, {})], sram := [(0, 0x83), (1, 0x32), (2, 3)] }
    let sl := sliceOf 0 0x2000
    let s : State := { world {} with slices := [(sl, x)], cur := .lantern sl }
    let set1 (v : BitVec 64) : State := devSet { s with slices := [(sl, { events := [e], vectors := [(0, [0, 0, 0, 64])] })] } (offLH sl 0 0) v
    let m : LSend := { no := 0, ctx := 0, lantern := true, len := 1, sel := 0, dest := sl, pa := 0, payload := [] }
    (s.slice' sl).run = some r ∧ ((set1 0).slice' sl).run = none ∧ ((set1 0).slice' sl).events = [e] ∧
      setFor (set1 0) sl 3 0 0 = none ∧ setFor (set1 0x801) sl 3 0 0 = some 0 ∧ ((x.vectors.get 1 []).getD 3 0) = 0 ∧
      r.used < r.budget ∧ ({ r with used := 32 } : LRun).used = r.budget ∧
      nextStep r (lanternRaw s sl r) = some (.load 5 0x8000000000002000 8 true, 4) ∧ windowPa 0x8000000000002000 = some 0x2000 ∧
      windowOk sl r 0x2000 = true ∧ windowOk sl r 0x3000 = false ∧ (x.lines.find? (0x2000 / 128)).isSome ∧
      physRead s r.ctx 0x2000 8 = some (List.replicate 8 0) ∧ r.inRange 0x2FFF = true ∧ r.inRange 0x3000 = false ∧
      x.prefetches.find? (fun p => p.line = 7) = none ∧ backed (128 * 7) = true ∧
      [(⟨7, 0, 0, 0⟩ : LPref)].find? (fun p => p.line = 7) = some ⟨7, 0, 0, 0⟩ ∧
      nextSend s [{ m with lantern := false }] [] = some { m with lantern := false } ∧ 4048 + 48 ≤ r.size ∧ r.size < 4056 + 48 ∧
      sendOf s r 0 (List.replicate 48 0) = none ∧ (sendOf s r 0 ([1, 1] ++ List.replicate 46 0)).isSome ∧
      nextSend s [] [] = none ∧ nextSend s [m] [] = some m ∧ msgRefused s sl 0 = some 1 ∧ msgRefused (set1 0x801) sl 0 = none ∧
      setOn (set1 0x801) sl 0 = true ∧ setOn s sl 0 = false ∧ setValid s sl 0 (lhctlValue 1) = false ∧
      setValid (devSet (devSet s (offLH sl 0 8) 0x100) (offLH sl 0 0x18) 0x1000) sl 0 (lhctlValue 1) = true ∧
      nextStep r 0xFFFFFFFF = some (.illegal, 4) ∧ (nextStep r 0x00100293).isSome ∧ nextStep r 0x0080_00EF = some (.jump 1 8, 4) := by
  decide +kernel

/-- Lanterns: the handler SRAM's uncorrectable errors, a read of a write-only CSR, and the events that a set takes. -/
theorem witness_LanternErrors :
    let r : LRun := { size := 4096, lo := 2, hi := 2, budget := 32 }
    let x : Slice := { run := some r, sramBad := [1] }
    let sl := sliceOf 0 0x2000
    let s (x : Slice) : State := { world {} with slices := [(sl, x)], cur := .lantern sl }
    let set1 : State := devSet (s { events := [{ kind := 3 }, { kind := 0 }] }) (offLH sl 0 0) 0x801
    unitBad x.sramBad (r.base + 8) 48 = true ∧ unitBad x.sramBad (r.base + 16) 48 = false ∧
      unitBad x.sramBad (r.base + r.pc.toNat) 4 = false ∧ unitBad x.sramBad (r.base + ({ r with pc := 8 } : LRun).pc.toNat) 4 = true ∧
      nextStep { r with pc := 8 } 0x00100293 = some (.reg 5 1, 4) ∧ nextStep r 0x80202573 = some (.csr 2 10 0x802 0 0, 4) ∧
      setTakes set1 sl 0 3 0 0 = true ∧ setTakes set1 sl 0 0 0 0 = false ∧
      (∀ e ∈ ((s { events := [{ kind := 3 }] }).slice' sl).events, setTakes (s {}) sl 0 e.kind e.ctx e.addr = false) ∧
      (∀ e ∈ (set1.slice' sl).events, e.kind ≠ 1) := by
  decide +kernel

/-- DebugMonitor: a ring with room and a full one, no notice, a fibre that is stopped with its frame, and requests of each kind with
arguments at their bounds and past them. -/
theorem witness_DebugMonitor :
    let x : Fibre := { status := .debug, depth := 1, frame := 0x10000 }
    let page : Nat := 0x20000
    let s (l : List Host.Cell) : State :=
      let w := world x [] (dev := [(offDbg 0 0, 1), (offDbg 0 8, 0x20000)])
      { w with mem := w.mem ++ l, clusters := [(0, { notices := [⟨0x10000, 0, 0, 0⟩] })] }
    let ask (cmd : Byte) (args : List Host.Cell) : State := s ([(page, 1), (page + 16, cmd)] ++ args)
    ((s []).cluster 0).notices = [⟨0x10000, 0, 0, 0⟩] ∧ ((s []).cluster 1).notices = [] ∧ pageNum (s []) 0 2032 8 = some 0 ∧
      pageNum (s []) 0 2040 8 = some 0 ∧ (0 + 2 ^ 64 - 0) % 2 ^ 64 ≠ 128 ∧ pageNum (s [(page + 2032, 128)]) 0 2032 8 = some 128 ∧
      (128 + 2 ^ 64 - 0) % 2 ^ 64 = 128 ∧ (stoppedFibre (s []) 0 0x10000).isSome ∧ (stoppedFibre (s []) 0 0x10008).isNone ∧
      readVirt (s []) 0 0x10000 (256 + 8 * 64) = .ok (List.replicate 768 0) ∧ pageNum (s []) 0 0 8 = pageNum (s []) 0 8 8 ∧
      (∀ c ∈ [0, 1, 2, 3, 4, 5], pageNum (ask c []) 0 0 8 = some 1 ∧ pageNum (ask c []) 0 8 8 = some 0 ∧
        pageNum (ask c []) 0 16 4 = some c.toNat ∧ physRead (ask c []) hubKey (debugPage (ask c []) 0 + 64) 192 =
          some (List.replicate 192 0)) ∧
      physRead (ask 1 [(page + 73, 4)]) hubKey (debugPage (ask 1 [(page + 73, 4)]) 0 + 72) 4 = some [0, 4, 0, 0] ∧
      readVirt (ask 1 []) 0 0 1024 = .ok (List.replicate 1024 0) ∧
      (match readVirt (ask 1 []) 0 0x800000 1 with | .fault _ va => decide (va = 0x800000) | _ => false) = true ∧
      rangeFault (s []) 0 1 2 (0x10000 + 760) 8 = none ∧ 760 % 8 = 0 ∧ (760 - 256) / 8 < 64 ∧ ¬((768 - 256) / 8 < 64) := by decide +kernel

/-- DebugMonitor: a frame named with reserved bits set, and a register write whose address does not translate in the page's context. -/
theorem witness_DebugCorners :
    let x : Fibre := { status := .debug, depth := 1, frame := 0x10000 }
    let s : State := world x [] (dev := [(offDbg 0 0, 1), (offDbg 0 8, 0x20000)])
    (stoppedFibre s 0 ((0xFF00000000010000 : BitVec 64).toNat % 2 ^ 56)).isSome = true ∧
      (rangeFault s 5 1 2 (0x10000 + 760) 8).isSome = true ∧ ¬(300 = 0 ∨ (256 ≤ 300 ∧ 300 % 8 = 0 ∧ (300 - 256) / 8 < 64)) := by
  decide +kernel

/-- Trust: a context that may be programmed and one that is enabled, a session and none, slots 15, 16, 31 and 32, each TDI state, and a
kill that may begin and one under way. The result of unwrapping a key is a free value of log 10. -/
theorem witness_Trust :
    let s (t : Nat) : State := { tdi := [(1, t)], sessions := [(2, 5)] }
    tdiLocked (s 0) 1 = false ∧ tdiLocked (s 1) 1 = true ∧ tdiLocked (s 2) 1 = true ∧ tdiLocked (s 3) 1 = false ∧
      devBits (s 0) 0x7000 17 17 = 0 ∧ devBits (s 0) (offCX 1 0) 0 0 = 0 ∧ devBits (devSet (s 0) (offCX 1 0) 1) (offCX 1 0) 0 0 = 1 ∧
      (s 0).sessions.find? 2 = some 5 ∧ (s 0).sessions.find? 3 = none ∧ (15 < 16 ∨ 31 < 15) ∧ 16 ≤ 16 ∧ 31 ≤ 31 ∧ 31 < 32 ∧
      devBits (s 0) 0x9C00 9 9 = 0 ∧ devBits (devSet (s 0) 0x9C00 0x200) 0x9C00 9 9 = 1 := by decide +kernel

/-- Trust: a context with something of each kind on the part, and one with nothing; a slice with a fill held and none. -/
theorem witness_Killing :
    let w : State := { shadow := [(0, 1, 0)], tdi := [(1, 2)] }
    let s : State := { tdi := [(1, 2)], slices := [(0, { events := [{ kind := 0 }] })] }
    w.tdi.get 1 0 = 2 ∧ ¬(∀ p ∈ w.shadow, p.2.1 ≠ 1) ∧ (∀ p ∈ s.shadow, p.2.1 ≠ 1) ∧
      (∀ e ∈ (s.slice' 0).events, e.kind ≠ 1) ∧ queueCtx s 0 = 0 ∧ lhBits s 0 0 0 6 1 = 0 := by
  decide +kernel

/-- Fleet: a tick that is due with each state of EN, the exchange on a healthy link and on none, temperatures at each bound, SUP at 48,
accesses of gangs that are held and not, and slices before, at and after their window. -/
theorem witness_Fleet :
    let s (l : List (Nat × BitVec 64)) : State := l.foldl (fun s p => devSet s p.1 p.2) {}
    let c (n : Nat) (s : State) : State := { s with cycle := n }
    let armed := s [(0xA200, 0x103), (0xA208, 10), (0xA210, 20)]
    fleetCycle (c 1 {}) % 2 ^ ({} : State).flashK ≠ 0 ∧ fleetCycle {} % 2 ^ ({} : State).flashK = 0 ∧ devBits {} 0x8000 0 0 = 0 ∧
      devBits (s [(0x8000, 0x80)]) 0x8000 7 7 = 1 ∧ devBits (s [(0x8000, 0x80)]) 0x8000 6 6 = 0 ∧
      devBits (s [(0xA000, 2)]) 0xA000 1 0 = 2 ∧ devBits {} 0xA000 1 0 ≠ 2 ∧ linkHealthy {} = false ∧
      linkHealthy (s [(0xA008, 2)]) = true ∧ 110 ≤ ((List.replicate 256 (110 : BitVec 8)).getD 0 0).toNat ∧
      ((List.replicate 256 (109 : BitVec 8)).getD 255 0).toNat < 110 ∧ devBits {} 0x9000 6 0 ≠ 64 ∧
      ((List.replicate 256 (95 : BitVec 8)).getD 255 0).toNat ≤ 95 ∧ devBits (s [(0x9008, 0x3000)]) (0x9000 + 8 * 1) 13 8 ≤ 48 ∧
      runsGang {} 3 = true ∧ runsGang armed 3 = false ∧ (devGet (s [(0xA218, 1)]) 0xA218).toNat.testBit 0 = true ∧
      devBits armed 0xA200 8 8 = 1 ∧ devBits {} 0xA200 8 8 = 0 ∧ gangReady {} = false ∧ gangReady (c 9 armed) = false ∧
      gangReady (c 10 armed) = true ∧ gangReady (c 19 armed) = true ∧ fleetCycle (c 10 armed) ≤ (devGet (c 10 armed) 0xA208).toNat ∧
      (devGet armed 0xA208).toNat < fleetCycle (c 11 armed) ∧ (devGet armed 0xA210).toNat ≤ fleetCycle (c 20 armed) ∧
      fleetCycle (c 19 armed) < (devGet armed 0xA210).toNat := by decide +kernel

/-- Fleet: a ring with room for a tick's records; the throttle's cycles; links up and down; peers that are held, that wait behind one of
their own, and that may go on; a register's address. -/
theorem witness_FleetPorts :
    let s (l : List (Nat × BitVec 64)) : State := l.foldl (fun s p => devSet s p.1 p.2) {}
    let en := s [(0x8000, 0xB0001), (0x8008, 0x100000)]
    let p (port : Option Nat) : PeerHold := ⟨port, 3, false, 0x2000, [0]⟩
    let held : State := { s [(0xA000, 1)] with peers := [p (some 0)] }
    (devGet en 0x8010).toNat + 1792 ≤ (devGet en 0x8018).toNat + 2 ^ devBits en 0x8000 20 16 ∧ 1792 ≤ 2 ^ devBits en 0x8000 20 16 ∧
      devBits en 0x8000 0 0 = 1 ∧ keyGone en hubKey = false ∧ (devBits en 0x9A00 51 12 * 4096 + 32 * 2 ^ devBits en 0x9A00 3 0) ≤ 0x100000 ∧
      devBits en 0x8008 51 12 * 4096 = 0x100000 ∧ backed 0x100000 = true ∧ backed (0x100000 + 512 * 2047 + 511) = true ∧
      0 < 65536 ∧ 65536 % 2 ^ 16 = 0 ∧ 65537 % 2 ^ 16 ≠ 0 ∧
      devBits (s [(0xA000, 2), (0xA008, 2)]) (0xA000 + 8 * 1) 1 0 = 2 ∧ devBits held 0xA000 1 0 < 2 ∧
      suppressed {} hostIsland 0 = false ∧ suppressed (s [(0x9000 + 8 * hostIsland, 64)]) hostIsland 0 = true ∧
      held.peers.any (fun q => decide (q.link = some 0 ∧ q.ctx = 3)) = true ∧ ({} : State).peers = [] ∧
      unbacked 0x2000 = false ∧ sliceShut {} (peerDie none) 0x2000 = false ∧
      lineReady (({} : State).slice' (sliceOf (peerDie none) 0x2000)) (0x2000 / 128) = false ∧
      lineReady (({ slices := [(sliceOf 0 0x2000, { lines := [(0x2000 / 128, {})] })] } : State).slice' (sliceOf (peerDie none) 0x2000))
        (0x2000 / 128) = true ∧ touchedLines 0x2000 1 = [0x2000] ∧ 2 ^ 52 ≤ 2 ^ 52 + 0x8000 := by
  decide +kernel

/-- BootAndLoad: a stage to verify and a boot that is over, offsets at their bounds, a locked and an unlocked context, no load and one
with a candidate that the sealing engine accepts, a seal queue's record, an image. Whether a signature verifies is a free value of log
10. -/
theorem witness_BootAndLoad :
    let done : State := devSet {} 0x1000 0x15
    let j : LoadJob := { ctx := 0, base := 0, placed := some { index := 0, version := 1, image := { ctx := 0 } } }
    let sealQ (l : List Byte) := queued 0x4003 l
    devBits {} 0x1000 4 4 = 0 ∧ devBits {} 0x1000 7 5 = 0 ∧ devBits (devSet {} 0x1000 4) 0x1000 3 0 + 1 = 5 ∧
      devBits done 0x1000 4 4 = 1 ∧ 0x807FFF8 % 8 = 0 ∧ tdiLocked {} 63 = false ∧ tdiLocked { tdi := [(63, 1)] } 63 = true ∧
      contextHeld {} 63 = false ∧ contextHeld { order := [{ ctx := 63 }] } 63 = true ∧
      ({} : State).loads = [] ∧ (objectOf []).isNone ∧ (sealPlaced { loads := [j] } j (j.placed.getD { index := 0, version := 0, image := { ctx := 0 } })).isOk = true ∧
      nextSealQueue (sealQ (List.replicate 128 0)) = some 0 ∧ ((headRecord (sealQ (List.replicate 128 0)) 0).any fun p => p.2.isSome) = true ∧
      poolOwner (sealQ []) 0 0 0 = none ∧ headRecord { sealQ [] with erased := [0] } 0 = some (false, none) ∧
      nextSealQueue { sealQ [] with erased := [0] } = some 0 ∧
      (List.find? (fun (x : Image) => decide (x.ctx = 0) && decide (x.id = 0)) [{ ctx := 0 }]).isSome := by decide +kernel

/-- BootAndLoad: a request that seals an empty page of an image's pool, and one whose node record breaks a limit. -/
theorem witness_SealRequests :
    let rec_ (nodes : Nat) := toBytes 128
      (0x5000 + 2 ^ 64 + 0x2000 * 2 ^ 128 + 0x2008 * 2 ^ 192 + 0x2010 * 2 ^ 256 + nodes * 2 ^ 352 + 0x2000 * 2 ^ 384)
    let i : Image := { ctx := 0, portable_ := some { pool := 0x5000, poolEnd := 0x7000 } }
    let s (nodes : Nat) : State := { queued 0x4003 (rec_ nodes) with images := [i] }
    let r (nodes : Nat) : InRec := { bytes := rec_ nodes, addr := 0x16000 }
    let ends (nodes : Nat) : Option Nat := (sealReq (advanceQueue (s nodes) 0 false) 0 (rec_ nodes)).map fun x =>
      (sealPool (advanceQueue (s nodes) 0 false) i x).2.1
    (∀ n ∈ [0, 1], nextSealQueue (s n) = some 0 ∧ queueCtx (s n) 0 = 0 ∧ headRecord (s n) 0 = some (false, some (r n)) ∧
      poolOwner (s n) 0 (numAt (rec_ n) 0 8) (numAt (rec_ n) 8 4) = some i) ∧
      ends 0 = some 0 ∧ ends 1 = some 8 ∧ (translate (s 0) 0 1 0x2000).isOk = true ∧ numAt (rec_ 0) 16 8 = 0x2000 := by
  decide +kernel

/-- An object of a version note for a part, its names, and their section headers (R307, R314). -/
def object (part : Nat) : List Byte :=
  let words : List (Nat × Nat) := [(0, 0x10102464C457F), (16, 0x1A7D00003), (40, 0x81), (48, 0x4000000000), (56, 0x2000300400000),
    (64, 0x1000000007), (72, 0x7264654100000001), (80, 0x400006C65), (88, part), (96, 0x6F6E2E0000000000), (104, 0x762E786A662E6574),
    (112, 0x2E006E6F69737265), (120, 0x6261747274736873), (152, 0x4000), (176, 0x800), (192, 0x70000000100), (216, 0x4000),
    (224, 0x2400), (240, 0x800), (256, 0x30000001300), (280, 0x6400), (288, 0x1D00), (304, 0x800)]
  toBytes 321 (words.foldl (fun n p => n + p.2 * 2 ^ (8 * p.1)) 0)

/-- BootAndLoad: an object whose one image any part takes, placed at a base, and one with an image for another part. -/
theorem witness_Objects :
    let job : LoadJob := { ctx := 0, base := 0x10000, file := object 0, todo := [0] }
    let chosen (part : Nat) : Option (List Nat) := (objectOf (object part)).map fun x => (candidates x.2).map Img.index
    chosen 0 = some [0] ∧ chosen 1 = some [] ∧
      ((objectOf (object 0)).any fun o => o.2[0]?.any fun x => (versionRefusal x).isNone && !x.portable &&
        (placeNative { ({} : State) with loads := [job] } 0 0x10000 o.1 x).isOk) = true := by
  decide +kernel

/-- BootAndLoad: the locks of each kind of register, on and off. -/
theorem witness_RegisterLocks :
    let s (l : List (Nat × BitVec 64)) : State := l.foldl (fun s p => devSet s p.1 p.2) {}
    let sets := s [(offLH 0 0 0, 1)]
    devBits {} 0x8000 0 0 = 0 ∧ devBits (s [(0x8000, 1)]) 0x8000 0 0 = 1 ∧ gangArmed {} = false ∧ gangArmed (s [(0xA200, 0x100)]) = true ∧
      devBits {} (offDbg 7 0) 0 0 = 0 ∧ devBits (s [(offDbg 7 0, 1)]) (offDbg 7 0) 0 0 = 1 ∧ tdiLocked {} (queueCtx {} 127) = false ∧
      qctl {} 127 0 0 = 0 ∧ qctl (s [(offQ 127 8, 1)]) 127 0 0 = 1 ∧ setOn {} 255 7 = false ∧ setOn sets 0 0 = true ∧
      tdiLocked {} (lhBits {} 255 7 0 6 1) = false ∧ (∀ b, b < 8 → sramLocked {} 255 (0x1FFF8 + b) = false) ∧
      devBits {} (offFW 11 15 8) 0 0 = 0 ∧ devBits (s [(offFW 0 0 8, 1)]) (offFW 0 0 8) 0 0 = 1 := by
  decide +kernel

/-- StepRunsDecoded: a fibre word, a stream word and a bundle that the next step fetches, a handler, and the end of a cycle. -/
theorem witness_StepRunsDecoded :
    let f := fibreAt [] 0x0400_0001_0202_0000
    let p := streamAt 0 id
    let t := tileAt 0 id
    f.agenda.head? = some (.issue (.fibre 0 0 0)) ∧ ((f.fibre 0 0 0).any fun x => x.canIssue && (duePending ((f.block 0 0).getD {}) x 0).isNone) = true ∧
      ((f.fibre 0 0 0).any fun x => readCode f 0 x.pc.toNat 8 = .ok [0, 0, 2, 2, 1, 0, 0, 4]) = true ∧
      p.agenda.head? = some (.issue (.producer 0)) ∧ ((p.core 0).prs.any fun x => decide (x.holdTill ≤ p.cycle) &&
        (tlbFind p x.ctx (x.pc.toNat / 4096)).isSome && decide (readCode p x.ctx x.pc.toNat 4 = .ok [0, 0, 0, 0])) = true ∧
      (f.core 0).last.reform = [] ∧ gangFree (f.core 0) f.cycle 0x10000 = true ∧ (tlbFind f 0 (0x10000 / 4096)).isSome = true ∧
      (let four : FMap Fibre := [(0, {}), (1, {}), (2, {}), (3, {}), (4, {})]
       let k : Core := {
         blocks := [(0, { placeBlock with fibres := four })]
         last := { cycle := 0, gangs := [(8, [(0, 1)]), (16, [(0, 2)]), (24, [(0, 3)]), (32, [(0, 4)])] } }
       gangFree k 0 0x10000 = false) ∧
      t.agenda.head? = some (.issue (.tile 0)) ∧ ((tileCtx t 0).any fun q => !tileHeld q.q && q.q.tsq.held.isEmpty &&
        (heldBundle q.q.tsq).isNone && fetchPoint q.q.tsq && !fetchStalls t 0 q.q.tsq && (tlbFind t q.k.ctx (q.pc.toNat / 4096)).isSome &&
        decide (readCode t q.k.ctx q.pc.toNat 32 = .ok (List.replicate 32 0))) = true ∧
      ((tileCtx (tileAt 0 fun k => { k with tsq := { k.tsq with body := some (k.tsq.pc, k.tsq.pc), bodyWords := [(k.tsq.pc.toNat, 0)] } }) 0).any
        fun q => !tileHeld q.q && q.q.tsq.holds q.pc && decide (q.q.tsq.bodyWords.find? q.pc.toNat = some 0)) = true ∧
      Decode.bundleNest 0x40 = true ∧ Decode.bundleRep 0x20 = true ∧ State.reset.agenda = [] := by decide +kernel

/-- StepRunsDecoded: an instruction that issues and one that waits; a tile program at its POISON, with held slots, with held
neither; a launch queue and a seal queue that the dispatcher serves, and none. -/
theorem witness_StepTurns :
    let t (f : Tsq → Tsq) := tileAt 0 fun k => { k with tsq := f k.tsq }
    let q (ctl : BitVec 64) := queued ctl (List.replicate 128 0)
    let served (s : State) : Option Nat := firstServed s ((List.range 128).filter fun q => headReady s q || sealReady s q)
    ((tileCtx (gatherDue (t fun k => { k with bad := true }) 0) 0).any fun x => x.q.tsq.bad && !tileHeld x.q) = true ∧
      ((tileCtx (gatherDue (t fun k => { k with held := [{ code := 3 }] }) 0) 0).any fun x => !x.q.tsq.bad && !x.q.tsq.held.isEmpty) = true ∧
      served (q 0x4001) = some 0 ∧ sealReady (q 0x4001) 0 = false ∧ served (q 0x4003) = some 0 ∧ sealReady (q 0x4003) 0 = true ∧
      served {} = none ∧ hasIssued 0 0 0 (fibreAt [] 0) ((fibreAt [] 0).modFibre 0 0 0 fun x => { x with pc := x.pc + 8 }) = true ∧
      hasIssued 0 0 0 (fibreAt [] 0) (fibreAt [] 0) = false := by
  decide +kernel

/-- EncodeRoundTrip and StepKeepsMemoryCanonical: an instruction of each width, and a state in the invariant that steps. -/
theorem witness_EncodeRoundTrip : Decode.encode (.nop {}) = some (64, 0) ∧ Decode.encode .pend = some (32, 0x80000000) ∧
    (Decode.encode (.xnop {})).map (·.1) = some 24 ∧ MemOk State.reset ∧ (∃ t, step State.reset = .next t) :=
  ⟨by rfl, by rfl, by rfl, by unfold MemOk; decide, ⟨_, rfl⟩⟩

end Sys2Proof.Tests
end

/-!
PROOFS. Integer division (R157) and bit fields (R160) of the fibre set: the word operations as exact values and bit by bit, then
the instructions.
-/
namespace Sys2Proof.Machine
open Sys2Proof.Safety

/-- An instruction of form A with two sources that computes `v` has the result `v` of its operands. -/
theorem result32_of_form2 {s : State} {h : FHdr} {q : FCtx} {i : Instr} {d sa sb : BitVec 8} {lat : Nat}
    {v : Word → Word → Word} {w : Word} (hx : exec i s = fibreExec h (form2 sa sb d lat v) s) (e : v (q.g sa) (q.g sb) = w) :
    Result32 s h q [srcA sa, srcB sb] i d w lat :=
  fun r => hx.trans (fix32_issues r e)

/-- An instruction of form A with three sources that computes `v` has the result `v` of its operands. -/
theorem result32_of_form3 {s : State} {h : FHdr} {q : FCtx} {i : Instr} {d sa sb sc : BitVec 8} {lat : Nat}
    {v : Word → Word → Word → Word} {w : Word} (hx : exec i s = fibreExec h (form3 sa sb sc d lat v) s)
    (e : v (q.g sa) (q.g sb) (q.g sc) = w) : Result32 s h q [srcA sa, srcB sb, srcC sc] i d w lat :=
  fun r => hx.trans (fix32_issues r e)

-- Division (R157)

/-- DIV on words: all ones for a zero divisor, else the quotient truncated toward zero, wrapped. -/
theorem wrap32_divZ_signed (a b : Word) : wrap32 (divZ a.toInt b.toInt (-1)) =
    if b = 0 then BitVec.allOnes 32 else BitVec.ofInt 32 (a.toInt.tdiv b.toInt) := by
  by_cases hb : b = 0
  · subst hb
    rfl
  · have hz : b.toInt ≠ 0 := fun e => hb (BitVec.toInt_inj.mp e)
    rw [divZ, if_neg hz, if_neg hb, wrap32]

/-- DIVU on words: all ones for a zero divisor, else the quotient of unsigned words. -/
theorem wrap32_divZ_unsigned (a b : Word) : wrap32 (divZ a.toNat b.toNat (2 ^ 32 - 1)) =
    if b = 0 then BitVec.allOnes 32 else a / b := by
  by_cases hb : b = 0
  · subst hb
    rfl
  · have hz : (b.toNat : Int) ≠ 0 := fun e => hb (BitVec.eq_of_toNat_eq (Int.ofNat_eq_zero.mp e))
    rw [divZ, if_neg hz, if_neg hb, wrap32, ← Int.ofNat_tdiv, BitVec.ofInt_natCast, BitVec.udiv_def]

/-- The remainder of R157 is the one of truncated division, whose value at a zero divisor is the dividend. -/
theorem remZ_eq_tmod (a b : Int) : remZ a b = a.tmod b := by
  by_cases hb : b = 0
  · simp [remZ, hb]
  · rw [remZ, if_neg hb, Int.tmod_def]

/-- REM on words: the dividend for a zero divisor, else the remainder of truncated division. -/
theorem wrap32_remZ_signed (a b : Word) : wrap32 (remZ a.toInt b.toInt) =
    if b = 0 then a else BitVec.ofInt 32 (a.toInt.tmod b.toInt) := by
  rw [remZ_eq_tmod, wrap32]
  by_cases hb : b = 0
  · subst hb
    simp
  · rw [if_neg hb]

/-- REMU on words: the dividend for a zero divisor, else the remainder of unsigned words. -/
theorem wrap32_remZ_unsigned (a b : Word) : wrap32 (remZ a.toNat b.toNat) = if b = 0 then a else a % b := by
  rw [remZ_eq_tmod, wrap32, ← Int.ofNat_tmod, BitVec.ofInt_natCast, ← BitVec.umod_def]
  by_cases hb : b = 0
  · subst hb
    simp
  · rw [if_neg hb]

/-- Settles O2: each instruction is the word operation of its lemma above, and no branch of R157 traps. -/
theorem divisionResults : Obligations.DivisionResults := by
  unfold Obligations.DivisionResults
  intro s h q d sa sb
  exact ⟨result32_of_form2 rfl (wrap32_divZ_signed _ _), result32_of_form2 rfl (wrap32_divZ_unsigned _ _),
    result32_of_form2 rfl (wrap32_remZ_signed _ _), result32_of_form2 rfl (wrap32_remZ_unsigned _ _)⟩

-- Bit fields (R160)

/-- The position that a field word of R160 holds. -/
def fieldPos (w : Word) : Nat := (w.extractLsb' 0 8).toNat
/-- The bits of a word from its field word's position on that the field covers (R160). -/
def fieldLen (w : Word) : Nat := min (w.extractLsb' 8 8).toNat (32 - fieldPos w)

/-- sext is the residue balanced around zero. -/
theorem sextN_eq_bmod (x n : Nat) : sextN x n = Int.bmod x (2 ^ n) := by
  cases n with
  | zero => simp [sextN, Nat.mod_one, Int.bmod_def]
  | succ n =>
    have hn : 2 ^ (n + 1) = 2 * 2 ^ n := Nat.pow_succ'
    have hz : (2 : Int) ^ (n + 1) = (2 * 2 ^ n : Nat) := by exact_mod_cast hn
    simp only [sextN, Int.bmod_def, hn, hz, ← Int.natCast_emod]
    generalize x % (2 * 2 ^ n) = r
    generalize 2 ^ n = k
    by_cases hr : r < k
    · rw [if_pos (by omega), if_pos (by omega)]
    · rw [if_neg (by omega), if_neg (by omega)]

/-- sext looks at the low bits alone. -/
theorem sextN_mod (x n : Nat) : sextN (x % 2 ^ n) n = sextN x n := by simp only [sextN, Nat.mod_mod]

/-- BFE reads the bits that its field covers; an empty field is 0. -/
theorem bfeWord_eq (sgn : BitVec 1) (a w : Word) : bfeWord sgn a w =
    if sgn = 1 then BitVec.ofInt 32 (Int.bmod (a.toNat / 2 ^ fieldPos w) (2 ^ fieldLen w))
    else BitVec.ofNat 32 (a.toNat / 2 ^ fieldPos w % 2 ^ fieldLen w) := by
  by_cases hz : (w.extractLsb' 8 8).toNat = 0 ∨ 32 ≤ fieldPos w
  · have hn : fieldLen w = 0 := by unfold fieldLen; omega
    have h0 : bfeWord sgn a w = 0 := if_pos hz
    simp [h0, hn, Nat.mod_one, Int.bmod_def]
  · have h1 : bfeWord sgn a w = if sgn = 1 then BitVec.ofInt 32 (sextN (a.toNat >>> fieldPos w % 2 ^ fieldLen w) (fieldLen w))
        else BitVec.ofNat 32 (a.toNat >>> fieldPos w % 2 ^ fieldLen w) := if_neg hz
    rw [h1, sextN_mod, sextN_eq_bmod, Nat.shiftRight_eq_div_pow]
    push_cast
    rfl

/-- A mask of `n` ones from bit `p` on, bit by bit. -/
theorem getLsbD_ones_shiftLeft (p n i : Nat) (hi : i < 32) :
    (BitVec.ofNat 32 (2 ^ n - 1) <<< p).getLsbD i = decide (p ≤ i ∧ i < p + n) := by
  simp only [BitVec.getLsbD_shiftLeft, BitVec.getLsbD_ofNat, Nat.testBit_two_pow_sub_one]
  grind

/-- BFI bit by bit: the inserted value within the field, the base outside. -/
theorem getLsbD_bfiWord (a b w : Word) (i : Nat) (hi : i < 32) : (bfiWord a b w).getLsbD i =
    if fieldPos w ≤ i ∧ i < fieldPos w + fieldLen w then b.getLsbD (i - fieldPos w) else a.getLsbD i := by
  by_cases hz : (w.extractLsb' 8 8).toNat = 0 ∨ 32 ≤ fieldPos w
  · have hn : fieldLen w = 0 := by unfold fieldLen; omega
    have h0 : bfiWord a b w = a := if_pos hz
    rw [h0, hn, if_neg (by omega)]
  · have h1 : bfiWord a b w = (a &&& ~~~(BitVec.ofNat 32 (2 ^ fieldLen w - 1) <<< fieldPos w)) |||
        ((b <<< fieldPos w) &&& (BitVec.ofNat 32 (2 ^ fieldLen w - 1) <<< fieldPos w)) := if_neg hz
    rw [h1, BitVec.getLsbD_or, BitVec.getLsbD_and, BitVec.getLsbD_and, BitVec.getLsbD_not, getLsbD_ones_shiftLeft _ _ _ hi,
      BitVec.getLsbD_shiftLeft]
    by_cases hf : fieldPos w ≤ i ∧ i < fieldPos w + fieldLen w
    · have hp : ¬ i < fieldPos w := by omega
      simp [hf, hi, hp]
    · simp [hf, hi]

-- Byte pick (R160)

/-- The reversal of `w` bits, bit by bit. -/
theorem testBit_revN (x w i : Nat) : (revN x w).testBit i = (decide (i < w) && x.testBit (w - 1 - i)) := by
  induction w generalizing i with
  | zero => simp [revN]
  | succ w ih =>
    cases i with
    | zero => cases hb : x.testBit w <;> simp [revN, hb, Nat.testBit_zero, Nat.add_mod]
    | succ i =>
      have hd : revN x (w + 1) / 2 = revN x w := by
        simp only [revN]
        split <;> omega
      rw [Nat.testBit_succ, hd, ih]
      have e : w + 1 - 1 - (i + 1) = w - 1 - i := by omega
      rw [e, decide_eq_decide.mpr Nat.succ_lt_succ_iff]

/-- The reversal of a bit vector's number is the number of its reversal. -/
theorem ofNat_revN {w : Nat} (v : BitVec w) : BitVec.ofNat w (revN v.toNat w) = v.reverse := by
  apply BitVec.eq_of_getLsbD_eq
  intro i hi
  rw [BitVec.getLsbD_ofNat, testBit_revN, BitVec.getLsbD_reverse, BitVec.getMsbD_eq_getLsbD, ← BitVec.testBit_toNat]
  simp [hi]

/-- The control byte `i` of BPICK. -/
def pickCtl (w : Word) (i : Nat) : Nat := (w.extractLsb' (8 * i) 8).toNat
/-- The byte that BPICK's control byte `i` selects from the two words (R160). -/
def pickByte (a b w : Word) (i : Nat) : Byte := ((b ++ a) >>> (8 * (pickCtl w i % 8))).setWidth 8

/-- The eight source bytes of BPICK are those of the two words side by side. -/
theorem ofNat_shiftRight_words (a b : Word) (n : Nat) :
    BitVec.ofNat 8 ((b.toNat * 2 ^ 32 + a.toNat) >>> n) = ((b ++ a) >>> n).setWidth 8 := by
  apply BitVec.eq_of_toNat_eq
  rw [BitVec.toNat_setWidth, BitVec.toNat_ushiftRight, BitVec.toNat_append, ← Nat.shiftLeft_add_eq_or_of_lt a.isLt,
    Nat.shiftLeft_eq, BitVec.toNat_ofNat]

/-- One byte of BPICK, by the kind in the top bits of its control byte. -/
theorem bpickByte_eq (a b w : Word) (i : Nat) : bpickByte a b w i =
    if pickCtl w i / 64 = 0 then pickByte a b w i else if pickCtl w i / 64 = 1 then 0
    else if pickCtl w i / 64 = 2 then 0xFF else (pickByte a b w i).reverse := by
  have hc : (w >>> (8 * i)).toNat % 256 = pickCtl w i := by
    rw [pickCtl, BitVec.extractLsb'_toNat, BitVec.toNat_ushiftRight]
  simp only [bpickByte, hc, ofNat_shiftRight_words, ofNat_revN]
  split
  · next e => rw [if_pos e, pickByte]
  · next e => rw [if_neg (by omega), if_pos e]
  · next e => rw [if_neg (by omega), if_neg (by omega), if_pos e]
  · next h0 h1 h2 => rw [if_neg h0, if_neg h1, if_neg h2, pickByte]

/-- A word put together from four bytes, byte by byte. -/
theorem extractLsb'_four_bytes (f : Nat → Byte) (i : Nat) (hi : i < 4) :
    (f 3 ++ f 2 ++ f 1 ++ f 0).extractLsb' (8 * i) 8 = f i := by
  apply BitVec.eq_of_getLsbD_eq
  intro j hj
  rw [BitVec.getLsbD_extractLsb']
  simp only [BitVec.getLsbD_append]
  have byte : i = 0 ∨ i = 1 ∨ i = 2 ∨ i = 3 := by omega
  rcases byte with rfl | rfl | rfl | rfl <;> grind

-- The three-input table (R160)

/-- The number that a run of powers of two adds up to stays below the next power. -/
theorem foldl_two_pow_lt (f : Nat → Bool) (n : Nat) :
    (List.range n).foldl (fun acc i => acc + (if f i then 2 ^ i else 0)) 0 < 2 ^ n := by
  induction n with
  | zero => simp
  | succ n ih =>
    rw [List.range_succ, List.foldl_append, List.foldl_cons, List.foldl_nil, Nat.pow_succ]
    split <;> omega

/-- The sum of the powers of two that `f` selects has the bits of `f`. -/
theorem testBit_foldl_two_pow (f : Nat → Bool) (n i : Nat) (hi : i < n) :
    ((List.range n).foldl (fun acc i => acc + (if f i then 2 ^ i else 0)) 0).testBit i = f i := by
  induction n with
  | zero => omega
  | succ n ih =>
    have hlt := foldl_two_pow_lt f n
    rw [List.range_succ, List.foldl_append, List.foldl_cons, List.foldl_nil]
    rcases Nat.lt_succ_iff_lt_or_eq.mp hi with h | rfl
    · rw [← ih h, Nat.add_comm]
      split
      · exact Nat.testBit_two_pow_add_gt h _
      · rw [Nat.zero_add]
    · have hb := Nat.testBit_lt_two_pow hlt
      rw [Nat.add_comm]
      by_cases hf : f i
      · rw [if_pos hf, Nat.testBit_two_pow_add_eq, hb, hf, Bool.not_false]
      · rw [if_neg hf, Nat.zero_add, hb, eq_false_of_ne_true hf]

/-- Settles O4: BFE and BFI by the field's cover, BPICK byte by byte, BLUT3 bit by bit. -/
theorem bitFieldResults : Obligations.BitFieldResults := by
  unfold Obligations.BitFieldResults
  intro s h q d sa sb sc lut
  refine ⟨result32_of_form2 rfl (bfeWord_eq 0 _ _), result32_of_form2 rfl (bfeWord_eq 1 _ _),
    ⟨_, result32_of_form3 rfl rfl, getLsbD_bfiWord _ _ _⟩,
    ⟨_, result32_of_form3 rfl rfl, fun i hi => ?_⟩, ⟨_, result32_of_form3 rfl rfl, fun i hi => ?_⟩⟩
  · exact (extractLsb'_four_bytes (bpickByte _ _ _) i hi).trans (bpickByte_eq _ _ _ i)
  · rw [BitVec.getLsbD_ofNat, testBit_foldl_two_pow _ _ _ hi]
    simp [hi, lut3]

end Sys2Proof.Machine
